-- ==== Sys2Proof/Word.lean ====
section
/-! DEFINITION. The word types and the keyed maps of plain data that the model is written with. -/

namespace Sys2Proof

/-- A register or instruction word (R80). -/
abbrev Word := BitVec 64

/-- A byte of memory. -/
abbrev Byte := BitVec 8

/-- Sparse data by key: pairs with rising keys, no pair holding the map's default value. -/
abbrev KMap (α : Type) := List (Nat × α)

/-- Bits `[hi:lo]` of a word as a number (R9). -/
def fld {n : Nat} (w : BitVec n) (hi lo : Nat) : Nat := (w.toNat / 2 ^ lo) % 2 ^ (hi + 1 - lo)

/-- Bit `i` of a word (R9). -/
def bit {n : Nat} (w : BitVec n) (i : Nat) : Bool := w.getLsbD i

end Sys2Proof
end

