-- ==== Sys2Proof/Syntax.lean ====
section
/-! DEFINITION. The commands of the block, one constructor per row of the opcode table, and their operands.

A thread instruction carries the thread that issues it and the parts of its 64-bit word that its row does not
fix: COND (bits [63:60]) and bits [51:0] (R80). Bits that a row fixes inside [51:0] (the RD field of a CMO
operation, FLD of TCFG, OP of TEW) are taken from the row. -/

namespace Sys2Proof

/-- Thread number `core * 16 + index` (03, Threads). -/
abbrev ThreadId := Fin 4608
/-- Core number 0-287. -/
abbrev CoreId := Fin 288
/-- C-die 0-3. -/
abbrev DieId := Fin 4
/-- Context ID 0-10,751 (R254). -/
abbrev CtxId := Fin 10752
/-- Krymas port 0-7. -/
abbrev PortId := Fin 8
/-- Peloton tree 0-7. -/
abbrev TreeId := Fin 8
/-- Host queue 0-63. -/
abbrev QueueId := Fin 64

/-- Who writes a register: R319 and R118 distinguish a core thread from the host. -/
inductive Writer where
  | host
  | thread (t : ThreadId)
  | ctx (x : CtxId)
  deriving DecidableEq, Repr

/-- What the check bits of a scalar-cache line show when it is next used (R74). -/
inductive CacheErr where
  | clean
  | single (word : Fin 32)
  | double (word : Fin 32)
  | tag
  deriving DecidableEq, Repr

/-- What an array's own checks find during an operation (R234, R235). -/
inductive ArrUpset where
  /-- the integer S of group `g` of cell (m, n) is off by `d` -/
  | residue (m n : Fin 32) (g : Nat) (d : Int)
  | feeder (tile : Fin 32) (slab : Fin 8)
  | accum (m n : Fin 32)
  deriving DecidableEq, Repr

/-- One block of an RD, WR or RDRSP message: a 32-byte granule and its poison mark (Table LNK-3). -/
structure Granule where
  bytes : List Byte
  poison : Bool
  deriving DecidableEq, Repr

/-- A link message: the fields of Table LNK-3 and its data slots; those of a Peloton message are its body. -/
structure LinkMsg where
  did : BitVec 10
  sid : BitVec 10
  op : BitVec 4
  nslot : BitVec 4
  cls : BitVec 2
  xid : BitVec 32
  addr : BitVec 48
  ctag : BitVec 7
  arg : BitVec 64
  data : List Granule
  deriving DecidableEq, Repr

/-- A received frame: the trailer of Table LNK-2, whether its CRC is good, its codewords that FEC corrected and could
not correct, and the messages whose last slot it holds. -/
structure Frame where
  crcGood : Bool
  corrected : Nat
  uncorrectable : Nat
  seq : BitVec 12
  ack : BitVec 12
  nak : Bool
  vc : Fin 4
  half : Bool
  crvc : Fin 4
  crh : Bool
  crn : BitVec 10
  usemap : BitVec 8
  msgs : List LinkMsg
  deriving DecidableEq, Repr

/-- The fields of Table PEL-2 that a receiver uses, and the body of the message. `codes` holds one
entry per live block (`none` for an EMPTY block), `bytes` one exponent byte per unfrozen block,
`words` GATHER's parameter words and `leaves` CHECK's entries. -/
structure PelMsg where
  tree : TreeId
  bucket : BitVec 12
  src : Fin 1024
  level : BitVec 4
  arrived : Nat
  step : BitVec 32
  fdig : BitVec 32
  missing : BitVec 1024
  bytes : List Byte
  codes : List (Option (List Byte))
  words : List (Nat × BitVec 32)
  leaves : List (Nat × List Byte)
  deriving DecidableEq, Repr

/-- A gearing image as its 8-byte little-endian words by word index; words not listed are 0 (R409). -/
structure Image where
  bytes : Nat
  words : KMap Word
  deriving DecidableEq, Repr

/-- A host-queue entry (Table HOST-3). -/
structure HqEntry where
  word0 : Word
  arg0 : Word
  arg1 : Word
  rest : List Word
  deriving DecidableEq, Repr

/-- Status of a read completion from the host (R429). -/
inductive CplStatus where
  | ok | ep | ur | ca
  deriving DecidableEq, Repr

/-- The resets of R438 that leave the module itself running. -/
inductive FnReset where
  | flr | hot | dlDown
  deriving DecidableEq, Repr

/-- The two transports of SPDM (R449). -/
inductive SpdmPath where
  | doe | mctp
  deriving DecidableEq, Repr

/-- The two paths of the mailbox (R453). -/
inductive MbxPath where
  | bar4 | i3c
  deriving DecidableEq, Repr

/-- Roles of enrolled keys (R454). -/
inductive Role where
  | owner | operator
  deriving DecidableEq, Repr

/-- One signature of a signed mailbox message (R455). -/
structure MbxSig where
  key : BitVec 256
  role : Role
  sig : BitVec 512
  deriving DecidableEq, Repr

/-- Highest junction sensors of the four C-dies and the hub, in degrees Celsius (R468, R469). -/
structure Temps where
  d0 : Nat
  d1 : Nat
  d2 : Nat
  d3 : Nat
  hub : Nat
  deriving DecidableEq, Repr

/-- What the host has written to configuration space once the link is up (R423 to R426, R429, log 33):
Bus Master Enable, MSI-X enable, ATS and IDE enables, the BAR2 size 2^(36 + bar2), and the addresses of the three BARs. -/
structure HostCfg where
  bme : Bool
  msix : Bool
  ats : Bool
  ide : Bool
  bar2 : Fin 6
  addr0 : Word := 0
  addr2 : Word := 0
  addr4 : Word := 0
  deriving DecidableEq, Repr

/-- The commands: one constructor per row of spec/opcode_table.json. -/
inductive Instr where
  /-- `REGISTER_WRITE` (R12). -/
  | registerWrite (w : Writer) (off : BitVec 26) (v : Word)
  /-- `CLK_COUNT_READ` (R34). -/
  | clkCountRead (id : BitVec 12)
  /-- `THR_CTL_RUN` (R47). -/
  | thrCtlRun (t : ThreadId)
  /-- `THR_CTL_HALT` (R46). -/
  | thrCtlHalt (t : ThreadId)
  /-- `THREAD_HALT_AT_BOUNDARY` (R46). -/
  | threadHaltAtBoundary (t : ThreadId)
  /-- `THR_CTL_CLEAR` (R44). -/
  | thrCtlClear (t : ThreadId)
  /-- `TIMER_EXPIRY` (R60). -/
  | timerExpiry (c : CoreId) (k : Fin 4)
  /-- `TMR_COUNT_WRITE` (R61). -/
  | tmrCountWrite (c : CoreId) (k : Fin 4) (v : Word)
  /-- `TMR_CTL_WRITE` (R61). -/
  | tmrCtlWrite (c : CoreId) (k : Fin 4) (v : Word)
  /-- `CACHE_FILL` (R70). -/
  | cacheFill (c : CoreId) (data : Bool) (e : Fin 48) (err : CacheErr)
  /-- `LOAD_DATA_RETURNS` (R91). -/
  | loadDataReturns (t : ThreadId)
  /-- `ADD` (R88). -/
  | add (t : ThreadId) (cond : BitVec 4) (f : BitVec 52)
  /-- `SUB` (R88). -/
  | sub (t : ThreadId) (cond : BitVec 4) (f : BitVec 52)
  /-- `AND` (R88). -/
  | and (t : ThreadId) (cond : BitVec 4) (f : BitVec 52)
  /-- `OR` (R88). -/
  | or (t : ThreadId) (cond : BitVec 4) (f : BitVec 52)
  /-- `XOR` (R88). -/
  | xor (t : ThreadId) (cond : BitVec 4) (f : BitVec 52)
  /-- `ANDN` (R88). -/
  | andn (t : ThreadId) (cond : BitVec 4) (f : BitVec 52)
  /-- `SLL` (R88). -/
  | sll (t : ThreadId) (cond : BitVec 4) (f : BitVec 52)
  /-- `SRL` (R88). -/
  | srl (t : ThreadId) (cond : BitVec 4) (f : BitVec 52)
  /-- `SRA` (R88). -/
  | sra (t : ThreadId) (cond : BitVec 4) (f : BitVec 52)
  /-- `ROR` (R88). -/
  | ror (t : ThreadId) (cond : BitVec 4) (f : BitVec 52)
  /-- `MIN` (R88). -/
  | min (t : ThreadId) (cond : BitVec 4) (f : BitVec 52)
  /-- `MAX` (R88). -/
  | max (t : ThreadId) (cond : BitVec 4) (f : BitVec 52)
  /-- `MINU` (R88). -/
  | minu (t : ThreadId) (cond : BitVec 4) (f : BitVec 52)
  /-- `MAXU` (R88). -/
  | maxu (t : ThreadId) (cond : BitVec 4) (f : BitVec 52)
  /-- `CMP` (R87). -/
  | cmp (t : ThreadId) (cond : BitVec 4) (f : BitVec 52)
  /-- `POPC` (R88). -/
  | popc (t : ThreadId) (cond : BitVec 4) (f : BitVec 52)
  /-- `MUL` (R90). -/
  | mul (t : ThreadId) (cond : BitVec 4) (f : BitVec 52)
  /-- `MULH` (R90). -/
  | mulh (t : ThreadId) (cond : BitVec 4) (f : BitVec 52)
  /-- `MFS` (R83). -/
  | mfs (t : ThreadId) (cond : BitVec 4) (f : BitVec 52)
  /-- `MTS` (R85). -/
  | mts (t : ThreadId) (cond : BitVec 4) (f : BitVec 52)
  /-- `ADDI` (R88). -/
  | addi (t : ThreadId) (cond : BitVec 4) (f : BitVec 52)
  /-- `SUBI` (R88). -/
  | subi (t : ThreadId) (cond : BitVec 4) (f : BitVec 52)
  /-- `ANDI` (R88). -/
  | andi (t : ThreadId) (cond : BitVec 4) (f : BitVec 52)
  /-- `ORI` (R88). -/
  | ori (t : ThreadId) (cond : BitVec 4) (f : BitVec 52)
  /-- `XORI` (R88). -/
  | xori (t : ThreadId) (cond : BitVec 4) (f : BitVec 52)
  /-- `ANDNI` (R88). -/
  | andni (t : ThreadId) (cond : BitVec 4) (f : BitVec 52)
  /-- `SLLI` (R88). -/
  | slli (t : ThreadId) (cond : BitVec 4) (f : BitVec 52)
  /-- `SRLI` (R88). -/
  | srli (t : ThreadId) (cond : BitVec 4) (f : BitVec 52)
  /-- `SRAI` (R88). -/
  | srai (t : ThreadId) (cond : BitVec 4) (f : BitVec 52)
  /-- `RORI` (R88). -/
  | rori (t : ThreadId) (cond : BitVec 4) (f : BitVec 52)
  /-- `MINI` (R88). -/
  | mini (t : ThreadId) (cond : BitVec 4) (f : BitVec 52)
  /-- `MAXI` (R88). -/
  | maxi (t : ThreadId) (cond : BitVec 4) (f : BitVec 52)
  /-- `MINUI` (R88). -/
  | minui (t : ThreadId) (cond : BitVec 4) (f : BitVec 52)
  /-- `MAXUI` (R88). -/
  | maxui (t : ThreadId) (cond : BitVec 4) (f : BitVec 52)
  /-- `CMPI` (R87). -/
  | cmpi (t : ThreadId) (cond : BitVec 4) (f : BitVec 52)
  /-- `MOVI` (R88). -/
  | movi (t : ThreadId) (cond : BitVec 4) (f : BitVec 52)
  /-- `MOVHI` (R88). -/
  | movhi (t : ThreadId) (cond : BitVec 4) (f : BitVec 52)
  /-- `LD` (R91). -/
  | ld (t : ThreadId) (cond : BitVec 4) (f : BitVec 52)
  /-- `SD` (R94). -/
  | sd (t : ThreadId) (cond : BitVec 4) (f : BitVec 52)
  /-- `PRF` (R95). -/
  | prf (t : ThreadId) (cond : BitVec 4) (f : BitVec 52)
  /-- `DCWB` (R97). -/
  | dcwb (t : ThreadId) (cond : BitVec 4) (f : BitVec 52)
  /-- `DCWBI` (R97). -/
  | dcwbi (t : ThreadId) (cond : BitVec 4) (f : BitVec 52)
  /-- `DCINV` (R97). -/
  | dcinv (t : ThreadId) (cond : BitVec 4) (f : BitVec 52)
  /-- `ICINV` (R97). -/
  | icinv (t : ThreadId) (cond : BitVec 4) (f : BitVec 52)
  /-- `ICINVALL` (R97). -/
  | icinvall (t : ThreadId) (cond : BitVec 4) (f : BitVec 52)
  /-- `DCWBIALL` (R97). -/
  | dcwbiall (t : ThreadId) (cond : BitVec 4) (f : BitVec 52)
  /-- `B` (R98). -/
  | b (t : ThreadId) (cond : BitVec 4) (f : BitVec 52)
  /-- `BL` (R98). -/
  | bl (t : ThreadId) (cond : BitVec 4) (f : BitVec 52)
  /-- `JR` (R98). -/
  | jr (t : ThreadId) (cond : BitVec 4) (f : BitVec 52)
  /-- `JLR` (R98). -/
  | jlr (t : ThreadId) (cond : BitVec 4) (f : BitVec 52)
  /-- `RPT` (R101). -/
  | rpt (t : ThreadId) (cond : BitVec 4) (f : BitVec 52)
  /-- `MOVS` (R109). -/
  | movs (t : ThreadId) (cond : BitVec 4) (f : BitVec 52)
  /-- `FILLS` (R109). -/
  | fills (t : ThreadId) (cond : BitVec 4) (f : BitVec 52)
  /-- `SCANS` (R109). -/
  | scans (t : ThreadId) (cond : BitVec 4) (f : BitVec 52)
  /-- `CMPS` (R109). -/
  | cmps (t : ThreadId) (cond : BitVec 4) (f : BitVec 52)
  /-- `WAIT` (R111). -/
  | wait (t : ThreadId) (cond : BitVec 4) (f : BitVec 52)
  /-- `WAIT_CONDITION_VISIBLE` (R112). -/
  | waitConditionVisible (t : ThreadId)
  /-- `WAIT_TAKE_REPLY` (R112). -/
  | waitTakeReply (t : ThreadId)
  /-- `WAIT_TIMEOUT` (R111). -/
  | waitTimeout (t : ThreadId)
  /-- `SIG` (R113). -/
  | sig (t : ThreadId) (cond : BitVec 4) (f : BitVec 52)
  /-- `SEMRD` (R114). -/
  | semrd (t : ThreadId) (cond : BitVec 4) (f : BitVec 52)
  /-- `SEMSET` (R114). -/
  | semset (t : ThreadId) (cond : BitVec 4) (f : BitVec 52)
  /-- `SEM_SIGNAL_APPLIED` (R506). -/
  | semSignalApplied (sem : BitVec 14) (n : Nat)
  /-- `SEM_TAKE_APPLIED` (R506). -/
  | semTakeApplied (sem : BitVec 14) (n : Nat)
  /-- `SEM_READ_APPLIED` (R114). -/
  | semReadApplied (sem : BitVec 14) (n : Nat)
  /-- `FENCE` (R96). -/
  | fence (t : ThreadId) (cond : BitVec 4) (f : BitVec 52)
  /-- `SYSCALL` (R124). -/
  | syscall (t : ThreadId) (cond : BitVec 4) (f : BitVec 52)
  /-- `SYSRET` (R125). -/
  | sysret (t : ThreadId) (cond : BitVec 4) (f : BitVec 52)
  /-- `XRET` (R125). -/
  | xret (t : ThreadId) (cond : BitVec 4) (f : BitVec 52)
  /-- `CSAVE` (R76). -/
  | csave (t : ThreadId) (cond : BitVec 4) (f : BitVec 52)
  /-- `CLOAD` (R77). -/
  | cload (t : ThreadId) (cond : BitVec 4) (f : BitVec 52)
  /-- `BRK` (R119). -/
  | brk (t : ThreadId) (cond : BitVec 4) (f : BitVec 52)
  /-- `BELL_LATCH` (R138). -/
  | bellLatch (c : CoreId)
  /-- `INTERRUPT_ENTRY` (R121). -/
  | interruptEntry (c : CoreId)
  /-- `BELL_SET` (R137). -/
  | bellSet (c : CoreId) (v : Word)
  /-- `HUB_BELL_SET` (R139). -/
  | hubBellSet (v : Word)
  /-- `HUB_BELL_CFG_WRITE` (R139). -/
  | hubBellCfgWrite (n : Fin 256) (v : Word)
  /-- `HUB_BELL_ACK` (R508). -/
  | hubBellAck (n : Fin 256)
  /-- `HUB_INPUT_CHANGE` (R140). -/
  | hubInputChange (c : CoreId) (j : Fin 16)
  /-- `EVT_IN_EDGE` (R141). -/
  | evtInEdge (k : Fin 4) (level : Bool)
  /-- `EVT_OUT_PULSE_END` (R411). -/
  | evtOutPulseEnd (pin : Fin 2)
  /-- `VADD` (R156). -/
  | vadd (t : ThreadId) (cond : BitVec 4) (f : BitVec 52)
  /-- `VSUB` (R156). -/
  | vsub (t : ThreadId) (cond : BitVec 4) (f : BitVec 52)
  /-- `VMUL` (R156). -/
  | vmul (t : ThreadId) (cond : BitVec 4) (f : BitVec 52)
  /-- `VFMA` (R154). -/
  | vfma (t : ThreadId) (cond : BitVec 4) (f : BitVec 52)
  /-- `VFMS` (R154). -/
  | vfms (t : ThreadId) (cond : BitVec 4) (f : BitVec 52)
  /-- `VMIN` (R154). -/
  | vmin (t : ThreadId) (cond : BitVec 4) (f : BitVec 52)
  /-- `VMAX` (R154). -/
  | vmax (t : ThreadId) (cond : BitVec 4) (f : BitVec 52)
  /-- `VABS` (R154). -/
  | vabs (t : ThreadId) (cond : BitVec 4) (f : BitVec 52)
  /-- `VAND` (R151). -/
  | vand (t : ThreadId) (cond : BitVec 4) (f : BitVec 52)
  /-- `VOR` (R151). -/
  | vor (t : ThreadId) (cond : BitVec 4) (f : BitVec 52)
  /-- `VXOR` (R151). -/
  | vxor (t : ThreadId) (cond : BitVec 4) (f : BitVec 52)
  /-- `VSHL` (R151). -/
  | vshl (t : ThreadId) (cond : BitVec 4) (f : BitVec 52)
  /-- `VSHR` (R151). -/
  | vshr (t : ThreadId) (cond : BitVec 4) (f : BitVec 52)
  /-- `VRCP` (R151). -/
  | vrcp (t : ThreadId) (cond : BitVec 4) (f : BitVec 52)
  /-- `VRSQ` (R151). -/
  | vrsq (t : ThreadId) (cond : BitVec 4) (f : BitVec 52)
  /-- `VEXP2` (R151). -/
  | vexp2 (t : ThreadId) (cond : BitVec 4) (f : BitVec 52)
  /-- `VCMP` (R158). -/
  | vcmp (t : ThreadId) (cond : BitVec 4) (f : BitVec 52)
  /-- `VSEL` (R151). -/
  | vsel (t : ThreadId) (cond : BitVec 4) (f : BitVec 52)
  /-- `VBCAST` (R151). -/
  | vbcast (t : ThreadId) (cond : BitVec 4) (f : BitVec 52)
  /-- `VEXT` (R145). -/
  | vext (t : ThreadId) (cond : BitVec 4) (f : BitVec 52)
  /-- `VINS` (R151). -/
  | vins (t : ThreadId) (cond : BitVec 4) (f : BitVec 52)
  /-- `VPERM` (R151). -/
  | vperm (t : ThreadId) (cond : BitVec 4) (f : BitVec 52)
  /-- `VSLIDE` (R151). -/
  | vslide (t : ThreadId) (cond : BitVec 4) (f : BitVec 52)
  /-- `VRSUM` (R157). -/
  | vrsum (t : ThreadId) (cond : BitVec 4) (f : BitVec 52)
  /-- `VRMAX` (R157). -/
  | vrmax (t : ThreadId) (cond : BitVec 4) (f : BitVec 52)
  /-- `VRMIN` (R157). -/
  | vrmin (t : ThreadId) (cond : BitVec 4) (f : BitVec 52)
  /-- `PAND` (R151). -/
  | pand (t : ThreadId) (cond : BitVec 4) (f : BitVec 52)
  /-- `POR` (R151). -/
  | por (t : ThreadId) (cond : BitVec 4) (f : BitVec 52)
  /-- `PXOR` (R151). -/
  | pxor (t : ThreadId) (cond : BitVec 4) (f : BitVec 52)
  /-- `PCNT` (R151). -/
  | pcnt (t : ThreadId) (cond : BitVec 4) (f : BitVec 52)
  /-- `VCVT` (R159). -/
  | vcvt (t : ThreadId) (cond : BitVec 4) (f : BitVec 52)
  /-- `VQMX` (R162). -/
  | vqmx (t : ThreadId) (cond : BitVec 4) (f : BitVec 52)
  /-- `VDQMX` (R165). -/
  | vdqmx (t : ThreadId) (cond : BitVec 4) (f : BitVec 52)
  /-- `VBLKZ` (R166). -/
  | vblkz (t : ThreadId) (cond : BitVec 4) (f : BitVec 52)
  /-- `VLD` (R167). -/
  | vld (t : ThreadId) (cond : BitVec 4) (f : BitVec 52)
  /-- `VST` (R167). -/
  | vst (t : ThreadId) (cond : BitVec 4) (f : BitVec 52)
  /-- `VLD2` (R169). -/
  | vld2 (t : ThreadId) (cond : BitVec 4) (f : BitVec 52)
  /-- `VLD3` (R169). -/
  | vld3 (t : ThreadId) (cond : BitVec 4) (f : BitVec 52)
  /-- `VLD4` (R169). -/
  | vld4 (t : ThreadId) (cond : BitVec 4) (f : BitVec 52)
  /-- `VST2` (R169). -/
  | vst2 (t : ThreadId) (cond : BitVec 4) (f : BitVec 52)
  /-- `VST3` (R169). -/
  | vst3 (t : ThreadId) (cond : BitVec 4) (f : BitVec 52)
  /-- `VST4` (R169). -/
  | vst4 (t : ThreadId) (cond : BitVec 4) (f : BitVec 52)
  /-- `VGATH` (R170). -/
  | vgath (t : ThreadId) (cond : BitVec 4) (f : BitVec 52)
  /-- `VSCAT` (R170). -/
  | vscat (t : ThreadId) (cond : BitVec 4) (f : BitVec 52)
  /-- `PLD` (R151). -/
  | pld (t : ThreadId) (cond : BitVec 4) (f : BitVec 52)
  /-- `PST` (R151). -/
  | pst (t : ThreadId) (cond : BitVec 4) (f : BitVec 52)
  /-- `VTRD` (R171). -/
  | vtrd (t : ThreadId) (cond : BitVec 4) (f : BitVec 52)
  /-- `VTWR` (R171). -/
  | vtwr (t : ThreadId) (cond : BitVec 4) (f : BitVec 52)
  /-- `TLOAD` (R189). -/
  | tload (t : ThreadId) (cond : BitVec 4) (f : BitVec 52)
  /-- `TSTORE` (R190). -/
  | tstore (t : ThreadId) (cond : BitVec 4) (f : BitVec 52)
  /-- `TILE_MOVE_COMPLETES` (R189). -/
  | tileMoveCompletes (c : CoreId) (j : Fin 32)
  /-- `TZERO` (R193). -/
  | tzero (t : ThreadId) (cond : BitVec 4) (f : BitVec 52)
  /-- `TREL` (R183). -/
  | trel (t : ThreadId) (cond : BitVec 4) (f : BitVec 52)
  /-- `TCFG_READ` (R181). -/
  | tcfgRead (t : ThreadId) (cond : BitVec 4) (f : BitVec 52)
  /-- `TCFG_ATTR` (R181). -/
  | tcfgAttr (t : ThreadId) (cond : BitVec 4) (f : BitVec 52)
  /-- `TCFG_OWNER` (R181). -/
  | tcfgOwner (t : ThreadId) (cond : BitVec 4) (f : BitVec 52)
  /-- `TCFG_OWNER_ATTR` (R181). -/
  | tcfgOwnerAttr (t : ThreadId) (cond : BitVec 4) (f : BitVec 52)
  /-- `TMMA` (R219). -/
  | tmma (t : ThreadId) (cond : BitVec 4) (f : BitVec 52)
  /-- `TLDACC` (R231). -/
  | tldacc (t : ThreadId) (cond : BitVec 4) (f : BitVec 52)
  /-- `TDRAIN` (R231). -/
  | tdrain (t : ThreadId) (cond : BitVec 4) (f : BitVec 52)
  /-- `TEW_ADD` (R233). -/
  | tewAdd (t : ThreadId) (cond : BitVec 4) (f : BitVec 52)
  /-- `TEW_MUL` (R233). -/
  | tewMul (t : ThreadId) (cond : BitVec 4) (f : BitVec 52)
  /-- `TEW_MAX` (R233). -/
  | tewMax (t : ThreadId) (cond : BitVec 4) (f : BitVec 52)
  /-- `TEW_SCALE` (R233). -/
  | tewScale (t : ThreadId) (cond : BitVec 4) (f : BitVec 52)
  /-- `TSYNC` (R195). -/
  | tsync (t : ThreadId) (cond : BitVec 4) (f : BitVec 52)
  /-- `ARRAY_OPERATION_BEGINS` (R228). -/
  | arrayOperationBegins (c : CoreId) (a : Fin 2) (upsets : List ArrUpset)
  /-- `ARRAY_OPERATION_COMPLETES` (R229). -/
  | arrayOperationCompletes (c : CoreId) (a : Fin 2)
  /-- `BANK_GATE` (R202). -/
  | bankGate (c : CoreId) (b : Fin 4)
  /-- `BANK_WAKE` (R202). -/
  | bankWake (c : CoreId) (b : Fin 4)
  /-- `SE_GO` (R256). -/
  | seGo (x : CtxId)
  /-- `SE_CANCEL` (R280). -/
  | seCancel (x : CtxId)
  /-- `COPY` (R261). -/
  | seCopy (x : CtxId)
  /-- `GATHER` (R261). -/
  | seGather (x : CtxId)
  /-- `SCATTER` (R261). -/
  | seScatter (x : CtxId)
  /-- `DISPATCH` (R284). -/
  | seDispatch (x : CtxId)
  /-- `COMBINE` (R285). -/
  | seCombine (x : CtxId)
  /-- `SE_TAKE_GRANTED` (R263). -/
  | seTakeGranted (x : CtxId) (out : Bool)
  /-- `SE_READ_RETURN` (R269). -/
  | seReadReturn (x : CtxId)
  /-- `SE_WRITE_ACCEPTED` (R263). -/
  | seWriteAccepted (x : CtxId)
  /-- `MEMORY_ADMISSION` (R308). -/
  | memoryAdmission (g : Fin 16)
  /-- `BANK_SERVE` (R310). -/
  | bankServe (ch : Fin 96) (bank : Fin 16) (syn : BitVec 48)
  /-- `REFRESH` (R312). -/
  | refresh (ch : Fin 96)
  /-- `POOL_CACHE_LOOKUP` (R298). -/
  | poolCacheLookup (d : DieId)
  /-- `XLAT_INV` (R305). -/
  | xlatInv (u : Fin 5) (v : Word)
  /-- `XLAT_INV_COMPLETE` (R305). -/
  | xlatInvComplete (u : Fin 5)
  /-- `LPDDR6_TRAINING_DONE` (R288). -/
  | lpddr6TrainingDone (failed : Option (Fin 96))
  /-- `MEM_READY` (R475). -/
  | memReady 
  /-- `PACKAGE_OVER_TEMPERATURE` (R472). -/
  | packageOverTemperature (pkg : Fin 24) (temp : Nat)
  /-- `STEP_CFG_WRITE` (R326). -/
  | stepCfgWrite (v : Word)
  /-- `STEP_CTL_RESET` (R350). -/
  | stepCtlReset 
  /-- `EVAL_OPEN` (R327). -/
  | evalOpen 
  /-- `EVAL_CLOSE` (R332). -/
  | evalClose 
  /-- `EVAL_LIMIT_EXPIRY` (R332). -/
  | evalLimitExpiry 
  /-- `SEQ_ENTRY_WRITE` (R333). -/
  | seqEntryWrite (e : Fin 1024) (v : Word)
  /-- `STEP_TOKENS_READ` (R334). -/
  | stepTokensRead 
  /-- `HANDOFF` (R341). -/
  | handoff (w : Writer) (tr : TreeId) (v : Word)
  /-- `HANDOFF_ABSENT` (R323). -/
  | handoffAbsent (w : Writer) (tr : TreeId) (v : Word)
  /-- `HANDOFF_CHECKED` (R341). -/
  | handoffChecked (tr : TreeId) (b : BitVec 12) (d : DieId)
  /-- `EXP` (R344). -/
  | pelExp (d : DieId) (m : PelMsg)
  /-- `SCALE` (R344). -/
  | pelScale (d : DieId) (m : PelMsg)
  /-- `DATA` (R346). -/
  | pelData (d : DieId) (m : PelMsg)
  /-- `RESULT` (R348). -/
  | pelResult (d : DieId) (m : PelMsg)
  /-- `PEL_GATHER` (R359). -/
  | pelGather (d : DieId) (m : PelMsg)
  /-- `CHECK` (R355). -/
  | pelCheck (d : DieId) (m : PelMsg)
  /-- `DL_EXP_EXPIRY` (R349). -/
  | dlExpExpiry (tr : TreeId) (b : BitVec 12) (d : DieId)
  /-- `DL_DATA_EXPIRY` (R349). -/
  | dlDataExpiry (tr : TreeId) (b : BitVec 12) (d : DieId)
  /-- `DL_RES_EXPIRY` (R343). -/
  | dlResExpiry (tr : TreeId) (b : BitVec 12) (d : DieId)
  /-- `DL_CHK_EXPIRY` (R355). -/
  | dlChkExpiry (tr : TreeId) (b : BitVec 12) (d : DieId)
  /-- `BUCKET_APPLIED` (R364). -/
  | bucketApplied (tr : TreeId) (b : BitVec 12) (d : DieId)
  /-- `FRAME_RECEIVED` (R373). -/
  | frameReceived (p : PortId) (f : Frame)
  /-- `ACK_TIMEOUT` (R374). -/
  | ackTimeout (p : PortId)
  /-- `RD` (R378). -/
  | lnkRd (p : PortId) (m : LinkMsg)
  /-- `WR` (R378). -/
  | lnkWr (p : PortId) (m : LinkMsg)
  /-- `RDRSP` (R381). -/
  | rdrsp (m : LinkMsg)
  /-- `WRACK` (R379). -/
  | wrack (m : LinkMsg)
  /-- `ERRRSP` (R381). -/
  | errrsp (m : LinkMsg)
  /-- `LOCAL_TIMEOUT` (R380). -/
  | localTimeout (xid : BitVec 32)
  /-- `CREDIT_STALL_EXPIRY` (R377). -/
  | creditStallExpiry (p : PortId) (vc : Fin 4) (h : Bool)
  /-- `LANE_LOSS_OF_LOCK` (R383). -/
  | laneLossOfLock (p : PortId) (lanes : BitVec 8)
  /-- `TRAINING_DONE` (R382). -/
  | trainingDone (p : PortId) (peer : BitVec 10) (width : Fin 3)
  /-- `TRAINING_TIMEOUT` (R382). -/
  | trainingTimeout (p : PortId)
  /-- `LNK_CTL_DOWN` (R385). -/
  | lnkCtlDown (p : PortId)
  /-- `LNK_CTL_RETRAIN` (R382). -/
  | lnkCtlRetrain (p : PortId)
  /-- `CAD_SYNC_EDGE` (R392). -/
  | cadSyncEdge 
  /-- `SYNC_MISSING` (R391). -/
  | syncMissing 
  /-- `CAD_REFCLK_LOSS` (R391). -/
  | cadRefclkLoss 
  /-- `VCLK_PLL_LOCK` (R392). -/
  | vclkPllLock 
  /-- `FRAME_START` (R393). -/
  | frameStart 
  /-- `CAD_CTL_RELOCK` (R394). -/
  | cadCtlRelock 
  /-- `CAD_CTL_RETRAIN` (R401). -/
  | cadCtlRetrain 
  /-- `CADENCE_RETRAIN_DONE` (R401). -/
  | cadenceRetrainDone 
  /-- `CADENCE_LANE_LOSS_OF_LOCK` (R401). -/
  | cadenceLaneLossOfLock (lanes : BitVec 4)
  /-- `CAD_COMMIT` (R396). -/
  | cadCommit (w : Writer) (v : Word)
  /-- `SLICE_COMPLETE` (R396). -/
  | sliceComplete (ch : Fin 4) (err : Bool)
  /-- `CHECK_INSTANT` (R397). -/
  | checkInstant (frame : BitVec 32) (slice : BitVec 16)
  /-- `CAD_SUBMIT` (R404). -/
  | cadSubmit (v : Word)
  /-- `ADMISSION_DECISION` (R405). -/
  | admissionDecision 
  /-- `JOB_START` (R407). -/
  | jobStart (p : Fin 16)
  /-- `GEAR_LOAD` (R415). -/
  | gearLoad (v : Word)
  /-- `GEAR_FLASH_LOAD` (R415). -/
  | gearFlashLoad (v : Word)
  /-- `GEAR_ABORT` (R418). -/
  | gearAbort 
  /-- `IMAGE_VALIDATION` (R412). -/
  | imageValidation (img : Option Image)
  /-- `QUIESCENCE_OBSERVED` (R418). -/
  | quiescenceObserved 
  /-- `APPLY_COMPLETE` (R419). -/
  | applyComplete 
  /-- `HQ_CFG_WRITE` (R430). -/
  | hqCfgWrite (q : QueueId) (v : Word)
  /-- `HQ_TAIL` (R431). -/
  | hqTail (q : QueueId) (v : Word)
  /-- `NOP` (R433). -/
  | hqNop (q : QueueId) (e : HqEntry)
  /-- `XFER` (R433). -/
  | hqXfer (q : QueueId) (e : HqEntry)
  /-- `XFER_COMPLETE` (R434). -/
  | xferComplete (q : QueueId)
  /-- `HQ_SIG` (R433). -/
  | hqSig (q : QueueId) (e : HqEntry)
  /-- `HQ_WAIT` (R433). -/
  | hqWait (q : QueueId) (e : HqEntry)
  /-- `HQ_WAIT_TIMEOUT` (R433). -/
  | hqWaitTimeout (q : QueueId)
  /-- `HQ_CQHEAD` (R434). -/
  | hqCqhead (q : QueueId) (v : Word)
  /-- `HQ_STOP` (R436). -/
  | hqStop (q : QueueId)
  /-- `BAR2_READ` (R427). -/
  | bar2Read (off : BitVec 48) (n : Fin 65)
  /-- `BAR2_WRITE` (R427). -/
  | bar2Write (off : BitVec 48) (bytes : List Byte) (ep : Bool)
  /-- `HOST_WINDOW_COMPLETION` (R429). -/
  | hostWindowCompletion (tag : Nat) (status : CplStatus) (bytes : List Byte)
  /-- `HOST_WINDOW_READ_TIMEOUT` (R429). -/
  | hostWindowReadTimeout (tag : Nat)
  /-- `FUNCTION_LEVEL_RESET` (R438). -/
  | functionLevelReset (kind : FnReset)
  /-- `ATS_INVALIDATE_REQUEST` (R424). -/
  | atsInvalidateRequest (page : BitVec 52)
  /-- `IDE_INTEGRITY_FAILURE` (R425). -/
  | ideIntegrityFailure 
  /-- `GET_VERSION` (R449). -/
  | getVersion (path : SpdmPath)
  /-- `GET_CAPABILITIES` (R449). -/
  | getCapabilities (path : SpdmPath)
  /-- `NEGOTIATE_ALGORITHMS` (R449). -/
  | negotiateAlgorithms (path : SpdmPath)
  /-- `GET_DIGESTS` (R449). -/
  | getDigests (path : SpdmPath)
  /-- `GET_CERTIFICATE` (R442). -/
  | getCertificate (path : SpdmPath) (slot : Fin 8) (off len : BitVec 16)
  /-- `CHALLENGE` (R449). -/
  | challenge (path : SpdmPath) (slot : Fin 8) (nonce : BitVec 256)
  /-- `GET_MEASUREMENTS` (R450). -/
  | getMeasurements (path : SpdmPath) (index : Byte) (nonce : BitVec 256)
  /-- `KEY_EXCHANGE` (R449). -/
  | keyExchange (path : SpdmPath) (share : List Byte)
  /-- `FINISH` (R449). -/
  | finish (path : SpdmPath) (mac : List Byte)
  /-- `END_SESSION` (R449). -/
  | endSession (path : SpdmPath)
  /-- `KEY_UPDATE` (R449). -/
  | keyUpdate (path : SpdmPath)
  /-- `VENDOR_DEFINED_REQUEST` (R449). -/
  | vendorDefinedRequest (path : SpdmPath) (body : List Byte)
  /-- `GET_INFO` (R453). -/
  | getInfo (p : MbxPath) (tag : BitVec 16)
  /-- `UPD_BEGIN` (R457). -/
  | updBegin (p : MbxPath) (tag : BitVec 16) (len : Nat)
  /-- `UPD_DATA` (R457). -/
  | updData (p : MbxPath) (tag : BitVec 16) (off : Nat) (bytes : List Byte)
  /-- `UPD_END` (R457). -/
  | updEnd (p : MbxPath) (tag : BitVec 16)
  /-- `ACTIVATE` (R458). -/
  | activate (p : MbxPath) (tag : BitVec 16) (slot : Bool)
  /-- `RESTART` (R476). -/
  | restart (p : MbxPath) (tag : BitVec 16)
  /-- `KEY_ENROLL` (R455). -/
  | keyEnroll (p : MbxPath) (tag : BitVec 16) (role : Role) (key : BitVec 256) (sigs : List MbxSig)
  /-- `KEY_REVOKE` (R455). -/
  | keyRevoke (p : MbxPath) (tag : BitVec 16) (role : Role) (key : BitVec 256) (sigs : List MbxSig)
  /-- `GEAR_SVN` (R455). -/
  | gearSvn (p : MbxPath) (tag : BitVec 16) (svn : BitVec 32) (sigs : List MbxSig)
  /-- `LOG_READ` (R462). -/
  | logRead (p : MbxPath) (tag : BitVec 16) (first count : Nat)
  /-- `SAG_BEGIN` (R461). -/
  | sagBegin (p : MbxPath) (tag : BitVec 16) (len : Nat)
  /-- `SAG_DATA` (R461). -/
  | sagData (p : MbxPath) (tag : BitVec 16) (off : Nat) (bytes : List Byte)
  /-- `SAG_END` (R461). -/
  | sagEnd (p : MbxPath) (tag : BitVec 16)
  /-- `PWR_OK_RISE` (R473). -/
  | pwrOkRise (inRange : Bool)
  /-- `PWR_OK_FALL` (R494). -/
  | pwrOkFall 
  /-- `ROM_START` (R447). -/
  | romStart 
  /-- `BOOT_WATCHDOG_EXPIRY` (R446). -/
  | bootWatchdogExpiry 
  /-- `BOOT_CONFIRMATION` (R447). -/
  | bootConfirmation 
  /-- `PERST_N_ASSERT` (R476). -/
  | perstNAssert 
  /-- `PERST_N_DEASSERT` (R474). -/
  | perstNDeassert 
  /-- `LIMIT_EVALUATION` (R468). -/
  | limitEvaluation (power : Nat) (temps : Temps)
  /-- `CCLK_CHANGE_COMPLETE` (R468). -/
  | cclkChangeComplete (d : DieId)
  /-- `THERMAL_TRIP` (R470). -/
  | thermalTrip (die : Fin 5) (temp : Nat)
  /-- `RAIL_FAULT` (R471). -/
  | railFault (rail : Byte)
  /-- `EVENT_COLLECTION` (R511). -/
  | eventCollection 
  /-- `EVR_CFG_WRITE` (R481). -/
  | evrCfgWrite (r : Fin 8) (v : Word)
  /-- `EVT_FATAL0_WRITE` (R485). -/
  | evtFatal0Write (v : Word)
  /-- `CLK_SNAP` (R488). -/
  | clkSnap 
  /-- `SNAPSHOT_LATCH` (R488). -/
  | snapshotLatch (id : BitVec 12)
  /-- `SETDASA` (R496). -/
  | setdasa (addr : BitVec 7)
  /-- `IDCODE` (R498). -/
  | idcode 
  /-- `SAMPLE_PRELOAD` (R499). -/
  | samplePreload 
  /-- `EXTEST` (R499). -/
  | extest 
  /-- `EXTEST_PULSE` (R499). -/
  | extestPulse 
  /-- `EXTEST_TRAIN` (R499). -/
  | extestTrain 
  /-- `DBG_STAT` (R499). -/
  | dbgStat 
  /-- `DBG_READ` (R501). -/
  | dbgRead (addr : BitVec 48)
  /-- `DBG_WRITE` (R501). -/
  | dbgWrite (addr : BitVec 48) (v : Word)
  /-- `BYPASS` (R499). -/
  | bypass (code : Byte)
  /-- `UNASSIGNED_OPCODE` (R81). -/
  | unassignedOpcode (t : ThreadId) (w : Word)
  /-- `INPUT_VOLTAGE_IN_RANGE` (R494). -/
  | inputVoltageInRange 
  /-- `REF25_LOSS` (R31). -/
  | ref25Loss 
  /-- `REF25_RETURN` (R31). -/
  | ref25Return 
  /-- `PCIE_LINK_UP` (R437). -/
  | pcieLinkUp (width : Fin 4) (rate : Fin 7) (cfg : HostCfg)
  deriving DecidableEq, Repr

end Sys2Proof
end

