-- ==== Sys2Proof/Decode.lean ====
section
/-! DEFINITION. Decoding of command words. No row of the opcode table gives its command a word: the block takes
its commands from outside, so no word spells one. -/

namespace Sys2Proof

/-- The command that a word spells by the bits of the opcode table: no row gives bits. -/
def decodeTableWord (_nbits _w : Nat) : Option Instr := none

end Sys2Proof
end

