-- ==== Sys2Proof/Machine/Maps.lean ====
section
/-! DEFINITION. Reading and writing keyed maps in their one canonical form: keys strictly rising, no entry
equal to the map's default. -/

namespace Sys2Proof.Machine

/-- The value at a key, `d` where the map lists none. -/
def kget {α : Type} (d : α) : KMap α → Nat → α
  | [], _ => d
  | (k, v) :: m, i => if i = k then v else kget d m i

/-- The map without key `i`. -/
def kerase {α : Type} : KMap α → Nat → KMap α
  | [], _ => []
  | (k, v) :: m, i => if i = k then kerase m i else (k, v) :: kerase m i

/-- The map with `(i, x)` placed before the first larger key. -/
def kins {α : Type} : KMap α → Nat → α → KMap α
  | [], i, x => [(i, x)]
  | (k, v) :: m, i, x => if i < k then (i, x) :: (k, v) :: m else (k, v) :: kins m i x

/-- The map with value `x` at key `i`; the default value is not listed. -/
def kset {α : Type} [DecidableEq α] (d : α) (m : KMap α) (i : Nat) (x : α) : KMap α :=
  if x = d then kerase m i else kins (kerase m i) i x

/-- The canonical form of a map: keys above `lo` strictly rising, no default listed. -/
def kwfFrom {α : Type} [DecidableEq α] (d : α) : Option Nat → KMap α → Bool
  | _, [] => true
  | lo, (k, v) :: m => (match lo with | none => true | some l => decide (l < k)) && decide (v ≠ d) && kwfFrom d (some k) m

/-- The canonical form of a map. -/
def kwf {α : Type} [DecidableEq α] (d : α) (m : KMap α) : Bool := kwfFrom d none m

/-- Write a run of consecutive keys. -/
def ksetMany {α : Type} [DecidableEq α] (d : α) (m : KMap α) (i : Nat) : List α → KMap α
  | [] => m
  | x :: xs => ksetMany d (kset d m i x) (i + 1) xs

/-- Read a run of consecutive keys. -/
def kgetMany {α : Type} (d : α) (m : KMap α) (i : Nat) : Nat → List α
  | 0 => []
  | n + 1 => kget d m i :: kgetMany d m (i + 1) n

end Sys2Proof.Machine
end

