-- ==== Sys2Proof/Machine/Numerics.lean ====
section
/-! DEFINITION. Exact numbers and their rounding: IEEE 754 formats, the OCP MX element formats, the mixing
function of stochastic rounding and the CRC of the detection code. -/

namespace Sys2Proof.Machine

/-- A floating-point value, exact: a NaN, an infinity, or (-1)^neg * m * 2^e. -/
inductive FV where
  | nan
  | inf (neg : Bool)
  | fin (neg : Bool) (m : Nat) (e : Int)
  deriving DecidableEq, Repr

/-- A binary format: exponent and fraction bits. -/
structure Fmt where
  eb : Nat
  mb : Nat
  deriving DecidableEq, Repr

def fp32 : Fmt := ⟨8, 23⟩
def fp16 : Fmt := ⟨5, 10⟩
def bf16 : Fmt := ⟨8, 7⟩

def Fmt.bias (f : Fmt) : Int := 2 ^ (f.eb - 1) - 1
/-- Magnitude code of infinity. -/
def Fmt.infCode (f : Fmt) : Nat := (2 ^ f.eb - 1) * 2 ^ f.mb
/-- The sign bit's weight. -/
def Fmt.sign (f : Fmt) : Nat := 2 ^ (f.eb + f.mb)
/-- The canonical quiet NaN (R154). -/
def Fmt.qnan (f : Fmt) : Nat := f.infCode + 2 ^ (f.mb - 1)

/-- 2^n for an integer n at least 0, 1 below. -/
def pow2 (n : Int) : Nat := 2 ^ n.toNat

/-- The value of a word of the format. -/
def Fmt.decode (f : Fmt) (w : Nat) : FV :=
  let neg := decide ((w / f.sign) % 2 = 1)
  let ex := (w / 2 ^ f.mb) % 2 ^ f.eb
  let fr := w % 2 ^ f.mb
  if ex = 2 ^ f.eb - 1 then (if fr = 0 then .inf neg else .nan)
  else if ex = 0 then .fin neg fr (1 - f.bias - f.mb)
  else .fin neg (2 ^ f.mb + fr) ((ex : Int) - f.bias - f.mb)

/-- A signalling NaN: the top fraction bit is clear. -/
def Fmt.isSNaN (f : Fmt) (w : Nat) : Bool :=
  decide ((w / 2 ^ f.mb) % 2 ^ f.eb = 2 ^ f.eb - 1) && decide (w % 2 ^ f.mb ≠ 0) && decide ((w / 2 ^ (f.mb - 1)) % 2 = 0)

/-- Rounding modes (R160): nearest even, toward zero, stochastic with the 32-bit value h. -/
inductive Rm where
  | rne | rtz | sr (h : Nat)
  deriving DecidableEq, Repr

/-- m / 2^s rounded by the mode: the integer and whether it is inexact. -/
def shiftRound (rm : Rm) (m s : Nat) : Nat × Bool :=
  let k := m / 2 ^ s
  let r := m % 2 ^ s
  let up := match rm with
    | .rne => decide (2 * r > 2 ^ s) || (decide (2 * r = 2 ^ s) && decide (k % 2 = 1))
    | .rtz => false
    | .sr h => decide (h < r * 2 ^ 32 / 2 ^ s)
  (if up then k + 1 else k, decide (r ≠ 0))

/-- m * 2^e in units of 2^q, rounded. -/
def scaleRound (rm : Rm) (m : Nat) (e q : Int) : Nat × Bool :=
  if q ≤ e then (m * pow2 (e - q), false) else shiftRound rm m (q - e).toNat

/-- Magnitude code, inexactness and tininess (after rounding, exponent unbounded) of m * 2^e in a format with
`mb` fraction bits, exponent bias `bias` and gradual underflow. The code is not bounded above. -/
def quant (mb : Nat) (bias : Int) (rm : Rm) (m : Nat) (e : Int) : Nat × Bool × Bool :=
  if m = 0 then (0, false, false) else
    let ex : Int := Nat.log2 m + e
    let emin : Int := 1 - bias
    let q := max (ex - mb) (emin - mb)
    let (k, nx) := scaleRound rm m e q
    let (ku, _) := scaleRound rm m e (ex - mb)
    let tiny := decide (ex < emin) && !(decide (ex = emin - 1) && decide (ku = 2 ^ (mb + 1)))
    (((q + mb + bias - 1).toNat) * 2 ^ mb + k, nx, tiny)

/-- The five IEEE flags of a result, in the order of THR_AFLAGS [4:0]: NV, DZ, OF, UF, NX. -/
structure Flg where
  nv : Bool := false
  dz : Bool := false
  ofl : Bool := false
  uf : Bool := false
  nx : Bool := false
  deriving DecidableEq, Repr

def Flg.or (a b : Flg) : Flg := ⟨a.nv || b.nv, a.dz || b.dz, a.ofl || b.ofl, a.uf || b.uf, a.nx || b.nx⟩

/-- THR_AFLAGS bits [4:0]. -/
def Flg.bits (a : Flg) : BitVec 7 :=
  BitVec.ofNat 7 ((if a.nv then 16 else 0) + (if a.dz then 8 else 0) + (if a.ofl then 4 else 0)
    + (if a.uf then 2 else 0) + (if a.nx then 1 else 0))

/-- A word of the format: sign and magnitude code. -/
def Fmt.pack (f : Fmt) (neg : Bool) (code : Nat) : Nat := (if neg then f.sign else 0) + code

/-- A value rounded to the format, with OF, UF and NX (R154, R155, R160, R505). -/
def Fmt.round (f : Fmt) (rm : Rm) : FV → Nat × Flg
  | .nan => (f.qnan, {})
  | .inf neg => (f.pack neg f.infCode, {})
  | .fin neg m e =>
    let (c, nx, tiny) := quant f.mb f.bias rm m e
    if c ≥ f.infCode then
      (match rm with
        | .rne => f.pack neg f.infCode
        | _ => f.pack neg (f.infCode - 1), { ofl := true, nx := true })
    else (f.pack neg c, { uf := tiny && nx, nx := nx })

/-- rne32 of the manual: the FP32 word nearest to a value. -/
def rne32 (v : FV) : BitVec 32 := BitVec.ofNat 32 (fp32.round .rne v).1

/-- The value of an FP32 word. -/
def val32 (w : BitVec 32) : FV := fp32.decode w.toNat

/-- Signed integer of a finite value in units of 2^e0, e0 at most its exponent. -/
def finInt (neg : Bool) (m : Nat) (e e0 : Int) : Int :=
  let k : Int := m * pow2 (e - e0)
  if neg then -k else k

/-- Exact sum; an exact zero from unlike signs is +0. -/
def FV.add : FV → FV → FV
  | .nan, _ => .nan
  | _, .nan => .nan
  | .inf a, .inf b => if a = b then .inf a else .nan
  | .inf a, _ => .inf a
  | _, .inf b => .inf b
  | .fin na ma ea, .fin nb mb eb =>
    let e0 := min ea eb
    let s := finInt na ma ea e0 + finInt nb mb eb e0
    if s = 0 then .fin (na && nb) 0 e0 else .fin (decide (s < 0)) s.natAbs e0

/-- Exact product. -/
def FV.mul : FV → FV → FV
  | .nan, _ => .nan
  | _, .nan => .nan
  | .inf a, .inf b => .inf (a != b)
  | .inf a, .fin b m _ => if m = 0 then .nan else .inf (a != b)
  | .fin a m _, .inf b => if m = 0 then .nan else .inf (a != b)
  | .fin na ma ea, .fin nb mb eb => .fin (na != nb) (ma * mb) (ea + eb)

def FV.neg : FV → FV
  | .nan => .nan
  | .inf a => .inf (!a)
  | .fin a m e => .fin (!a) m e

def FV.abs : FV → FV
  | .nan => .nan
  | .inf _ => .inf false
  | .fin _ m e => .fin false m e

def FV.isNaN : FV → Bool
  | .nan => true
  | _ => false

def FV.isInf : FV → Bool
  | .inf _ => true
  | _ => false

def FV.isZero : FV → Bool
  | .fin _ m _ => decide (m = 0)
  | _ => false

/-- Sign bit of a number. -/
def FV.sgn : FV → Bool
  | .nan => false
  | .inf a => a
  | .fin a _ _ => a

/-- a < b for numbers; zeros are equal. False when either is NaN. -/
def FV.lt : FV → FV → Bool
  | .nan, _ => false
  | _, .nan => false
  | .inf a, .inf b => a && !b
  | .inf a, .fin _ _ _ => a
  | .fin _ _ _, .inf b => !b
  | .fin na ma ea, .fin nb mb eb =>
    let e0 := min ea eb
    decide (finInt na ma ea e0 < finInt nb mb eb e0)

/-- Numeric equality; -0 equals +0, NaN equals nothing. -/
def FV.eqv (a b : FV) : Bool := !a.isNaN && !b.isNaN && !a.lt b && !b.lt a

/-- The larger number, -0 below +0, NaN when either is NaN (R154, R233). -/
def FV.max (a b : FV) : FV :=
  if a.isNaN || b.isNaN then .nan
  else if a.lt b then b else if b.lt a then a else if a.sgn then b else a

/-- The smaller number, -0 below +0, NaN when either is NaN (R154). -/
def FV.min (a b : FV) : FV :=
  if a.isNaN || b.isNaN then .nan
  else if a.lt b then a else if b.lt a then b else if a.sgn then a else b

/-- Integer square root: greatest r with r * r at most n, by `k` binary digits. -/
def isqrtFrom (n : Nat) : Nat → Nat → Nat
  | 0, r => r
  | k + 1, r => let t := r + 2 ^ k; isqrtFrom n k (if t * t ≤ n then t else r)

def isqrt (n : Nat) : Nat := isqrtFrom n (Nat.log2 n / 2 + 1) 0

/-- A quotient with a sticky bit: rounding it gives the correctly rounded quotient of any format here. -/
def FV.div : FV → FV → FV
  | .nan, _ => .nan
  | _, .nan => .nan
  | .inf _, .inf _ => .nan
  | .inf a, .fin b _ _ => .inf (a != b)
  | .fin a _ _, .inf b => .fin (a != b) 0 0
  | .fin na ma ea, .fin nb mb eb =>
    if mb = 0 then (if ma = 0 then .nan else .inf (na != nb))
    else
      let k := Nat.log2 mb + 70
      let q := ma * 2 ^ k / mb
      let r := ma * 2 ^ k % mb
      .fin (na != nb) (2 * q + (if r = 0 then 0 else 1)) (ea - eb - k - 1)

/-- A square root with a sticky bit. -/
def FV.sqrt : FV → FV
  | .nan => .nan
  | .inf a => if a then .nan else .inf false
  | .fin a m e =>
    if m = 0 then .fin a 0 e else if a then .nan
    else
      let m1 := if e % 2 = 0 then m else 2 * m
      let e1 := if e % 2 = 0 then e else e - 1
      let n := m1 * 2 ^ 140
      let s := isqrt n
      .fin false (2 * s + (if s * s = n then 0 else 1)) (e1 / 2 - 71)

/-- 1/sqrt with a sticky bit: the root of the exact reciprocal. -/
def FV.rsqrt : FV → FV
  | .nan => .nan
  | .inf a => if a then .nan else .fin false 0 0
  | .fin a m e =>
    if m = 0 then .inf a else if a then .nan
    else
      let m1 := if e % 2 = 0 then m else 2 * m
      let e1 := if e % 2 = 0 then e else e - 1
      let k := Nat.log2 m1 / 2 + 71
      let n := 2 ^ (2 * k) / m1
      let s := isqrt n
      .fin false (2 * s + (if s * s * m1 = 2 ^ (2 * k) then 0 else 1)) (-(e1 / 2) - k - 1)

/-- Fixed-point digits of 2^f, f the fraction whose remaining `L` binary digits are those of `x`; `root` is
2^(2^-i) with 256 fraction bits. -/
def exp2Frac (x : Nat) : Nat → Nat → Nat → Nat
  | 0, _, acc => acc
  | l + 1, root, acc =>
    let r := isqrt (root * 2 ^ 256)
    exp2Frac x l r (if (x / 2 ^ l) % 2 = 1 then acc * r / 2 ^ 256 else acc)

/-- 2^x with a sticky bit: 256 fraction bits, more than any format here needs for correct rounding (log 32). -/
def FV.exp2 : FV → FV
  | .nan => .nan
  | .inf a => if a then .fin false 0 0 else .inf false
  | .fin a m e =>
    if m = 0 then .fin false 1 0
    else if (Nat.log2 m : Int) + e ≥ 12 then (if a then .fin false 1 (-100000) else .fin false 1 100000)
    else
      let l := (-e).toNat
      let x : Int := if a then -((m * pow2 e : Nat) : Int) else ((m * pow2 e : Nat) : Int)
      let n := x / ((2 ^ l : Nat) : Int)
      let f := (x % ((2 ^ l : Nat) : Int)).toNat
      if f = 0 then .fin false 1 n
      else .fin false (2 * exp2Frac f l (2 * 2 ^ 256) (2 ^ 256) + 1) (n - 257)

/-! ### MX formats (Table ARR-3, R162) -/

/-- MX element formats by their FN code: 0 E2M1, 1 E2M3, 2 E3M2, 3 E4M3, 4 E5M2, 5 INT8. -/
structure Mx where
  bits : Nat
  eb : Nat
  mb : Nat
  bias : Int
  /-- largest finite magnitude code -/
  top : Nat
  emax : Int
  deriving DecidableEq, Repr

def mxOf : Nat → Mx
  | 0 => ⟨4, 2, 1, 1, 7, 2⟩
  | 1 => ⟨6, 2, 3, 1, 31, 2⟩
  | 2 => ⟨6, 3, 2, 3, 31, 4⟩
  | 3 => ⟨8, 4, 3, 7, 126, 8⟩
  | 4 => ⟨8, 5, 2, 15, 123, 15⟩
  | _ => ⟨8, 0, 7, 0, 127, 0⟩

/-- Two's complement of `bits` bits. -/
def signed (bits c : Nat) : Int := if 2 * c ≥ 2 ^ bits then (c : Int) - 2 ^ bits else c

/-- The unit exponent of Table ARR-3. -/
def mxUnit (f : Nat) : Int := if f = 5 then -6 else 1 - (mxOf f).bias - (mxOf f).mb

/-- An element as the integer u of its format's unit, or a special value (R216). -/
def mxDecode (f c : Nat) : FV :=
  let x := mxOf f
  if f = 5 then
    let s := signed 8 c
    .fin (decide (s < 0)) s.natAbs (-6)
  else
    let mag := c % 2 ^ (x.bits - 1)
    let neg := decide (c / 2 ^ (x.bits - 1) % 2 = 1)
    let ex := mag / 2 ^ x.mb
    let fr := mag % 2 ^ x.mb
    if f = 3 && decide (mag = 127) then .nan
    else if f = 4 && decide (ex = 31) then (if fr = 0 then .inf neg else .nan)
    else if ex = 0 then .fin neg fr (mxUnit f)
    else .fin neg ((2 ^ x.mb + fr) * 2 ^ (ex - 1)) (mxUnit f)

/-- An exact number as an element code, saturated to the largest finite magnitude, with inexactness
(R163, R345). -/
def mxEncode (f : Nat) (rm : Rm) (neg : Bool) (m : Nat) (e : Int) : Nat × Bool :=
  let x := mxOf f
  if f = 5 then
    let (k, nx) := scaleRound rm m e (-6)
    let lim := if neg then 128 else 127
    let k1 := if k > lim then lim else k
    ((if neg then (256 - k1) % 256 else k1), nx || decide (k ≠ k1))
  else
    let (c, nx, _) := quant x.mb x.bias rm m e
    let c1 := if c > x.top then x.top else c
    ((if neg then 2 ^ (x.bits - 1) else 0) + c1, nx || decide (c ≠ c1))

/-! ### Stochastic rounding and CRC -/

/-- The mixing of R161: seed[31:0] and the counter seed[63:32] + i, modulo 2^32. -/
def mix (lo ctr : Nat) : Nat :=
  let x0 := (lo + ctr * 0x9E3779B9) % 2 ^ 32
  let x1 := (Nat.xor x0 (x0 / 2 ^ 16)) * 0x85EBCA6B % 2 ^ 32
  let x2 := (Nat.xor x1 (x1 / 2 ^ 13)) * 0xC2B2AE35 % 2 ^ 32
  Nat.xor x2 (x2 / 2 ^ 16)

/-- h of R161 for element i under a 64-bit seed. -/
def srHash (seed : Word) (i : Nat) : Nat := mix (seed.toNat % 2 ^ 32) (seed.toNat / 2 ^ 32 + i)

/-- One bit of the CRC of R314. -/
def crcBit (c : Nat) (b : Bool) : Nat :=
  let top := decide (c / 2 ^ 23 % 2 = 1)
  let s := c * 2 % 2 ^ 24
  if top != b then Nat.xor s 0x864CFB else s

/-- One byte, most significant bit first. -/
def crcByte (c : Nat) (b : Byte) : Nat :=
  (List.range 8).foldl (fun c i => crcBit c (b.getLsbD (7 - i))) c

/-- The CRC of R314 over bytes, initial value 0xFF_FFFF. -/
def crc24 (bs : List Byte) : Nat := bs.foldl crcByte 0xFFFFFF

end Sys2Proof.Machine
end

