-- ==== Sys2Proof/Config.lean ====
section
/-! DEFINITION. What the manual leaves open: constants without a body, so that no proof can rest on a value.
The log entry of each is named beside it. -/

namespace Sys2Proof

/-- A value that the manual does not state; `State.fresh` numbers the uses (log 2). -/
opaque Config.freeWord : Nat → Word

/-- Whether domain `id` has a cycle in idle step `n` (log 3). -/
opaque Config.cycleAt : Nat → Nat → Bool

/-- Whether thread `t`, a candidate for issue, sees its pipe issue another thread in idle step `n` (R55, log 8). -/
opaque Config.yieldAt : Nat → Nat → Bool

/-- SHA-512, which the manual names by its standard (R439, log 30). -/
opaque Config.sha512 : List Byte → BitVec 512

/-- Ed25519 verification as RFC 8032 defines it: public key, message, signature (R412, log 30). -/
opaque Config.ed25519Verify : BitVec 256 → List Byte → BitVec 512 → Bool

/-- Ed25519 signing: private seed, message (R441, log 30). -/
opaque Config.ed25519Sign : BitVec 256 → List Byte → BitVec 512

/-- HKDF-SHA-512 with a 32-byte output: salt, input key, info (R441, log 30). -/
opaque Config.hkdf : List Byte → List Byte → List Byte → BitVec 256

/-- The bytes of a certificate of slot 0: position 0, 1 or 2, the bytes of its subject, and the seed of its key (R442,
log 31). -/
opaque Config.certificate : Nat → List Byte → BitVec 256 → List Byte

/-- The body of an SPDM response whose bytes the SPDM standard gives: request code, use number (R449, log 31). -/
opaque Config.spdmBody : Nat → Nat → List Word

/-- The words by which the SPDM standard writes the algorithms and the capabilities of a responder: their names (R449, log 31). -/
opaque Config.spdmNames : List String → List Word

/-- The response to an IDE key-management request: its body and the use number (R449, log 31). -/
opaque Config.ideKm : List Byte → Nat → List Word

/-- The kind of value, of seven bits, by which a DMTF measurement block names what measurement `index` is (R450, log 31). -/
opaque Config.measKind : Nat → BitVec 7

/-- Mladrel's PCI-SIG vendor ID (R423, log 33). -/
opaque Config.pciVendor : BitVec 16

/-- Whether the SPDM standard's checks accept the MAC of a FINISH: its bytes, use number (R449, log 31). -/
opaque Config.finishOk : List Byte → Nat → Bool

/-- The bytes of the enrolled-key table of the IDENT region: operator flag and key of each entry (R450, log 31). -/
opaque Config.keyTable : List (Bool × BitVec 256) → List Byte

/-- The body of a signed mailbox message without its signatures: type, role or new minimum, key (R455, log 31). -/
opaque Config.mbxBody : Nat → Nat → BitVec 256 → List Byte

/-- SHA-512 digest of the boot ROM (R450, log 31). -/
opaque Config.romDigest : BitVec 512

/-- Mladrel's JEDEC manufacturer code (R498, log 31). -/
opaque Config.jedec : BitVec 11

/-- IEEE 802.3 frame check sequence over the bytes of a frame (Table LNK-2, log 30). -/
opaque Config.fcs : List Byte → BitVec 32

end Sys2Proof
end

