-- ==== Sys2Proof/Machine/State.lean ====
section
/-! DEFINITION. The state of the module as plain data, and the state right after reset.

Every field names the rule that gives it. Reset is the state before PWR_OK rises: nothing is loaded,
every gear field reads 0 (R15), and the values the manual does not give are those of the log. -/

namespace Sys2Proof.Machine

/-- Why a command stops the model. No behaviour of the module does. -/
inductive Fault where
  /-- The lists that a command carries do not have the shape of `Instr.wellFormed`. No command raises it: a
  list of another shape is read as far as it goes. Safe: nothing stops here that the module goes on with. -/
  | illFormed
  deriving DecidableEq, Repr

/-- Why a command has no meaning. -/
inductive Refusal where
  /-- No meaning is modelled. No arm of `exec` raises it: every command has its meaning. Safe. -/
  | notModelled (mnemonic : String)
  deriving DecidableEq, Repr

/-! ### Threads -/

/-- Thread states (R44). ELIGIBLE and WAITING are one stored state: which of them holds follows from the
wait conditions (R50). -/
inductive TState where
  | unallotted | halted | running | stopped
  deriving DecidableEq, Repr

/-- Pass tags (Table OVW-5). -/
inductive Pass where
  | sys | cad | fwd | bwd | upd | eval
  deriving DecidableEq, Repr

/-- Classes (Table OVW-4). -/
inductive Cls where
  | cad | step | eval | bulk
  deriving DecidableEq, Repr

/-- A vector register: 2,048 bits and 8 poison bits (R143, R145). -/
structure VReg where
  data : BitVec 2048 := 0
  poison : BitVec 8 := 0
  deriving DecidableEq, Repr

/-- A predicate register: 256 bits and 8 poison bits (R143, R145). -/
structure PReg where
  bits : BitVec 256 := 0
  poison : BitVec 8 := 0
  deriving DecidableEq, Repr

/-- A register write that becomes visible at a later boundary (R90, R91, R153). -/
inductive RegWrite where
  | g (r : Nat) (v : Word)
  | v (r : Nat) (x : VReg)
  | p (r : Nat) (x : PReg)
  | prod (hi lo : Word)
  deriving DecidableEq, Repr

/-- A read of the host window or another module that an engine, or a string instruction, has under way: global address
and bytes, whether it reads a descriptor (for a string instruction: whether it waits for a cache line) or the data of an
element, and the answer (bytes, poison by granule, cause of Table SE-3). -/
structure FarRead where
  addr : Nat
  n : Nat
  desc : Bool := false
  data : Bool := false
  answer : Option (List Byte × List Bool × Nat) := none
  deriving DecidableEq, Repr

/-- A part of a vector load that has still to arrive: the tag of its request, whether the host answers it, and the bytes it
brings: offset in the answer, register (32 + p for predicate p) and byte of it. -/
structure FarPart where
  tag : Nat
  host : Bool
  moves : List (Nat × Nat × Nat)
  deriving DecidableEq, Repr

/-- Where the value of a pending write comes from. -/
inductive Source where
  /-- formed -/
  | ready
  /-- under way from a pipe, ended by LOAD_DATA_RETURNS -/
  | unit
  /-- a load under way from memory or register space, ended by LOAD_DATA_RETURNS -/
  | load
  /-- a load that joined the fill of data-cache line `la`: byte offset, size, sign extension, and how many of
  the line's waiting stores came before it -/
  | line (la off size : Nat) (sx : Bool) (after : Nat)
  /-- a SEMRD of semaphore `sem` -/
  | sem (sem : Nat)
  /-- a host-window read with this tag -/
  | host (tag size : Nat) (sx : Bool)
  /-- a remote read with this transaction tag -/
  | remote (xid off size : Nat) (sx : Bool)
  /-- a vector load with parts on other modules or in the host window -/
  | vmem (parts : List FarPart)
  deriving DecidableEq, Repr


/-- A WAIT in progress (R111, R112). -/
structure WaitRec where
  sem : Nat
  val : Nat
  /-- cycles of the timeout; `none` for no timeout -/
  limit : Option Nat
  /-- count of the die's CCLK at the issue: cycle 0 of Table CLK-4 -/
  at_ : Word
  /-- a take request has been sent and its reply has not arrived -/
  sent : Bool
  /-- the timeout has passed while the take was under way -/
  expired : Bool
  deriving DecidableEq, Repr

/-- The branch whose delay slot is the next instruction, and where the stream goes after it (R99). -/
structure Delay where
  branch : Word
  target : Word
  deriving DecidableEq, Repr

/-- The position of an instruction: its address, the branch whose delay slot it is in, and the status that
takes effect after it when it is a shadow instruction (Table EXC-3). -/
structure Pos where
  pc : Word := 0
  delay : Option Delay := none
  shadow : Option Word := none
  /-- LC0 and LC1 at the issue of a load at LE: what an entry at it leaves in them -/
  lc : Option (BitVec 32 × BitVec 32) := none
  deriving DecidableEq, Repr

/-- One pending result: boundaries still to pass, where it comes from, what it writes, the arithmetic
flags it will set and the position of its instruction. -/
structure Pend where
  left : Nat
  src : Source
  writes : List RegWrite
  flags : BitVec 7 := 0
  pos : Pos := {}
  /-- virtual address of a scalar load -/
  va : Word := 0
  /-- local granules that the result comes from, and the bytes (register, byte of it) that each brings -/
  grans : List (Nat × List (Nat × Nat)) := []
  deriving DecidableEq, Repr

/-- A synchronous exception: cause code and the value of XADDR (R119). -/
structure Exc where
  code : Nat
  xaddr : Word
  deriving DecidableEq, Repr

/-- An exception whose entry waits for a pending load (R92), with the instruction's position. -/
structure ExcWait where
  exc : Exc
  pos : Pos
  deriving DecidableEq, Repr

/-- The special registers of Table ISA-2. -/
structure SRegs where
  st : Word := 0x200#64
  prdHi : Word := 0
  prdLo : Word := 0
  lb0 : Word := 0
  le0 : Word := 0
  lc0 : BitVec 32 := 0
  lb1 : Word := 0
  le1 : Word := 0
  lc1 : BitVec 32 := 0
  xpc : Word := 0
  xst : Word := 0
  xcause : Word := 0
  xaddr : Word := 0
  spc : Word := 0
  sst : Word := 0
  scause : Word := 0
  skidSp : Word := 0
  entry : Word := 0
  tvec : Word := 0
  tsr : BitVec 5 := 0
  deriving DecidableEq, Repr

/-- One hardware thread. -/
structure Thread where
  st : TState := .unallotted
  pass : Pass := .sys
  haltReq : Bool := false
  pc : Word := 0
  g : KMap Word := []
  sr : SRegs := {}
  v : KMap VReg := []
  p : KMap PReg := []
  pend : List Pend := []
  wait : Option WaitRec := none
  delay : Option Delay := none
  shadow : Option Word := none
  strBusy : Bool := false
  excWait : Option ExcWait := none
  aflags : BitVec 7 := 0
  atrap : BitVec 7 := 0
  yieldCnt : Word := 0
  xreason : Word := 0
  /-- address of an instruction word that has been delivered past the instruction cache (R507) -/
  ifetch : Option Word := none
  /-- a fetch outside the module that is under way or has been answered -/
  ifar : Option FarRead := none
  /-- reads outside the module that a string chunk has under way or has received -/
  far : List FarRead := []
  deriving DecidableEq, Repr

/-! ### Cores -/

/-- Countdown timer (R60). -/
structure Timer where
  count : BitVec 48 := 0
  reload : BitVec 48 := 0
  periodic : Bool := false
  en : Bool := false
  deriving DecidableEq, Repr

/-- A store that waits for its line's fill: byte offset and bytes (R94). -/
structure LineStore where
  off : Nat
  bytes : List Byte
  thread : Nat
  cls : Cls
  tag : BitVec 7 := 0
  np : Bool := false
  deriving DecidableEq, Repr

/-- A scalar-cache entry: a 256-byte line (R67 to R74). -/
structure CEntry where
  valid : Bool := false
  la : Nat := 0
  dirty : Bool := false
  inflight : Bool := false
  prefetch : Bool := false
  data : BitVec 2048 := 0
  stores : List LineStore := []
  /-- threads whose fetch has joined the fill, with the address they fetch -/
  fetchers : List (Nat × Word) := []
  /-- colour tag of the leaf the line was reached through (R316) -/
  tag : BitVec 7 := 0
  np : Bool := false
  /-- bytes and poison marks of a remote line, once the response is here; `none` for a local line -/
  remote : Option (List (List Byte × Bool)) := none
  awaits : Bool := false
  err : CacheErr := .clean
  deriving DecidableEq, Repr

/-- A scalar cache: 48 entries and its LFSR (R70). -/
structure Cache where
  entries : KMap CEntry := []
  lfsr : BitVec 16
  deriving DecidableEq, Repr

/-- A miss that waits for an entry (R70). -/
structure Miss where
  la : Nat
  cls : Cls
  prefetch : Bool
  store : Option LineStore
  fetcher : Option (Nat × Word)
  tag : BitVec 7
  np : Bool
  deriving DecidableEq, Repr

/-- A cached translation (R305): partition, level of the leaf, virtual page, leaf entry. -/
structure XEnt where
  part : Nat
  level : Nat
  vpn : Nat
  leaf : Word
  deriving DecidableEq, Repr

/-- A row of a tile or accumulator: 128 bytes and a poison bit per 32 bytes (R174, R204). -/
structure Row where
  data : BitVec 1024 := 0
  poison : BitVec 4 := 0
  deriving DecidableEq, Repr

/-- A tile: its rows and its attribute word (R174, R180). -/
structure Tile where
  rows : KMap Row := []
  attr : Word := 0xF001F#64
  deriving DecidableEq, Repr

/-- An accumulator tile (R203, R204, R179). -/
structure Acc where
  rows : KMap Row := []
  owner : Nat := 31
  deriving DecidableEq, Repr

/-- The four array operations. -/
inductive ArrKind where
  | tmma (mode : Nat) (clr : Bool)
  | tldacc
  | tdrain
  | tew (op : Nat)
  deriving DecidableEq, Repr

/-- An array operation from issue to completion: operand tiles with the attributes read at issue (R182),
the active rows, the issuing thread and its address. -/
structure ArrOp where
  kind : ArrKind
  ta : Nat
  tb : Nat
  acc : Nat
  attrA : Word
  attrA1 : Word
  attrB : Word
  rows : BitVec 32
  thread : Nat
  pc : Word
  /-- result rows, formed when the operation begins -/
  result : KMap Row := []
  /-- tiles held IN-USE or DRAINING by the operation -/
  holds : List Nat := []
  /-- count of the die's CCLK at the begin (R229) -/
  begun : Word := 0
  /-- cycles from the begin to the last use of its sources, and of its side tiles (R227, R229, R231, R232) -/
  dur : Nat := 0
  sideDur : Nat := 0
  nv : Bool := false
  ofl : Bool := false
  deriving DecidableEq, Repr

/-- A feeder's reuse latch: a tile number with its contents (R201). -/
structure Latch where
  tile : Nat
  rows : KMap Row
  deriving DecidableEq, Repr

/-- One matrix array (R203, R205). -/
structure Arr where
  busy : Option ArrOp := none
  /-- operations past their last step that have not completed, oldest first (R228) -/
  tail : List ArrOp := []
  waiting : Option ArrOp := none
  latchA : Option Latch := none
  latchB : Option Latch := none
  deriving DecidableEq, Repr

/-- A tile move or tile write whose last row has still to land (R188, R189). -/
structure Move where
  tile : Nat
  thread : Nat
  /-- near-store port 0 or 1, while the move still takes steps -/
  port : Option Nat
  /-- 0 TLOAD, 1 TSTORE, 2 TZERO, 3 VTWR, 4 VTRD -/
  kind : Nat
  /-- rows read and still to be written into the tile, in the order they were read -/
  rows : List (Nat × Row) := []
  /-- steps remain: the instruction has not retired -/
  open_ : Bool := false
  deriving DecidableEq, Repr

/-- The core Bell (R137, R138). -/
structure Bell where
  en : BitVec 64 := 0
  pri : KMap Nat := []
  vec : KMap Word := []
  pend : BitVec 64 := 0
  thresh : Nat := 0
  ithr : Nat := 0
  spurVec : Word := 0
  /-- inputs HUB0-HUB15 that are high, with the hub source forwarded on each -/
  inputs : KMap Nat := []
  /-- inputs that do not contend until the hub's state after an acknowledgment arrives (R508) -/
  mute : BitVec 16 := 0
  /-- source latched for entry, with the SRC value -/
  latched : Option (Nat × Nat) := none
  deriving DecidableEq, Repr

/-- One core. -/
structure Core where
  part : Nat := 0
  counts : List Nat := [0, 0, 0, 0, 0, 0]
  floors : BitVec 18 := 0
  masks : KMap (BitVec 48) := []
  icache : Cache := { lfsr := 0x1D2B#16 }
  dcache : Cache := { lfsr := 0x6E5F#16 }
  imiss : List Miss := []
  dmiss : List Miss := []
  timers : KMap Timer := []
  bell : Bell := {}
  tiles : KMap Tile := []
  accs : KMap Acc := []
  arrays : KMap Arr := []
  arrStatus : BitVec 13 := 0
  arrCnt : KMap Word := []
  latchHits : Word := 0
  gate : Bool := false
  latch : Bool := false
  bankOn : BitVec 4 := 0xF#4
  bankWake : BitVec 4 := 0
  moves : List Move := []
  xlat : List XEnt := []
  deriving DecidableEq, Repr

/-! ### Semaphores and memory -/

/-- What a request at a semaphore asks (R506). -/
inductive SemAsk where
  | signal (v : Nat)
  | take (v : Nat)
  | read
  deriving DecidableEq, Repr

/-- A request under way to a semaphore. `who` is the requester: a thread for takes and reads, the detail
value of Table ERR-4 (SEM_SAT) for signals. -/
structure SemReq where
  sem : Nat
  who : Nat
  ask : SemAsk
  /-- remote writes that must complete before a signal is applied (R379) -/
  behind : List Nat := []
  deriving DecidableEq, Repr

/-- The detection code of a granule (R313): the CRC is held as its difference from the right CRC. -/
structure Gran where
  tag : BitVec 7 := 0
  p : Bool := false
  syn : BitVec 24 := 0
  deriving DecidableEq, Repr

/-- An interleave region (MEM_REGIONr). -/
structure Region where
  en : Bool := false
  mode : Bool := false
  igc : Nat := 0
  base : Nat := 0
  size : Nat := 0
  deriving DecidableEq, Repr

/-- A range of a partition (Table GEAR-3): base, limit (exclusive) and SHARE. -/
structure PRange where
  base : Nat
  limit : Nat
  share : Bool
  deriving DecidableEq, Repr

/-- A partition's PART record. -/
structure Part where
  en : Bool := false
  root : Nat := 0
  ranges : List PRange := []
  deriving DecidableEq, Repr

/-- A PROT region (Table GEAR-3). -/
structure Prot where
  base : Nat := 0
  limit : Nat := 0
  en : Bool := false
  sconly : Bool := false
  nopart : BitVec 4 := 0
  nohost : Bool := false
  nolink : Bool := false
  deriving DecidableEq, Repr

/-- A class's token bucket in a memory-controller group, level in 1/256 tokens (R307). -/
structure Bucket where
  level : Nat := 0
  depth : Nat := 0
  borrow : Bool := false
  rate : Nat := 0
  deriving DecidableEq, Repr

/-- A 64-byte block request on its way through the memory system. -/
structure MemReq where
  block : Nat
  write : Bool
  /-- a write of part of a granule -/
  part : Bool := false
  cls : Cls
  /-- what a read checks: leaf tag, and whether it takes granule 0 and granule 1 (R315); a merged read has several -/
  checks : List (BitVec 7 × Bool × Bool) := []
  /-- leaf NP (R299) -/
  np : Bool
  /-- younger requests served while it was the oldest of its bank (R310) -/
  passed : Nat := 0
  /-- the engine whose slot it holds until it is served or, a write, accepted at its bank (R59, Table CORE-6A); 36 for none -/
  eng : Nat := 36
  /-- it has held its slot since its issue: a request of an engine context; the others take theirs when they leave their unit -/
  held : Bool := false
  deriving DecidableEq, Repr

/-- A bank: its open row and its queue, oldest first (R310). -/
structure Bank where
  open_ : Option Nat := none
  queue : List MemReq := []
  deriving DecidableEq, Repr

/-- A line of the pool cache: block number and dirty mark (R298). The sets keep their lines in LRU order. -/
structure PLine where
  block : Nat
  dirty : Bool
  deriving DecidableEq, Repr

/-- XLAT_INV of a die or the hub (R305). -/
structure XInv where
  vpn : BitVec 36 := 0
  part : Nat := 0
  all : Bool := false
  busy : Bool := false
  /-- what the removal under way removes: fields at its GO -/
  goVpn : BitVec 36 := 0
  goPart : Nat := 0
  goAll : Bool := false
  /-- accesses through removed entries that have not completed: tags of link requests, tags of host reads, LPDDR6 blocks, lines
  that a scalar cache awaits (core, data cache, line) -/
  links : List Nat := []
  hosts : List Nat := []
  blocks : List Nat := []
  fills : List (Nat × Bool × Nat) := []
  deriving DecidableEq, Repr

/-! ### Stream Engines -/

/-- Context states (R256). -/
inductive CtxState where
  | unallotted | idle | active | cancelling
  deriving DecidableEq, Repr

/-- A fault run (R278): cause, first element, length. -/
structure Run where
  cause : Nat
  first : Nat
  count : Nat
  deriving DecidableEq, Repr

/-- A source element inside the engine, waiting for its write: bytes, poison, the cause when its access failed (Table
SE-3), what becomes of it (0 written, 1 withheld, 2 skipped) and its destination: an address, or a byte of a tile. -/
structure Elem where
  bytes : List Byte
  poison : Bool
  cause : Nat
  act : Nat
  dst : Int
  /-- DISPATCH: the map word that is written before this first element of its row: address and value (R284) -/
  map : Option (Nat × Nat) := none
  deriving DecidableEq, Repr

/-- What the index list, routing entry or mask word of a row gives (Table SE-2, R284 to R286): addresses of the row's
first element (none: nothing read, nothing written), what fills its elements (0 the source, 1 zeros, 2 poison), the
cause of a failure, whether the row is skipped, and the address of a mask word whose code 0b11 is still to be reported (R246). -/
structure RowPlan where
  src : Option Int
  dst : Option Int
  fill : Nat := 0
  cause : Nat := 0
  skip : Bool := false
  map : Option (Nat × Nat) := none
  mask : Option Nat := none
  deriving DecidableEq, Repr

/-- A descriptor that a context has read and how far it has come. Element numbers are traversal indices e. -/
structure DescRun where
  addr : Nat
  words : List Word
  seq : Nat := 0
  /-- 0 runs, 1 BADDESC, 2 DESC_XLAT, 3 DESC_POISON -/
  fail : Nat := 0
  /-- BADDESC caused by NEN, NCORE or NSRC -/
  nfBad : Bool := false
  /-- units whose IN_FULL and OUT_EMPTY takes are held -/
  inTaken : Nat := 0
  outTaken : Nat := 0
  /-- units whose IN_EMPTY and OUT_FULL signals are sent -/
  inSig : Nat := 0
  outSig : Nat := 0
  /-- elements that have entered the engine, and that have left it -/
  rd : Nat := 0
  wr : Nat := 0
  buf : List Elem := []
  /-- row under way, with its plan -/
  row : Option (Nat × RowPlan) := none
  srcHeld : Bool := false
  dstHeld : Bool := false
  delivered : Nat := 0
  last : Option Nat := none
  runs : List Run := []
  overrun : Nat := 0
  dropped : Nat := 0
  malformed : Nat := 0
  /-- rows given so far (DISPATCH), by expert -/
  rowsGiven : KMap Nat := []
  /-- the current unit is due, and the cycles counted since (R282) -/
  dueOn : Bool := false
  dueCnt : Nat := 0
  /-- after a cancel, and while a window excludes the context: the elements below which the reads and the writes that had
  been issued complete (R280, R328) -/
  rdLim : Option Nat := none
  wrLim : Option Nat := none
  /-- element whose freewheel read was dropped last (R273) -/
  dropAt : Option Nat := none
  deriving DecidableEq, Repr

/-- A Stream Engine context (R255 to R258, SE_CTX registers). -/
structure Ctx where
  st : CtxState := .unallotted
  cls : Cls := .cad
  part : Nat := 0
  priv : Bool := false
  fwb : Nat := 0
  head : Word := 0
  err : Nat := 0
  seq : Nat := 0
  done : Word := 0
  /-- address of the next descriptor of the chain, 0 at its end -/
  next : Word := 0
  /-- sequence number of the next descriptor read -/
  count : Nat := 0
  /-- descriptors read and not yet ended, in chain order -/
  runs : List DescRun := []
  far : List FarRead := []
  /-- elements of the write to another module that is under way -/
  farW : Nat := 0
  /-- that write was answered with an error -/
  farErr : Bool := false
  /-- after a cancel: the banks of the reads still to return into the sink, `none` for a read of no LPDDR6 bank, and the last
  descriptor whose reads had begun (R280, R281) -/
  sink : List (Option Nat) := []
  lastBegun : Nat := 0
  /-- sums over the chain, for the host queue's record (R434, R435) -/
  sumElems : Nat := 0
  sumFault : Nat := 0
  sumOver : Nat := 0
  sumYield : Nat := 0
  sawBad : Bool := false
  sawCancel : Bool := false
  deriving DecidableEq, Repr

/-- A Stream Engine (SE registers). -/
structure Engine where
  rsvCad : Nat := 0
  fwTotal : Nat := 0
  floors : BitVec 18 := 0
  cancelDropped : Word := 0
  overrun : Word := 0
  bankhold : Word := 0
  xlat : List XEnt := []
  deriving DecidableEq, Repr

/-! ### Step and Peloton -/

/-- Step control and sequence table (12). -/
structure StepCtl where
  cfg : Word := 0
  cfgWait : Option Word := none
  step : BitVec 32 := 0
  applied : Nat := 0
  evpend : Bool := false
  evalOpen : Bool := false
  limit : BitVec 48 := 0
  defer : Word := 0
  deriving DecidableEq, Repr

/-- One bucket at one node, a rank of this module (R341 to R360). -/
structure Node where
  /-- PEL_BTAB's table at the acceptance of the hand-off, in units of 512 bytes (R361) -/
  base : Nat := 0
  /-- words 0x00 to 0xF8 of the descriptor, [] while none is read or it cannot be read -/
  desc : List Word := []
  /-- the descriptor has been read for the hand-off -/
  got : Bool := false
  /-- the descriptor or its freeze mask rejects the hand-off (R362) -/
  rej : Bool := false
  /-- the hand-off is marked ABSENT -/
  absent : Bool := false
  /-- the lent tile is IN-USE for the contribution (R200) -/
  tile : Bool := false
  /-- unfrozen blocks, ascending, and the digest of the freeze mask (R354) -/
  unf : List Nat := []
  fdig : BitVec 32 := 0
  /-- a hand-off is being read -/
  reading : Bool := false
  /-- own contribution: 0 counted, 1 ABSENT, 2 poisoned, 3 rejected, 4 none yet (Table PEL-4 OWN) -/
  own : Nat := 4
  /-- cycle 0 is fixed: the count of HCLK in it (R341) -/
  started : Bool := false
  cyc0 : Word := 0
  /-- x of the unfrozen blocks, 32 FP32 words each, and the rank's exponent bytes -/
  x : List (List (BitVec 32)) := []
  exps : List Byte := []
  /-- EXP and DATA of the children, by rank -/
  expIn : List (Nat × PelMsg) := []
  dataIn : List (Nat × PelMsg) := []
  /-- children declared missing, and whether the event has been raised (R352) -/
  kidMiss : List Nat := []
  missSaid : Bool := false
  /-- PEL_NORESULT has been raised (R343) -/
  resSaid : Bool := false
  expSent : Bool := false
  scaled : Bool := false
  dataSent : Bool := false
  /-- agreed exponent bytes and the ranks missing in SCALE -/
  agreed : List Byte := []
  xmiss : BitVec 1024 := 0
  /-- leaf codes by live block, when the rank contributes -/
  leaf : Option (List (List Byte)) := none
  sat : Nat := 0
  res : Option PelMsg := none
  /-- the updates are written; blocks held; STATUS; COUNTER advances -/
  applied : Bool := false
  held : Nat := 0
  status : Nat := 0
  advance : Bool := false
  /-- the result fields have been written -/
  wrote : Bool := false
  /-- ranks whose GATHER has been written here, and those sent up -/
  gathered : List Nat := []
  gatherUp : List Nat := []
  /-- sampled leaves at the root, by rank: block and codes -/
  checkIn : List (Nat × List (Nat × List Byte)) := []
  deriving DecidableEq, Repr

/-- A sampled check at the root (R355): bucket, step, sampled blocks with the root's partial, ranks missing, and the
leaves by rank. -/
structure PelChk where
  bucket : Nat
  step : BitVec 32
  blocks : List (Nat × Option (List Byte))
  missing : BitVec 1024
  leaves : List (Nat × List (Nat × List Byte))
  /-- count of HCLK when the RESULT was formed -/
  at_ : Word := 0
  deriving DecidableEq, Repr

/-- A Peloton tree (PEL section and registers). -/
structure Tree where
  en : Bool := false
  intra : Bool := false
  eng : Nat := 0
  part : Nat := 0
  n : Nat := 0
  stg : Nat := 0
  /-- rank plus 1 of dies 0-3, 0 for a die without one -/
  ranks : KMap Nat := []
  dlExp : BitVec 32 := 0
  dlData : BitVec 32 := 0
  dlRes : BitVec 32 := 0
  dlChk : BitVec 32 := 0
  btab : Word := 0
  note : Word := 0
  cnt : KMap Word := []
  /-- device and die of each rank: rank -> device * 4 + die -/
  rankMap : KMap Nat := []
  /-- nodes by bucket * 4 + die -/
  nodes : KMap Node := []
  /-- buckets applied in the current step, as bucket * 4 + die -/
  applied : List Nat := []
  checks : List PelChk := []
  /-- messages of a later step than this module's: receiving die, type, message -/
  early : List (Nat × Nat × PelMsg) := []
  /-- reads of other modules and of the host window, by global address of their 64-byte block -/
  far : List FarRead := []
  deriving DecidableEq, Repr

/-! ### Krymas -/

/-- Port states (Table LNK-7). -/
inductive PortState where
  | disabled | training | up | degraded | down
  deriving DecidableEq, Repr

/-- What a remote request serves at the requester (Table LNK-5). -/
inductive RemKind where
  /-- no request -/
  | none
  /-- scalar or vector load of a thread: its pending results name the tag -/
  | load (t : Nat)
  /-- fill of an entry of a scalar cache of a core -/
  | fill (c : Nat) (data : Bool) (e : Nat)
  /-- scalar or vector store of a thread -/
  | store (t : Nat)
  /-- write-back of a core's data cache -/
  | wback (c : Nat)
  /-- read of a Stream Engine context -/
  | seRead (x : Nat)
  /-- write of elements of a Stream Engine context -/
  | seWrite (x : Nat)
  /-- write of a map word or a record of a Stream Engine context -/
  | seMap (x : Nat)
  /-- read of a Peloton tree -/
  | pelRead (t : Nat)
  /-- write of a Peloton tree -/
  | pelWrite (t : Nat)
  deriving DecidableEq, Repr

/-- A remote request under way (R378 to R381): what it serves, its global address, and the code of the ERRRSP that answers it
when it has no route or its port is DOWN (R375, R385). -/
structure Remote where
  kind : RemKind := .none
  addr : Nat := 0
  err : Nat := 0
  deriving DecidableEq, Repr

/-- A sequenced flit (R368): its trailer's own fields, its 256 bytes, and how often it has been replayed (R374). -/
structure Flit where
  seq : BitVec 12
  vc : Nat
  half : Nat
  hdrmap : Nat
  usemap : Nat
  bytes : List Byte
  tries : Nat := 0
  deriving DecidableEq, Repr

/-- A Krymas port (14). Buffer halves are numbered vc * 2 + half. -/
structure Port where
  en : Bool := false
  width : Nat := 0
  degrade : Bool := false
  peer : Nat := 0
  st : PortState := .disabled
  reason : Nat := 0
  widthNow : Nat := 0
  peerId : Nat := 0
  lanef : BitVec 8 := 0
  chg : Bool := false
  cnt : KMap Word := []
  txSeq : BitVec 12 := 0
  /-- sent and unacknowledged flits, oldest first -/
  replay : List Flit := []
  rxSeq : BitVec 12 := 0xFFF#12
  /-- the buffer half whose credits the next frame reports -/
  crNext : Nat := 0
  credit : KMap Nat := []
  crSeen : KMap Nat := []
  crFreed : KMap Nat := []
  /-- messages queued for sending, by half -/
  queue : KMap (List LinkMsg) := []
  /-- slots of the oldest queued message that have left, by half -/
  part : KMap Nat := []
  stalled : List Nat := []
  deriving DecidableEq, Repr

/-- A route (LNK_ROUTEd). -/
structure Route where
  en : Bool := false
  port : Nat := 0
  hset : Nat := 0
  deriving DecidableEq, Repr

/-- An export window (LNK_EXPw). -/
structure Export where
  en : Bool := false
  w : Bool := false
  r : Bool := false
  any : Bool := false
  base : Nat := 0
  limit : Nat := 0
  sid : Nat := 0
  deriving DecidableEq, Repr

/-! ### Cadence port -/

/-- Genlock states (Table CAD-2). -/
inductive Genlock where
  | off | acquire | locked | flywheel | holdover
  deriving DecidableEq, Repr

/-- A committed slice (R396). -/
structure Slice where
  chan : Nat
  frame : BitVec 32
  slice : Nat
  complete : Bool := false
  poison : Bool := false
  hwerr : Bool := false
  /-- count of VCLK when the fetch was complete (Table CLK-4) -/
  at_ : Nat := 0
  bytes : List Byte := []
  deriving DecidableEq, Repr

/-- An accepted job (R405 to R407). -/
structure Job where
  pool : Nat
  chan : Nat
  frame : BitVec 32
  first : Nat
  nsl : Nat
  start : Nat
  desc : Nat
  started : Bool := false
  deriving DecidableEq, Repr

/-- A cadence channel (CAD_CHc). -/
structure Chan where
  en : Bool := false
  fmt : Nat := 0
  nslot : Nat := 0
  actw : Nat := 0
  ring : Nat := 0
  deriving DecidableEq, Repr

/-- A pool (CAD_POOLp). -/
structure Pool where
  en : Bool := false
  part : Nat := 0
  cfirst : Nat := 0
  clast : Nat := 0
  nthr : Nat := 0
  qdepth : Nat := 0
  rsig : BitVec 32 := 0
  gosem : Nat := 0
  mrate : Nat := 0
  nctx : Nat := 0
  ctxfirst : Nat := 0
  busy : Nat := 0
  next : Word := 0
  deriving DecidableEq, Repr

/-- The cadence port (15). -/
structure Cad where
  cfg : Word := 0
  raster : Word := 0
  chans : KMap Chan := []
  pools : KMap Pool := []
  gl : Genlock := .off
  rlpend : Bool := false
  link : Bool := false
  /-- the cadence lanes train: CAD_CTL.RETRAIN, or the apply that enabled the port (R401) -/
  lanesTrain : Bool := false
  /-- sequence number of the next cadence flit (R399) -/
  seq : BitVec 12 := 0
  /-- CAD_CFG and CAD_RASTER of the raster that goes on in ACQUIRE (Table CAD-2) -/
  held : Option (Word × Word) := none
  fnum : BitVec 32 := 0
  fbase : Nat := 0
  cnt : KMap Word := []
  refclk : Bool := true
  pll : Bool := false
  edge : Option Nat := none
  /-- check instant, as a VCLK count, of the slice decided last -/
  decided : Option Int := none
  /-- the port has locked before: FNUM goes on at the next lock (R392) -/
  relock : Bool := false
  slices : List Slice := []
  submits : List Word := []
  jobs : List Job := []
  /-- (channel, frame) whose first HOLD of a covered slice has been reported -/
  missed : List (Nat × Nat) := []
  deriving DecidableEq, Repr

/-! ### Gearing -/

/-- GEAR_STATE.STATE. -/
inductive GState where
  | noImage | validating | waiting | applying | active
  deriving DecidableEq, Repr

/-- The gearing unit (16). -/
structure Gear where
  st : GState := .noImage
  seq : BitVec 32 := 0
  waitp : BitVec 4 := 0
  dbg : Nat := 0
  memReady : Bool := false
  loadAddr : Word := 0
  result0 : Word := 0
  result1 : Word := 0
  chal : BitVec 128 := 0
  active : Word := 0
  /-- image in effect, image under load, stored image -/
  image : Option Image := none
  loading : Option Image := none
  stored : Option Image := none
  /-- the copies of the gearing store: sequence number of the newest, and the contents of the other (R444) -/
  storeSeq : Nat := 0
  storedOld : Option Image := none
  loadLen : Nat := 0
  store : Bool := false
  flash : Bool := false
  blocked : BitVec 4 := 0
  tandem : Bool := false
  deriving DecidableEq, Repr

/-! ### Host -/

/-- Host-queue states. -/
inductive QState where
  | off | idle | running | stopping
  deriving DecidableEq, Repr

/-- A completion record that waits for its slot (Table HOST-4), with the entry's IRQ bit. -/
structure HqRec where
  status : Nat
  tag : Nat
  entry : Nat
  irq : Bool
  yield : Nat
  elements : Nat
  nfault : Nat
  overrun : Nat
  deriving DecidableEq, Repr

/-- A host queue (17). `fetched` holds ring index and entry, oldest first; `started` says that the first runs. -/
structure HostQ where
  cfg : Word := 0
  base : Word := 0
  cqbase : Word := 0
  st : QState := .off
  head : Nat := 0
  tail : Nat := 0
  cqtail : Nat := 0
  cqhead : Nat := 0
  accepted : Nat := 0
  phase : Bool := false
  fetched : List (Nat × HqEntry) := []
  started : Bool := false
  /-- cycle 0 of a WAIT, a count of HCLK; and the timeout has passed while its take was under way (R433) -/
  waitAt : Word := 0
  expired : Bool := false
  /-- records that wait for a free completion slot (R434) -/
  blocked : List HqRec := []
  deriving DecidableEq, Repr

/-- A host-window read under way. -/
structure HostRead where
  tag : Nat
  who : Writer
  addr : Nat
  size : Nat
  /-- the Peloton tree that asks, if one -/
  pel : Option Nat := none
  deriving DecidableEq, Repr

/-- The PCIe function and the host interface. -/
structure HostIf where
  bar2Base : Word := 0
  winBase : Word := 0
  bar2Size : Nat := 0x1000000000
  bme : Bool := false
  msix : Bool := false
  ats : Bool := false
  ide : Bool := false
  linkUp : Bool := false
  width : Nat := 0
  rate : Nat := 0
  msixAddr : KMap Word := []
  msixData : KMap (BitVec 32) := []
  /-- vectors whose mask bit is clear: every mask bit is set at reset (log 25) -/
  msixOpen : KMap Bool := []
  pba : List Nat := []
  /-- the register pairs BAR0/1, BAR2/3 and BAR4/5 (R426): addresses as the host wrote them -/
  bar0 : Word := 0
  bar2 : Word := 0
  bar4 : Word := 0
  /-- an integrity failure has left the IDE stream insecure (R425) -/
  ideFail : Bool := false
  /-- IDE key-management requests taken since IDE keys were last cleared (R438, R449) -/
  ideKeys : List (List Byte) := []
  /-- host pages whose translation is held, each with the page it gives, and invalidations that wait for reads (R424) -/
  atc : List (Nat × Nat) := []
  inval : List Nat := []
  queues : KMap HostQ := []
  reads : List HostRead := []
  deriving DecidableEq, Repr

/-! ### Security Controller and power -/

/-- Slot states (R444). -/
inductive SlotState where
  | empty | pending | good | failed
  deriving DecidableEq, Repr

/-- A firmware slot: its boot-record entry and the manifest facts that R445 and R448 use. The bytes stand as
a list. -/
structure Slot where
  st : SlotState := .empty
  fails : Nat := 0
  confirmed : Bool := false
  bytes : List Byte := []
  deriving DecidableEq, Repr

/-- An enrolled key (R454). -/
structure Key where
  role : Role
  key : BitVec 256
  deriving DecidableEq, Repr

/-- What the boot record holds of a slot, as a copy in the flash holds it (R444): STATE, FAILS, and the first 8 bytes of MDIG. -/
structure SlotRec where
  st : SlotState := .empty
  fails : Nat := 0
  mdig8 : Word := 0
  deriving DecidableEq, Repr

/-- A copy of the boot record, with its sequence number (R444). -/
structure BootRec where
  seq : Nat := 0
  a : SlotRec := {}
  b : SlotRec := {}
  next : Bool := false
  deriving DecidableEq, Repr

/-- The settings (R459), with the defaults of log 62; the I3C address is that of R496. -/
structure Settings where
  i3cAddr : BitVec 7 := 0x4C#7
  mctpAddr : Byte := 0
  thresholds : Word := 0
  logPolicy : Word := 0
  deriving DecidableEq, Repr

/-- A record of the Sag log (R462). -/
structure LogRec where
  seq : Nat
  kind : Nat
  slot : Nat
  status : Nat
  boots : Nat
  svn : Nat
  mdig8 : Word
  deriving DecidableEq, Repr

/-- An update or Sag session (R457, R461). -/
structure Session where
  sag : Bool
  path : MbxPath
  len : Nat
  staging : List Byte
  deriving DecidableEq, Repr

/-- An SPDM connection of one transport (R449): how far its negotiation has come, its session (0 none, 1 in its handshake,
2 established) and the generation of the session's keys. -/
structure Spdm where
  version : Bool := false
  caps : Bool := false
  algs : Bool := false
  session : Nat := 0
  keyGen : Nat := 0
  deriving DecidableEq, Repr

/-- Phases of the Security Controller. -/
inductive ScPhase where
  | off | running | sag
  deriving DecidableEq, Repr

/-- The Security Controller (18). -/
structure Sec where
  phase : ScPhase := .off
  revoke : BitVec 2 := 0
  rootKey0 : BitVec 512 := 0
  rootKey1 : BitVec 512 := 0
  uds : BitVec 256 := 0
  udsLocked : Bool := false
  dsn : BitVec 64 := 0
  /-- ORDER of the fuses: 1 OL-7200-A, 2 OL-7200-AM -/
  order : Nat := 1
  /-- bits set in the thermometer field FWSVN, at most 256 -/
  fwsvn : Nat := 0
  slotA : Slot := {}
  slotB : Slot := {}
  /-- NEXT and the running slot: false A, true B -/
  next : Bool := false
  running : Bool := false
  watchdog : Bool := false
  boots : Nat := 0
  /-- no ROM has started since the cold reset (R462) -/
  coldStart : Bool := true
  /-- copies of the boot record in the flash, the newest first (R444) -/
  bootCopies : List BootRec := []
  setfmt : BitVec 32 := 0
  storedFmt : BitVec 32 := 0
  settings : Settings := {}
  keys : List Key := []
  gearSvn : BitVec 32 := 0
  nonce : BitVec 128 := 0
  session : Option Session := none
  log : List LogRec := []
  logNext : Nat := 0
  /-- LEN of the last GO, the header of the last request, and the response area of BAR4 (R428, R452) -/
  mbxLen : Nat := 0
  mbxReq : Word := 0
  mbxResp : List Word := []
  rlen : Nat := 0
  mbxDone : Bool := false
  mbxBusy : Bool := false
  flashWp : Bool := true
  sagPin : Bool := false
  /-- the flash does not hold what is written into SLOT_A, SLOT_B (R457, R461) -/
  flashBadA : Bool := false
  flashBadB : Bool := false
  idSeed : BitVec 256 := 0
  aliasSeed : BitVec 256 := 0
  doe : Spdm := {}
  mctp : Spdm := {}
  i3cDyn : Option (BitVec 7) := none
  deriving DecidableEq, Repr

/-- Power (19). Targets and CCLK in MHz, by die. -/
structure Power where
  on : BitVec 80 := 0
  plim : Nat := 0
  power : Nat := 0
  vin : BitVec 16 := 0
  ptgt : KMap Nat := []
  ttgt : KMap Nat := []
  cclk : KMap Nat := []
  tmax : KMap Nat := []
  hubT : Nat := 0
  memT : Nat := 0
  trip : Bool := false
  rail : Bool := false
  memhot : Bool := false
  railId : Byte := 0
  /-- a hub sensor stands at 105 °C or more -/
  hubHot : Bool := false
  excursion : Bool := false
  pwrOk : Bool := false
  inRange : Bool := false
  /-- PERST_N deasserted -/
  perstHigh : Bool := false
  /-- a warm reset waits for the end of APPLYING (R477) -/
  warmWait : Bool := false
  /-- LPDDR6 trains: from the end of an apply until LPDDR6_TRAINING_DONE (R474) -/
  training : Bool := false
  /-- every channel has trained -/
  trained : Bool := false
  /-- switched off by a trip or a rail fault until a cold reset (R470, R471) -/
  down : Bool := false
  /-- the start-up load of the stored image waits for PERST_N (R474) -/
  loadDue : Bool := false
  deriving DecidableEq, Repr

/-! ### Events and the hub Bell -/

/-- The units that raise event records, each with a queue of its own (R480). -/
inductive EUnit where
  | core (c : Nat)
  | engine (e : Nat)
  | mcg (g : Nat)
  | port (p : Nat)
  | pel (e : Nat)
  | cadence
  | pcie
  | sem (d : Nat)
  | seqTab (d : Nat)
  | clk
  | sc
  | hub
  deriving DecidableEq, Repr

/-- An event record (Table ERR-2) before its SEQ is given. -/
structure Event where
  code : Nat
  cls : Nat
  domain : Nat
  counter : Word
  location : Word
  detail : Word
  deriving DecidableEq, Repr

/-- An event ring (R481 to R484). -/
structure Ring where
  en : Bool := false
  space : Bool := false
  arm : Bool := false
  vec : Nat := 0
  size : Nat := 0
  base : Word := 0
  head : BitVec 32 := 0
  tail : BitVec 32 := 0
  lost : BitVec 32 := 0
  seq : BitVec 32 := 0
  /-- losses since the previous EVT_LOST -/
  since : Nat := 0
  deriving DecidableEq, Repr

/-- The event collector. -/
structure Events where
  queues : List (EUnit × List Event) := []
  drop : KMap Word := []
  ringOf : BitVec 18 := 0
  dis : BitVec 6 := 0
  rings : KMap Ring := []
  /-- position in the order of queues after the last one taken -/
  lastTaken : Nat := 0
  fatalValid : Bool := false
  fatalCode : Nat := 0
  fatalDomain : Nat := 0
  fatalLoc : Word := 0
  deriving DecidableEq, Repr

/-- A hub Bell source (HUB_BELL_CFGn). -/
structure HubSrc where
  dtype : Nat := 0
  tgt : Nat := 0
  en : Bool := false
  pend : Bool := false
  pri : Nat := 0
  deriving DecidableEq, Repr

/-- A glitch filter (R141). -/
structure Filter where
  n : Nat := 0
  pol : Bool := false
  level : Bool := false
  deriving DecidableEq, Repr

/-- The hub Bell, filters and pins. -/
structure Hub where
  srcs : KMap HubSrc := []
  /-- entries delivered by a core and not yet acknowledged at the hub: (source, core, input) -/
  acks : List (Nat × Nat × Nat) := []
  filters : KMap Filter := []
  div : KMap Nat := []
  /-- EVT_OUT function map, two bits a function (R411) -/
  outMap : BitVec 16 := 0
  pulse : BitVec 2 := 0
  haltN : Bool := false
  thermN : Bool := false
  deriving DecidableEq, Repr

/-! ### Outputs -/

/-- What the module sends outside. -/
inductive Out where
  | msix (vec : Nat)
  /-- a request to the host: its address on the bus, translated or not (R424) -/
  | hostWrite (addr : Nat) (bytes : List Byte) (translated : Bool)
  | hostRead (tag addr size : Nat) (translated : Bool)
  /-- a translation request for a host page (R424) -/
  | atsRequest (page : Nat)
  | regRead (off : Nat) (v : Word)
  | bar2 (ok ep : Bool) (bytes : List Byte)
  /-- a frame of a port: the 256 bytes of its flit and its trailer (Table LNK-2) -/
  | frame (port : Nat) (flit : List Byte) (trailer : BitVec 96)
  /-- a Peloton message leaves for a rank; over a link its slots follow in frames -/
  | pel (tree dst : Nat) (type : Nat) (m : PelMsg)
  /-- a frame of the cadence lanes (R399) -/
  | cadFrame (flit : List Byte) (trailer : BitVec 96)
  | mailbox (path : MbxPath) (type status : Nat) (tag : BitVec 16) (body : List Word)
  | spdm (path : SpdmPath) (code : Nat) (body : List Word)
  | tdo (v : BitVec 128)
  | invalidated (page : Nat)
  deriving DecidableEq, Repr

/-- JTAG instructions (Table PIN-6). -/
inductive Tap where
  | idcode | sample | extest | extestPulse | extestTrain | dbgStat | dbgRead | dbgWrite | bypass
  deriving DecidableEq, Repr

/-- The whole module. -/
structure State where
  /-- commands that wait, first in first out -/
  pending : List Instr
  /-- the model's own counter of free values -/
  fresh : Nat
  /-- the model's own count of idle steps -/
  ticks : Nat
  clk : KMap Word
  /-- domains whose clock is stopped -/
  clkOff : List Nat
  ref25 : Bool
  snap : KMap Word
  snapDone : Bool
  snapWait : List Nat
  snapBusy : Bool
  threads : KMap Thread
  cores : KMap Core
  sem : KMap (BitVec 16)
  semQ : List SemReq
  /-- replies to takes under way: (thread, success) -/
  takeReply : List (Nat × Bool)
  /-- counts read for SEMRDs, under way: (thread, semaphore, count) -/
  readReply : List (Nat × Nat × BitVec 16)
  mem : List Host.Cell
  gran : KMap Gran
  capAM : Bool
  stepping : Byte
  memRate : Nat
  regions : KMap Region
  poolCfg : KMap (BitVec 16)
  parts : KMap Part
  prots : KMap Prot
  xinv : KMap XInv
  pelXlat : List XEnt
  bkts : KMap Bucket
  memErr : KMap Word
  front : KMap (List MemReq)
  banks : KMap Bank
  poolLines : KMap (List PLine)
  lookupQ : KMap (List MemReq)
  engines : KMap Engine
  ctxs : KMap Ctx
  stepc : StepCtl
  seqEntry : KMap Word
  seqBase : KMap Word
  trees : KMap Tree
  lnkTmo : BitVec 32
  lnkStall : BitVec 16
  lnkId : BitVec 10
  routes : KMap Route
  exports : KMap Export
  ports : KMap Port
  remotes : KMap Remote
  nextXid : Nat
  cad : Cad
  gear : Gear
  host : HostIf
  sec : Sec
  power : Power
  events : Events
  hub : Hub
  tap : Tap
  out : List Out
  deriving DecidableEq, Repr

/-- The module before power: every counter 0 (R32), every thread and context UNALLOTTED (R475), every gear
field 0 (R15), memory with nothing listed. DESIGN CHOICE (log 20): every domain's clock is stopped, SCLK and GFCLK among them. -/
def State.reset : State where
  pending := []
  fresh := 0
  ticks := 0
  clk := []
  clkOff := [0, 1, 2, 3, 0x10, 0x11, 0x12, 0x13, 0x20, 0x21, 0x22, 0x23, 0x24, 0x25, 0x26, 0x27, 0x28, 0x29,
    0x2A, 0x2B, 0x2C, 0x2D, 0x2E, 0x2F, 0x40, 0x50, 0x51, 0x52, 0x53, 0x54, 0x55, 0x56, 0x57, 0x60, 0x70, 0x80, 0x90]
  ref25 := true
  snap := []
  snapDone := false
  snapWait := []
  snapBusy := false
  threads := []
  cores := []
  sem := []
  semQ := []
  takeReply := []
  readReply := []
  mem := []
  gran := []
  capAM := false
  stepping := 0
  memRate := 0
  regions := []
  poolCfg := []
  parts := []
  prots := []
  xinv := []
  pelXlat := []
  bkts := []
  memErr := []
  front := []
  banks := []
  poolLines := []
  lookupQ := []
  engines := []
  ctxs := []
  stepc := {}
  seqEntry := []
  seqBase := []
  trees := []
  lnkTmo := 0
  lnkStall := 0
  lnkId := 0
  routes := []
  exports := []
  ports := []
  remotes := []
  nextXid := 0
  cad := {}
  gear := {}
  host := {}
  sec := {}
  power := {}
  events := {}
  hub := {}
  tap := .idcode
  out := []

end Sys2Proof.Machine
end

