-- ==== Sys2Proof/Machine/Access.lean ====
section
/-! DEFINITION. Reading and writing the parts of the state: one home and one accessor for each. -/

namespace Sys2Proof.Machine

/-- Thread `t`. -/
def State.thr (s : State) (t : Nat) : Thread := kget {} s.threads t
/-- Write thread `t`. -/
def State.setThr (s : State) (t : Nat) (x : Thread) : State := { s with threads := kset {} s.threads t x }
/-- Core `c`. -/
def State.core (s : State) (c : Nat) : Core := kget {} s.cores c
/-- Write core `c`. -/
def State.setCore (s : State) (c : Nat) (x : Core) : State := { s with cores := kset {} s.cores c x }
/-- Context `x` (R254). -/
def State.ctx (s : State) (x : Nat) : Ctx := kget {} s.ctxs x
def State.setCtx (s : State) (x : Nat) (c : Ctx) : State := { s with ctxs := kset {} s.ctxs x c }
/-- Engine `e`: die * 8 + engine, 32 to 35 on the hub. -/
def State.engine (s : State) (e : Nat) : Engine := kget {} s.engines e
def State.setEngine (s : State) (e : Nat) (x : Engine) : State := { s with engines := kset {} s.engines e x }
/-- Tree `t`. -/
def State.tree (s : State) (t : Nat) : Tree := kget {} s.trees t
def State.setTree (s : State) (t : Nat) (x : Tree) : State := { s with trees := kset {} s.trees t x }
/-- Krymas port `p`. -/
def State.port (s : State) (p : Nat) : Port := kget {} s.ports p
def State.setPort (s : State) (p : Nat) (x : Port) : State := { s with ports := kset {} s.ports p x }
/-- Host queue `q`. -/
def State.hq (s : State) (q : Nat) : HostQ := kget {} s.host.queues q
def State.setHq (s : State) (q : Nat) (x : HostQ) : State :=
  { s with host := { s.host with queues := kset {} s.host.queues q x } }
/-- Hub Bell source `n`. -/
def State.hubSrc (s : State) (n : Nat) : HubSrc := kget {} s.hub.srcs n
def State.setHubSrc (s : State) (n : Nat) (x : HubSrc) : State :=
  { s with hub := { s.hub with srcs := kset {} s.hub.srcs n x } }
/-- Partition `p`. -/
def State.part (s : State) (p : Nat) : Part := kget {} s.parts p
/-- Count of a semaphore: die * 4096 + index. -/
def State.semCount (s : State) (n : Nat) : BitVec 16 := kget 0 s.sem n
def State.setSem (s : State) (n : Nat) (v : BitVec 16) : State := { s with sem := kset 0 s.sem n v }
/-- Count of a clock domain's cycle counter (R32). -/
def State.count (s : State) (id : Nat) : Word := kget 0 s.clk id
/-- A bank of a channel: channel * 16 + bank. -/
def State.bank (s : State) (k : Nat) : Bank := kget {} s.banks k
def State.setBank (s : State) (k : Nat) (b : Bank) : State := { s with banks := kset {} s.banks k b }
/-- Add one to a counter of a map, wrapping. -/
def bump (m : KMap Word) (k : Nat) (n : Nat := 1) : KMap Word := kset 0 m k (kget 0 m k + BitVec.ofNat 64 n)
/-- Append what the module sends outside. -/
def State.emit (s : State) (o : Out) : State := { s with out := o :: s.out }
/-- A free value: the next of the model's own sequence (log 2). -/
def State.drawn (s : State) : Word := Config.freeWord s.fresh
def State.draw (s : State) : State := { s with fresh := s.fresh + 1 }

/-- The core of a thread (03, Threads). -/
def coreOf (t : Nat) : Nat := t / 16
/-- The engine whose slots the requests of a core hold: that of its mesh row (Table CORE-6A). -/
def coreEngine (c : Nat) : Nat := c / 72 * 8 + c % 72 / 9
/-- The C-die of a core. -/
def dieOf (c : Nat) : Nat := c / 72
/-- The engine of a context ID (R254). -/
def engineOf (x : Nat) : Nat := if x < 10240 then x / 320 else 32 + (x - 10240) / 128
/-- The die of an engine, 4 for the hub. -/
def engineDie (e : Nat) : Nat := if e < 32 then e / 8 else 4
/-- Clock domain of an engine: FCLK of its die, or HCLK. -/
def engineDomain (e : Nat) : Nat := if e < 32 then 0x10 + e / 8 else 0x40

/-- Class of a pass tag (Table OVW-5). -/
def Pass.cls : Pass → Cls
  | .cad => .cad
  | .fwd => .step
  | .bwd => .step
  | .upd => .step
  | .eval => .eval
  | .sys => .bulk
/-- Code of a pass tag (THR_STATUS). -/
def Pass.code : Pass → Nat
  | .sys => 0
  | .cad => 1
  | .fwd => 2
  | .bwd => 3
  | .upd => 4
  | .eval => 5
/-- Code of a class (Table OVW-4). -/
def Cls.code : Cls → Nat
  | .cad => 0
  | .step => 1
  | .eval => 2
  | .bulk => 3
/-- The class of a code. -/
def Cls.ofCode : Nat → Cls
  | 0 => .cad
  | 1 => .step
  | 2 => .eval
  | _ => .bulk

/-- The evaluation window excludes a class (R328, R330). -/
def State.gatedCls (s : State) (c : Cls) : Bool :=
  match c with
  | .step => s.stepc.evalOpen
  | .eval => !s.stepc.evalOpen
  | _ => false

/-- Change thread `t`. -/
def State.updThr (s : State) (t : Nat) (f : Thread → Thread) : State := s.setThr t (f (s.thr t))
/-- Change core `c`. -/
def State.updCore (s : State) (c : Nat) (f : Core → Core) : State := s.setCore c (f (s.core c))
def State.updCtx (s : State) (x : Nat) (f : Ctx → Ctx) : State := s.setCtx x (f (s.ctx x))
def State.updEngine (s : State) (e : Nat) (f : Engine → Engine) : State := s.setEngine e (f (s.engine e))
def State.updTree (s : State) (t : Nat) (f : Tree → Tree) : State := s.setTree t (f (s.tree t))
def State.updPort (s : State) (p : Nat) (f : Port → Port) : State := s.setPort p (f (s.port p))
def State.updHq (s : State) (q : Nat) (f : HostQ → HostQ) : State := s.setHq q (f (s.hq q))

/-- Replace field `[hi:lo]` of a word. -/
def putFld {n : Nat} (w : BitVec n) (hi lo v : Nat) : BitVec n :=
  let m : BitVec n := BitVec.ofNat n ((2 ^ (hi + 1 - lo) - 1) * 2 ^ lo)
  (w &&& ~~~m) ||| (BitVec.ofNat n (v * 2 ^ lo) &&& m)

/-- Replace bit `i` of a word. -/
def putBit {n : Nat} (w : BitVec n) (i : Nat) (b : Bool) : BitVec n :=
  let m : BitVec n := BitVec.ofNat n (2 ^ i)
  if b then w ||| m else w &&& ~~~m

/-- 1 for true. -/
def b2n (b : Bool) : Nat := if b then 1 else 0

/-- A number of `n` bits, sign-extended to an integer. -/
def sxt (n v : Nat) : Int := if 2 * (v % 2 ^ n) ≥ 2 ^ n then (v % 2 ^ n : Nat) - 2 ^ n else (v % 2 ^ n : Nat)

/-- Little-endian bytes of a number (R9). -/
def toBytes : Nat → Nat → List Byte
  | 0, _ => []
  | n + 1, v => BitVec.ofNat 8 v :: toBytes n (v / 256)

/-- The number that little-endian bytes hold (R9). -/
def ofBytes : List Byte → Nat
  | [] => 0
  | b :: bs => b.toNat + 256 * ofBytes bs

/-- Clear then set bits of a list-as-set. -/
def insertNat (l : List Nat) (n : Nat) : List Nat := if l.contains n then l else l ++ [n]

end Sys2Proof.Machine
end

