-- ==== Sys2Proof/Machine/Report.lean ====
section
/-! DEFINITION. What the module reports: event records (R479, R480), MSI-X messages (R423), the hub Bell
(R139) and the pins that follow conditions (R48, R411). -/

namespace Sys2Proof.Machine

/-! ### MSI-X -/

/-- Send MSI-X message `v`, or hold it in the PBA while its vector is masked (R423). -/
def State.msix (s : State) (v : Nat) : State :=
  if s.host.bme && s.host.msix then
    if kget false s.host.msixOpen v then s.emit (.msix v)
    else { s with host := { s.host with pba := insertNat s.host.pba v } }
  else s

/-! ### Event records -/

/-- The queue of a unit. -/
def evQueue (q : List (EUnit × List Event)) (u : EUnit) : List Event :=
  match q with
  | [] => []
  | (v, l) :: r => if v = u then l else evQueue r u

/-- Append a record to the queue of a unit; a unit new to the list comes last. -/
def evPush (q : List (EUnit × List Event)) (u : EUnit) (e : Event) : List (EUnit × List Event) :=
  match q with
  | [] => [(u, [e])]
  | (v, l) :: r => if v = u then (v, l ++ [e]) :: r else (v, l) :: evPush r u e

/-- Raise an event: one record in the queue of its unit, or a count of EVT_DROP when the queue holds 8
(R479, R480). The counter word is the counter of the domain at detection (R33). -/
def State.raise (s : State) (u : EUnit) (domain code cls loc det : Nat) : State :=
  if (evQueue s.events.queues u).length < 8 then
    let e : Event := { code := code, cls := cls, domain := domain, counter := s.count domain,
                       location := BitVec.ofNat 64 loc, detail := BitVec.ofNat 64 det }
    { s with events := { s.events with queues := evPush s.events.queues u e } }
  else { s with events := { s.events with drop := bump s.events.drop domain } }

/-- Event classes (Table ERR-3). -/
def evCorrected : Nat := 0
def evPoisoned : Nat := 1
def evDeadline : Nat := 2
def evConfig : Nat := 3
def evSecurity : Nat := 4
def evFatal : Nat := 5

/-- Raise an event of a core, in the CCLK domain of its die. -/
def State.raiseCore (s : State) (c code cls loc det : Nat) : State := s.raise (.core c) (dieOf c) code cls loc det
/-- Raise an event of the hub, in HCLK. -/
def State.raiseHub (s : State) (code cls loc det : Nat) : State := s.raise .hub 0x40 code cls loc det
/-- Raise an event of a Stream Engine. -/
def State.raiseEng (s : State) (e code cls loc det : Nat) : State :=
  s.raise (.engine e) (engineDomain e) code cls loc det

/-! ### Pins and the hub Bell -/

/-- The pin of an EVT_OUT function: 0 none, 1 EVT_OUT[0], 2 EVT_OUT[1] (R411). -/
def Hub.pinOf (h : Hub) (f : Nat) : Nat := fld h.outMap (2 * f + 1) (2 * f)

/-- An edge function of EVT_OUT begins a pulse (R411). -/
def State.pulse (s : State) (f : Nat) : State :=
  match s.hub.pinOf f with
  | 1 => { s with hub := { s.hub with pulse := putBit s.hub.pulse 0 true } }
  | 2 => { s with hub := { s.hub with pulse := putBit s.hub.pulse 1 true } }
  | _ => s

/-- A source contends: PEND, EN and a PRI above 0 (R139). -/
def HubSrc.contends (x : HubSrc) : Bool := x.pend && x.en && decide (x.pri ≠ 0)

/-- Replace a hub source; becoming a contender sends its MSI-X message when it is routed to the host (R139). -/
def State.hubPut (s : State) (n : Nat) (x : HubSrc) : State :=
  let s1 := s.setHubSrc n x
  if x.contends && !(s.hubSrc n).contends && decide (x.dtype = 2) then s1.msix (x.tgt % 2048) else s1

/-- An edge source of the hub Bell is raised (R139); software source 0x80 pulses its EVT_OUT pin (R411). -/
def State.hubRaise (s : State) (n : Nat) : State :=
  let s1 := s.hubPut n { s.hubSrc n with pend := true }
  if n = 0x80 then s1.pulse 7 else s1

/-- The line of a level source of the hub Bell takes a level (R139). -/
def State.hubLine (s : State) (n : Nat) (level : Bool) : State := s.hubPut n { s.hubSrc n with pend := level }

/-- Some thread of the module is STOPPED. -/
def State.anyStopped (s : State) : Bool := s.threads.any (fun p => decide (p.2.st = .stopped))

/-- HALT_N and THREAD_STOP follow the STOPPED threads (R48, Table EXC-5). -/
def State.haltPins (s : State) : State :=
  let a := s.anyStopped
  ({ s with hub := { s.hub with haltN := a } }).hubLine 0x20 a

/-- The level of pin EVT_OUT[k] (R411, R495): a pulse of an edge function, or a level function that is mapped to it and whose condition
holds, while the always-on domain is on. -/
def State.evtOut (s : State) (k : Nat) : Bool :=
  bit s.power.on 72 && (bit s.hub.pulse k || (decide (s.hub.pinOf 0 = k + 1) && s.hub.haltN)
    || (decide (s.hub.pinOf 2 = k + 1) && (decide (s.cad.gl = .flywheel) || decide (s.cad.gl = .holdover))))

/-- The hub Bell's kinds (Table EXC-5): sources that follow a line. -/
def hubLevel (n : Nat) : Bool := (decide (0x08 ≤ n) && decide (n ≤ 0x0F)) || decide (n = 0x19) || decide (n = 0x20)

/-- Sources that are never pending (Table EXC-5). -/
def hubReserved (n : Nat) : Bool :=
  (decide (0x04 ≤ n) && decide (n ≤ 0x07)) || (decide (0x1A ≤ n) && decide (n ≤ 0x1F))
    || (decide (0x22 ≤ n) && decide (n ≤ 0x3F)) || decide (0xC0 ≤ n)

/-- An edge source of a core Bell is raised (R137). -/
def State.bellRaise (s : State) (c n : Nat) : State :=
  s.updCore c (fun k => { k with bell := { k.bell with pend := putBit k.bell.pend n true } })

end Sys2Proof.Machine
end

