-- ==== Sys2Proof/Machine/Memory.lean ====
section
/-! DEFINITION. The local physical map (R290), the place of an address (R294, R295), granules and their
detection code (R313 to R316), and reads and writes of memory. -/

namespace Sys2Proof.Machine

/-- What stands at a local physical address (Table MEM-1). -/
inductive Place where
  | lpddr
  | near (core : Nat)
  | pool (die slice : Nat)
  | regs (off : Nat)
  | host (off : Nat)
  | none
  deriving DecidableEq, Repr

/-- Populated LPDDR6 bytes (R4, R290). -/
def State.lpddrTop (s : State) : Nat := if s.capAM then 0xC000000000 else 0x18000000000

/-- Core group of core `c` is ON (R463). -/
def State.coreOn (s : State) (c : Nat) : Bool := bit s.power.on (c / 72 * 18 + c % 72 / 9)
/-- What an access to a register makes of the state: while the module is held off, in Sag mode, and while the domains are held
in reset for want of REF25, the write is ignored (R31, R460, R470). -/
def State.byReg (s x : State) : State := if s.power.down || decide (s.sec.phase = .sag) || !s.ref25 then s else x
/-- The PCIe function is ready, so that BAR0 and BAR4 respond (R437): the link is up and the SC has brought the function up, in Sag
mode or with its boot confirmed (R446, R460). -/
def State.fnReady (s : State) : Bool :=
  s.host.linkUp && (decide (s.sec.phase = .sag) || (decide (s.sec.phase = .running) && !s.sec.watchdog))

/-- A write of a per-core register whose core group is OFF is ignored and reports CORE_OFFWR (R465). -/
def State.byCore (s : State) (c off : Nat) (x : State) : State :=
  if s.coreOn c then x else s.raiseCore c 0x0104 evConfig (0x2000000 + c * 0x10000 + off) 0
/-- Pool quadrant of slice `sl` of die `d` is ON (R463). -/
def State.sliceOn (s : State) (d sl : Nat) : Bool := bit s.power.on (d * 18 + 8 + sl / 4)

/-- The place of a local physical address; unpopulated addresses are `none` (R290, R465). -/
def State.place (s : State) (a : Nat) : Place :=
  if a < 0x18000000000 then (if a < s.lpddrTop then .lpddr else .none)
  else if a < 0x20000000000 then .none
  else if a < 0x20090000000 then
    let c := (a - 0x20000000000) / 0x800000
    if s.coreOn c then .near c else .none
  else if a < 0x21000000000 then .none
  else if a < 0x21020000000 then
    let x := a - 0x21000000000
    let die := x / 0x8000000
    let sl := x % 0x8000000 / 0x800000
    if bit (kget 0 s.poolCfg die) sl && s.sliceOn die sl then .pool die sl else .none
  else if a < 0x22000000000 then .none
  else if a < 0x22004000000 then .regs (a - 0x22000000000)
  else if a < 0x40000000000 then .none
  else if a < 0x80000000000 then .host (a - 0x40000000000)
  else .none

/-- The address holds memory: populated LPDDR6, near store or pool scratch. -/
def State.isMem (s : State) (a : Nat) : Bool :=
  match s.place a with
  | .lpddr => true
  | .near _ => true
  | .pool _ _ => true
  | _ => false

/-- The place of an LPDDR6 address in silicon (R294, R295). -/
structure Chip where
  die : Nat
  ch : Nat
  off : Nat
  deriving DecidableEq, Repr

/-- Interleave formulas of R294. -/
def Region.chip (r : Region) (a0 : Nat) : Chip :=
  let a := a0 - r.base
  let cb := r.base / 96
  let ig := 256 * 2 ^ r.igc
  if r.mode then
    let q := a / ig
    let k := q % 96
    ⟨k % 4, k / 4, cb + q / 96 * ig + a % ig⟩
  else
    let b := a % (r.size / 4)
    let q := b / ig
    ⟨a / (r.size / 4), q % 24, cb + q / 24 * ig + b % ig⟩

/-- The enabled region that holds an address. -/
def State.regionOf (s : State) (a : Nat) : Option Region :=
  (s.regions.find? (fun p => p.2.en && decide (p.2.base ≤ a) && decide (a < p.2.base + p.2.size))).map (·.2)

def State.chip (s : State) (a : Nat) : Chip :=
  match s.regionOf a with
  | some r => r.chip a
  | none => ⟨0, 0, 0⟩

/-- Bank of a channel byte address (R295). -/
def Chip.bank (c : Chip) : Nat := Nat.xor (c.off / 2 ^ 11 % 16) (c.off / 2 ^ 15 % 16)
/-- Row of a channel byte address (R295). -/
def Chip.row (c : Chip) : Nat := c.off / 2 ^ 15
/-- Memory-controller group of the module: die * 4 + channel div 6 (R287). -/
def Chip.group (c : Chip) : Nat := c.die * 4 + c.ch / 6

/-- The group whose counters and domain report an address: its own for LPDDR6, group 0 of the die else (R315). -/
def State.errGroup (s : State) (a : Nat) : Nat :=
  match s.place a with
  | .lpddr => (s.chip a).group
  | .near c => dieOf c * 4
  | .pool d _ => d * 4
  | _ => 0

/-! ### Granules -/

/-- What a read finds at a granule (R315). -/
inductive Finding where
  | ok | crc | poison | tag
  deriving DecidableEq, Repr

/-- The granule of an address: its number. -/
def granOf (a : Nat) : Nat := a / 32

/-- The detection code held for a granule. -/
def State.granule (s : State) (g : Nat) : Gran := kget {} s.gran g

/-- The check of R315 against a leaf tag; tag 0 compares nothing. -/
def Gran.check (x : Gran) (tag : BitVec 7) : Finding :=
  if x.syn ≠ 0 then .crc else if x.p then .poison
  else if tag ≠ 0 ∧ tag ≠ x.tag then .tag else .ok

/-- The read of granule `g` delivers it poisoned. -/
def State.bad (s : State) (g : Nat) (tag : BitVec 7) : Bool := decide ((s.granule g).check tag ≠ .ok)

/-- Report what a read of a granule finds, and count it in group `m` (R315). -/
def State.reportIn (s : State) (m g : Nat) (tag : BitVec 7) : State :=
  let cnt (k : Nat) (s : State) : State := { s with memErr := bump s.memErr (m * 3 + k) }
  match (s.granule g).check tag with
  | .ok => s
  | .crc => (cnt 0 s).raise (.mcg m) (0x20 + m) 0x0502 evPoisoned (g * 32) 0
  | .poison => cnt 2 s
  | .tag => (cnt 1 s).raise (.mcg m) (0x20 + m) 0x0503 evPoisoned (g * 32)
      (tag.toNat + (s.granule g).tag.toNat * 256)

/-- Report and count what a read of a granule finds, in the group of its address (R315). -/
def State.report (s : State) (g : Nat) (tag : BitVec 7) : State := s.reportIn (s.errGroup (g * 32)) g tag

/-- The 39 bytes that a granule's CRC covers: data, address and TAG * 2 + P (R314). -/
def State.crcBytes (s : State) (g : Nat) : List Byte :=
  kgetMany 0 s.mem (g * 32) 32 ++ toBytes 6 g ++ toBytes 1 ((s.granule g).tag.toNat * 2 + b2n (s.granule g).p)

/-- The detection code stored with a granule (R313, R314); it is the right one unless `syn` says how it differs. -/
def State.code (s : State) (g : Nat) : Nat :=
  (s.granule g).tag.toNat * 2 ^ 25 + b2n (s.granule g).p * 2 ^ 24 + Nat.xor (crc24 (s.crcBytes g)) (s.granule g).syn.toNat

/-- Numbers of the granules that bytes `a` to `a + n - 1` touch. -/
def granules (a n : Nat) : List Nat :=
  if n = 0 then [] else (List.range ((a + n - 1) / 32 - a / 32 + 1)).map (· + a / 32)

/-- Numbers of the 64-byte blocks that bytes touch. -/
def blocks (a n : Nat) : List Nat :=
  if n = 0 then [] else (List.range ((a + n - 1) / 64 - a / 64 + 1)).map (· + a / 64)

/-! ### Requests of the memory system -/

/-- How an access is charged and translated: class, leaf tag, leaf NP, and the engine whose slot it holds (Table CORE-6A), since
its issue when `held`. -/
structure Acs where
  cls : Cls
  tag : BitVec 7 := 0
  np : Bool := false
  eng : Nat := 36
  held : Bool := false
  deriving DecidableEq, Repr

/-- Send the blocks of an LPDDR6 access towards the pool caches of their dies (R298). -/
def State.send (s : State) (a n : Nat) (write : Bool) (x : Acs) : State :=
  (blocks a n).foldl (fun s b =>
    let d := (s.chip (b * 64)).die
    let hits (g : Nat) : Bool := decide (a < g * 32 + 32) && decide (g * 32 < a + n)
    let whole (g : Nat) : Bool := !hits g || (decide (a ≤ g * 32) && decide (g * 32 + 32 ≤ a + n))
    let r : MemReq := {
      block := b, write := write, part := write && !(whole (b * 2) && whole (b * 2 + 1)), cls := x.cls, np := x.np, eng := x.eng, held := x.held
      checks := if write then [] else [(x.tag, hits (b * 2), hits (b * 2 + 1))] }
    { s with lookupQ := kset [] s.lookupQ d (kget [] s.lookupQ d ++ [r]) }) s

/-- Send one request of a block towards the pool cache of its die. -/
def State.sendReq (s : State) (r : MemReq) : State :=
  let d := (s.chip (r.block * 64)).die
  { s with lookupQ := kset [] s.lookupQ d (kget [] s.lookupQ d ++ [r]) }

/-- The module-side effect of a read of memory: LPDDR6 blocks are requested and checked where they are served;
granules of near stores and pool scratch are checked now (R315). -/
def State.touch (s : State) (a n : Nat) (x : Acs) : State :=
  match s.place a with
  | .lpddr => s.send a n false x
  | .near _ => (granules a n).foldl (fun s g => s.report g x.tag) s
  | .pool _ _ => (granules a n).foldl (fun s g => s.report g x.tag) s
  | _ => s

/-- Bytes of memory. -/
def State.bytes (s : State) (a n : Nat) : List Byte := kgetMany 0 s.mem a n
/-- One byte of memory. -/
def State.byte (s : State) (a : Nat) : Byte := kget 0 s.mem a
/-- The little-endian word at an address. -/
def State.word (s : State) (a n : Nat) : Nat := ofBytes (s.bytes a n)
/-- Some granule of the bytes is delivered poisoned. -/
def State.anyBad (s : State) (a n : Nat) (tag : BitVec 7) : Bool := (granules a n).any (fun g => s.bad g tag)

/-- The canonical form of memory: addresses strictly rising, no byte 0 listed (an unlisted address reads as 0, log 1). -/
def Memory.wf (m : List Host.Cell) : Bool := kwf 0 m

/-- Write the bytes, without their detection codes. -/
def State.poke (s : State) (a : Nat) (bs : List Byte) : State := { s with mem := ksetMany 0 s.mem a bs }

/-- The detection code of granule `g` after a write that covers it whole or in part, with tag `x.tag`; `p` marks
carried poison. A partial write is checked, reported and merged (R316). -/
def State.sealAs (s : State) (g : Nat) (whole : Bool) (x : Acs) (p : Bool) : State :=
  if whole then { s with gran := kset {} s.gran g { tag := x.tag, p := p, syn := 0 } }
  else
    let q := p || s.bad g x.tag
    let s1 := s.report g x.tag
    { s1 with gran := kset {} s1.gran g { tag := x.tag, p := q, syn := 0 } }

/-- The detection code of granule `g` after a write of bytes `[a, a + n)`. -/
def State.seal (s : State) (a n g : Nat) (x : Acs) (p : Bool) : State :=
  s.sealAs g (decide (a ≤ g * 32) && decide (g * 32 + 32 ≤ a + n)) x p

/-- Write bytes to memory (R316): `poison g` marks granules whose data is poisoned. -/
def State.store (s : State) (a : Nat) (bs : List Byte) (x : Acs) (poison : Nat → Bool := fun _ => false) : State :=
  let n := bs.length
  if n = 0 then s else
  let s1 := (granules a n).foldl (fun s g => s.seal a n g x (poison g)) s
  let s2 := s1.poke a bs
  match s2.place a with
  | .lpddr => s2.send a n true x
  | _ => s2

/-! ### The host window -/

/-- Host bus address of a host-window offset (R429). -/
def State.busAddr (s : State) (off : Nat) : Nat := s.host.winBase.toNat + off

/-- The translation of a host page that is held. -/
def HostIf.page (h : HostIf) (p : Nat) : Option Nat := (h.atc.find? (fun q => decide (q.1 = p))).map (·.2)

/-- With ATS enabled the translation of a host page is requested once and held (R424); the page that the host answers with is a
free value (log 33). -/
def State.atsNote (s : State) (bus : Nat) : State :=
  if !s.host.ats || (s.host.page (bus / 4096)).isSome then s
  else
    let page := s.drawn.toNat % 2 ^ 52
    ({ s.draw with host := { s.host with atc := s.host.atc ++ [(bus / 4096, page)] } } : State).emit (.atsRequest (bus / 4096))

/-- The address that a request to host bus address `bus` carries: with ATS enabled, the one that the held translation gives
(R424). -/
def State.busTo (s : State) (bus : Nat) : Nat :=
  if s.host.ats then (s.host.page (bus / 4096)).getD 0 * 4096 + bus % 4096 else bus

/-- Post a write to a host bus address. -/
def State.hostPost (s : State) (bus : Nat) (bs : List Byte) : State :=
  let s1 := s.atsNote bus
  s1.emit (.hostWrite (s1.busTo bus) bs s.host.ats)

/-- A write to the host window: posted, or discarded with HOST_BME (R429). -/
def State.hostStore (s : State) (off : Nat) (bs : List Byte) : State :=
  if s.host.bme then s.hostPost (s.busAddr off) bs
  else s.raise .pcie 0x60 0x0903 evConfig (0x40000000000 + off) 1

/-- A read of the host window: a request with a new tag, or HOST_BME (R429). The tag is the model's own. -/
def State.hostTag (s : State) : Nat := s.host.reads.foldl (fun n r => max n (r.tag + 1)) 0

def State.hostLoad (s : State) (w : Writer) (off n : Nat) (pel : Option Nat := none) : State :=
  let tag := s.hostTag
  let r : HostRead := { tag := tag, who := w, addr := off, size := n, pel := pel }
  let s1 : State := { s with host := { s.host with reads := s.host.reads ++ [r] } }
  let s2 := s1.atsNote (s.busAddr off)
  s2.emit (.hostRead tag (s2.busTo (s.busAddr off)) n s.host.ats)

def State.hostBme (s : State) (off : Nat) : State :=
  s.raise .pcie 0x60 0x0903 evConfig (0x40000000000 + off) 0

end Sys2Proof.Machine
end

