-- ==== Sys2Proof/Machine/Translate.lean ====
section
/-! DEFINITION. Translation (R301 to R306): the walk, its checks, the caches of translations and XLAT_REASON. -/

namespace Sys2Proof.Machine

/-- Kinds of access (R304). -/
inductive Access where
  | fetch | read | write
  deriving DecidableEq, Repr

/-- Outcome of a translation: the leaf with the level it stands at and the global physical address, or the
reason and level of Table MEM-4. -/
inductive XRes where
  | ok (leaf : Word) (level pa : Nat)
  | fail (reason level : Nat)
  deriving DecidableEq, Repr

/-- Whose cache of translations serves an access (R305, R361). -/
inductive XOwner where
  | core (c : Nat)
  | engine (e : Nat)
  | pel
  deriving DecidableEq, Repr

/-- The cached translations of an owner. -/
def State.xcache (s : State) : XOwner → List XEnt
  | .core c => (s.core c).xlat
  | .engine e => (s.engine e).xlat
  | .pel => s.pelXlat

/-- Replace the cached translations of an owner. -/
def State.setXcache (s : State) (o : XOwner) (l : List XEnt) : State :=
  match o with
  | .core c => s.updCore c (fun k => { k with xlat := l })
  | .engine e => s.updEngine e (fun k => { k with xlat := l })
  | .pel => { s with pelXlat := l }

/-- Device ID of a global physical address (R292). -/
def devOf (pa : Nat) : Nat := pa / 2 ^ 48 % 2 ^ 10
/-- Local part of a global physical address (R292). -/
def localOf (pa : Nat) : Nat := pa % 2 ^ 48
/-- The address lies on this module (R292). -/
def State.isLocal (s : State) (pa : Nat) : Bool := decide (devOf pa = s.lnkId.toNat)

/-- The virtual page number at the granularity of a level: 512 MiB at level 2, 64 KiB at level 3 (R301). -/
def pageBits (level : Nat) : Nat := if level = 2 then 29 else 16

/-- Physical address of a leaf for a virtual address (R303). -/
def leafPa (e : Word) (level va : Nat) : Nat := fld e 57 16 * 2 ^ 16 + va % 2 ^ pageBits level

/-- Permission bits of R304: U at privilege U, and X, R or W by kind. -/
def permits (e : Word) (priv : Nat) (k : Access) : Bool :=
  (decide (priv ≠ 0) || bit e 5) &&
    (match k with
      | .fetch => bit e 4
      | .read => bit e 2
      | .write => bit e 3)

/-- Some PROT region bars partition `p` from local address `a` (R118, R303). -/
def State.barred (s : State) (p a : Nat) : Bool :=
  s.prots.any (fun r => r.2.en && decide (r.2.base ≤ a) && decide (a < r.2.limit)
    && (r.2.sconly || bit r.2.nopart p))

/-- The address may be a leaf output of partition `p` (R303): populated and in a PART range. -/
def State.inRange (s : State) (p a : Nat) : Bool :=
  decide (s.place a ≠ .none) && (s.part p).ranges.any (fun r => decide (r.base ≤ a) && decide (a < r.limit))

/-- Permissions, PART ranges and PROT regions of a leaf (R303, R304). -/
def State.checkLeaf (s : State) (p priv : Nat) (k : Access) (e : Word) (level va : Nat) : XRes :=
  let pa := leafPa e level va
  if !permits e priv k then .fail 4 level
  else if s.isLocal pa && !s.inRange p (localOf pa) then .fail 3 level
  else if s.isLocal pa && s.barred p (localOf pa) then .fail 6 level
  else .ok e level pa

/-- Address of the entry for `va` at `level` of the table at `base` (R301). -/
def entryAddr (base level va : Nat) : Nat :=
  base + 8 * (if level = 1 then va / 2 ^ 42 % 2 ^ 10 else if level = 2 then va / 2 ^ 29 % 2 ^ 13 else va / 2 ^ 16 % 2 ^ 13)

/-- The table lies in the module's own populated LPDDR6 (R301). -/
def State.tableOk (s : State) (base level : Nat) : Bool :=
  decide (base + (if level = 1 then 0x2000 else 0x10000) ≤ s.lpddrTop)

/-- The walk of R303 from `level` on: the leaf and its level, or the reason and level of Table MEM-4, with the addresses
of the entries read. A table that does not lie in the module's own LPDDR6 is reported at its own level, the one below the entry that
points to it (DESIGN CHOICE, log 62). -/
def State.walkFrom (s : State) (va : Nat) : Nat → Nat → Nat → Except (Nat × Nat) (Word × Nat) × List Nat
  | 0, level, _ => (.error (2, level), [])
  | n + 1, level, base =>
    if !s.tableOk base level then (.error (2, level), [])
    else
      let a := entryAddr base level va
      let e : Word := BitVec.ofNat 64 (s.word a 8)
      if s.anyBad a 8 0 then (.error (5, level), [a])
      else if !bit e 0 then (.error (1, level), [a])
      else if fld e 63 58 ≠ 0 ∨ bit e 15 then (.error (2, level), [a])
      else if bit e 1 then
        if level = 3 then (.error (2, level), [a])
        else if fld e 57 48 ≠ s.lnkId.toNat then (.error (2, level + 1), [a])
        else
          let r := s.walkFrom va n (level + 1) (localOf (fld e 57 16 * 2 ^ 16))
          (r.1, a :: r.2)
      else if level = 1 then (.error (2, level), [a])
      else if level = 2 ∧ fld e 28 16 ≠ 0 then (.error (2, level), [a])
      else (.ok (e, level), [a])

/-- The cached translation of an address. -/
def State.cached (s : State) (o : XOwner) (p va : Nat) : Option XEnt :=
  (s.xcache o).find? (fun x => decide (x.part = p) && decide (x.vpn = va / 2 ^ pageBits x.level))

/-- The leaf of a virtual address of partition `p`, from the owner's cache or a walk (R301 to R303, R305). -/
def State.leafRead (s : State) (o : XOwner) (p va : Nat) : Except (Nat × Nat) (Word × Nat) × List Nat :=
  if va ≥ 2 ^ 52 then (.error (7, 0), [])
  else
    match s.cached o p va with
    | some x => (.ok (x.leaf, x.level), [])
    | none => if (s.part p).en then s.walkFrom va 3 1 (s.part p).root else (.error (1, 1), [])

/-- Translate a virtual address of partition `p` at privilege `priv` (R301 to R305), with the table entries
that a walk reads. -/
def State.xlatRead (s : State) (o : XOwner) (p priv : Nat) (k : Access) (va : Nat) : XRes × List Nat :=
  let r := s.leafRead o p va
  match r.1 with
  | .error (reason, level) => (.fail reason level, r.2)
  | .ok (e, level) => (s.checkLeaf p priv k e level va, r.2)

/-- The leaf of a virtual address points into register space, whether or not the access is permitted (R93). -/
def State.inRegs (s : State) (o : XOwner) (p va : Nat) : Bool :=
  match (s.leafRead o p va).1 with
  | .error _ => false
  | .ok (e, level) =>
    let pa := leafPa e level va
    s.isLocal pa && (match s.place (localOf pa) with
      | .regs _ => true
      | _ => false)

/-- Translate. -/
def State.xlat (s : State) (o : XOwner) (p priv : Nat) (k : Access) (va : Nat) : XRes :=
  (s.xlatRead o p priv k va).1

/-- What a translation leaves: the walk's reads, which hold slots of the engine of the access (Table CORE-6A), and a cached translation when it succeeded (R303, R305). -/
def State.xlatNote (s : State) (o : XOwner) (p priv : Nat) (k : Access) (va : Nat) (x : Acs) : State :=
  let r := s.xlatRead o p priv k va
  let s1 := r.2.foldl (fun s a => s.touch a 8 { x with tag := 0, np := false }) s
  match r.1 with
  | .fail _ _ => s1
  | .ok leaf level _ =>
    match s.cached o p va with
    | some _ => s1
    | none => s1.setXcache o (s1.xcache o ++ [{ part := p, level := level, vpn := va / 2 ^ pageBits level, leaf := leaf }])

/-- XLAT_REASON of a failure (R306). -/
def xreason (va : Word) (reason level : Nat) : Word :=
  BitVec.ofNat 64 (va.toNat / 2 ^ 12 * 2 ^ 12 + level * 16 + reason)

/-- Leaf TAG, NP, NC (Table MEM-2). -/
def leafTag (e : Word) : BitVec 7 := BitVec.ofNat 7 (fld e 14 8)
def leafNp (e : Word) : Bool := bit e 7
def leafNc (e : Word) : Bool := bit e 6

end Sys2Proof.Machine
end

