-- ==== Sys2Proof/Machine/Ops.lean ====
section
/-! DEFINITION. The shared operations on a thread: its registers, pending results (R89 to R92), taking an
exception (R120, R131, R133), interrupt entry (R121), system entry (R124) and the return (R125). -/

namespace Sys2Proof.Machine

/-! ### Registers -/

/-- Read G register `r`; G0 reads 0 (R82). -/
def Thread.rg (th : Thread) (r : Nat) : Word := if r = 0 then 0 else kget 0 th.g r
/-- Write G register `r`; writes to G0 are discarded (R82). -/
def Thread.wg (th : Thread) (r : Nat) (v : Word) : Thread := if r = 0 then th else { th with g := kset 0 th.g r v }
/-- Read V register `r`. -/
def Thread.rv (th : Thread) (r : Nat) : VReg := kget {} th.v r
/-- Write V register `r`. -/
def Thread.wv (th : Thread) (r : Nat) (x : VReg) : Thread := { th with v := kset {} th.v r x }
/-- P0: all ones, never poisoned (R143). -/
def pregOnes : PReg := { bits := BitVec.allOnes 256, poison := 0 }
/-- Read P register `r`; P0 reads all ones (R143). -/
def Thread.rp (th : Thread) (r : Nat) : PReg := if r = 0 then pregOnes else kget {} th.p r
/-- Write P register `r`; P0 is not written (R143). -/
def Thread.wp (th : Thread) (r : Nat) (x : PReg) : Thread := if r = 0 then th else { th with p := kset {} th.p r x }

/-- Perform one register write. -/
def RegWrite.apply (th : Thread) : RegWrite → Thread
  | .g r y => th.wg r y
  | .v r x => th.wv r x
  | .p r x => th.wp r x
  | .prod hi lo => { th with sr := { th.sr with prdHi := hi, prdLo := lo } }

/-- Perform register writes in order. -/
def Thread.apply (th : Thread) (l : List RegWrite) : Thread := l.foldl RegWrite.apply th

/-! ### The status register (R84) -/

/-- ST.SKACT, XACT, PM, IE, F and the privilege. -/
def stSkact (st : Word) : Bool := bit st 15
def stXact (st : Word) : Bool := bit st 14
def stPm (st : Word) : Bool := bit st 12
def stIe (st : Word) : Bool := bit st 11
def stPriv (st : Word) : Nat := fld st 10 9
def stF (st : Word) : Bool := bit st 4

/-- ST.DS of a saved status (Table EXC-3). -/
def stWithDs (st : Word) (b : Bool) : Word := putBit st 13 b

/-- What entry makes of a status: PRIV 1, IE, PM and DS 0 (R120 step 3, R124, R131). -/
def stEntry (st : Word) : Word := putFld (putBit (putBit (putBit st 11 false) 12 false) 13 false) 10 9 1

/-- An MTS to ST: the bits that may be written at the privilege (R84, R117), the others as they are. -/
def stMerge (st v : Word) : Word :=
  let m : Word := if stPriv st = 0 then 0x101F#64 else 0x581F#64
  (st &&& ~~~m) ||| (v &&& m)

/-! ### Pending results -/

/-- The value is formed. -/
def Pend.isReady (p : Pend) : Bool := decide (p.src = .ready)

/-- The result is due at this boundary and its value is formed. -/
def Pend.due (p : Pend) : Bool := decide (p.left = 0) && p.isReady

/-- At a boundary, results that are due and formed become visible, in issue order (R90, R91). -/
def Thread.commit (th : Thread) : Thread :=
  { (th.pend.filter Pend.due).foldl (fun th p => th.apply p.writes) th with
    pend := th.pend.filter (fun p => !p.due) }

/-- Every pending result is written (R92). -/
def Thread.flush (th : Thread) : Thread :=
  { th.pend.foldl (fun th p => th.apply p.writes) th with pend := [] }

/-- A following instruction issues: each pending result is one boundary nearer (R89). -/
def Thread.age (th : Thread) : Thread :=
  { th with pend := th.pend.map (fun p => { p with left := p.left - 1 }) }

/-- The LOAD wait condition: a result is due and its value has not returned (Table CORE-3). -/
def Thread.loadWait (th : Thread) : Bool := th.pend.any (fun p => decide (p.left = 0))

/-! ### Causes (Table EXC-1) -/

def exFetchXlat : Nat := 0x01
def exFetchErr : Nat := 0x02
def exIllegal : Nat := 0x03
def exPriv : Nat := 0x04
def exIllRet : Nat := 0x05
def exBrk : Nat := 0x06
def exIllOpnd : Nat := 0x07
def exAlign : Nat := 0x08
def exDataXlat : Nat := 0x09
def exRegSpace : Nat := 0x0A
def exDataErr : Nat := 0x0B
def exTileOwner : Nat := 0x0C
def exArith : Nat := 0x0D

/-- An arithmetic exception is pending (R126). -/
def Thread.arithPending (th : Thread) : Bool := decide (th.aflags &&& th.atrap ≠ 0)

/-- XCAUSE of a cause (R119, R120, R126). -/
def causeWord (th : Thread) (int : Bool) (code src : Nat) : Word :=
  BitVec.ofNat 64 (b2n int * 2 ^ 63 + b2n th.arithPending * 2 ^ 62 + code * 2 ^ 16 + src)

/-! ### Entry and return -/

/-- The thread leaves its position: nothing of a branch, shadow, string or WAIT remains. -/
def Thread.leave (th : Thread) : Thread :=
  { th with delay := none, shadow := none, strBusy := false, wait := none, excWait := none, ifetch := none, ifar := none, far := [] }

/-- Exception entry (R120) and interrupt entry (R121): `saved` goes to XPC and `st` to XST. -/
def Thread.enterX (th : Thread) (saved st cause xaddr target : Word) : Thread :=
  { th.leave with
    pc := target,
    sr := { th.sr with
      xpc := saved, xst := st, xcause := cause, xaddr := xaddr,
      st := putBit (stEntry st) 14 true } }

/-- Skid entry (R131): the Skid registers take the position, XACT stays set, and G31 is exchanged with SKID_SP. -/
def Thread.enterSkid (th : Thread) (saved st cause : Word) : Thread :=
  let th1 : Thread := { th.leave with
    pc := th.sr.tvec + 0x800#64,
    sr := { th.sr with
      spc := saved, sst := st, scause := cause,
      st := putBit (putBit (stEntry st) 14 true) 15 true, skidSp := th.rg 31 } }
  th1.wg 31 th.sr.skidSp

/-- The saved address of an exception: the branch for a delay slot, else the instruction (Table EXC-3). -/
def Pos.saved (q : Pos) : Word :=
  match q.delay with
  | some d => d.branch
  | none => q.pc

/-- The saved status of an exception: the value an MTS wrote for its shadow instruction, DS for a delay slot
(Table EXC-3). -/
def Pos.status (q : Pos) (st : Word) : Word := stWithDs (q.shadow.getD st) q.delay.isSome

/-- The loop counters at a position: a load at LE that faults after it has retired finds LC not decremented (Table
EXC-3). -/
def Pos.loops (q : Pos) (r : SRegs) : SRegs :=
  match q.lc with
  | some l => { r with lc0 := l.1, lc1 := l.2 }
  | none => r

/-- A tile move of the thread takes no further step: its port is free, and its rows land at TILE_MOVE_COMPLETES
(R188, R191). -/
def State.closeMove (s : State) (t : Nat) : State :=
  let c := coreOf t
  if (s.core c).moves.any (fun m => decide (m.thread = t) && m.open_) then
    s.updCore c (fun k => { k with moves := k.moves.map (fun m =>
      if m.thread = t ∧ m.open_ = true then { m with open_ := false, port := none } else m) })
  else s

/-- Exception entry, Skid entry or the stop, once no result is pending (R120, R131, R133). -/
def State.enter (s0 : State) (t : Nat) (e : Exc) (q : Pos) : State :=
  let s := s0.closeMove t
  let th0 := (s.thr t).flush
  let th : Thread := { th0 with sr := q.loops th0.sr }
  let st := th.sr.st
  if stSkact st then
    let th1 : Thread := { th.leave with pc := q.pc, st := .stopped }
    ((s.setThr t th1).raiseCore (coreOf t) 0x0101 evFatal t e.code).haltPins
  else if stXact st then
    s.setThr t (th.enterSkid q.saved (q.status st) (causeWord th false e.code 0))
  else
    s.setThr t (th.enterX q.saved (q.status st) (causeWord th false e.code 0) e.xaddr th.sr.tvec)

/-- Entry may take place: every pending result is formed (R92), and no take request of a WAIT is out, whose reply
decides first (R112, log 61). -/
def Thread.canEnter (th : Thread) : Bool :=
  th.pend.all Pend.isReady && (match th.wait with
    | some w => !w.sent
    | none => true)

/-- Take a synchronous exception at a position: entry, or its wait (R92). -/
def State.takeExc (s : State) (t : Nat) (e : Exc) (q : Pos) : State :=
  if (s.thr t).canEnter then s.enter t e q
  else s.updThr t (fun th => { th with excWait := some { exc := e, pos := q } })

/-- An entry that waited takes place once it may (R92). -/
def State.tryEnter (s : State) (t : Nat) : State :=
  match (s.thr t).excWait with
  | none => s
  | some w => if (s.thr t).canEnter then s.enter t w.exc w.pos else s

/-- The position of the thread's next instruction. -/
def Thread.pos (th : Thread) : Pos := { pc := th.pc, delay := th.delay, shadow := th.shadow }

/-- SYSCALL from ST.XACT = 0 (R124): `st` is the status that XST receives. -/
def Thread.sysEnter (th : Thread) (st : Word) : Thread :=
  { th with sr := { th.sr with xpc := th.pc + 8#64, xst := st, st := putBit (stEntry st) 14 true } }

/-- The status that a return makes of a saved one: its defined fields, with DS 0 (R14, R125). PRIV has the values U and S
alone (R84, R115), so its upper bit is 0. -/
def stReturn (st : Word) : Word := st &&& 0xDA1F#64

/-- The return of XRET and SYSRET (R125): the saved pc and status of the level, with G31 exchanged at Skid. -/
def Thread.ret (th : Thread) : Thread × Word :=
  if stSkact th.sr.st then
    let th1 : Thread := { th with sr := { th.sr with st := stReturn th.sr.sst, skidSp := th.rg 31 } }
    (th1.wg 31 th.sr.skidSp, th.sr.spc)
  else ({ th with sr := { th.sr with st := stReturn th.sr.xst } }, th.sr.xpc)

/-- The saved status that a return would restore (R125). -/
def Thread.savedSt (th : Thread) : Word := if stSkact th.sr.st then th.sr.sst else th.sr.xst

/-- The WAIT, string, branch and shadow conditions of R135 and R136 allow an interrupt or a halt here: a string chunk
whose reads are out is under way. -/
def Thread.atBoundary (th : Thread) : Bool :=
  th.pend.isEmpty && th.delay.isNone && th.shadow.isNone && th.excWait.isNone && th.far.isEmpty
    && (match th.wait with
        | some w => !w.sent
        | none => true)

end Sys2Proof.Machine
end

