-- ==== Sys2Proof/Machine/Operands.lean ====
section
/-! DEFINITION. The operand fields of a thread instruction's bits [51:0] (Table ISA-1) and the condition field
(Table ISA-5). -/

namespace Sys2Proof.Machine

/-- Bits [51:0] of an instruction word. -/
abbrev Body := BitVec 52

def Body.rd (f : Body) : Nat := fld f 51 47
def Body.ra (f : Body) : Nat := fld f 46 42
def Body.rb (f : Body) : Nat := fld f 41 37
/-- SF of format R. -/
def Body.sfR (f : Body) : Bool := bit f 36
/-- Reserved bits of format R. -/
def Body.resR (f : Body) : Nat := fld f 35 0
/-- SF, reserved bit and IMM of format I. -/
def Body.sfI (f : Body) : Bool := bit f 41
def Body.resI (f : Body) : Bool := bit f 40
def Body.immI (f : Body) : Nat := fld f 39 0
/-- IMM of format L. -/
def Body.immL (f : Body) : Nat := fld f 46 0
/-- SZ, SX, reserved bits and OFF of format M. -/
def Body.sz (f : Body) : Nat := fld f 41 40
def Body.sx (f : Body) : Bool := bit f 39
def Body.resM (f : Body) : Nat := fld f 38 36
def Body.off (f : Body) : Nat := fld f 35 0
/-- DISP of format B. -/
def Body.disp (f : Body) : Nat := fld f 46 0
/-- LVL, CI, RC, LEN and IMM of format P. -/
def Body.lvl (f : Body) : Bool := bit f 51
def Body.ci (f : Body) : Bool := bit f 50
def Body.rc (f : Body) : Nat := fld f 49 45
def Body.len (f : Body) : Nat := fld f 44 24
def Body.immP (f : Body) : Nat := fld f 23 0
/-- REP, ESZ and reserved bits of format S; RDST, RSRC and RCNT stand where RD, RA and RB do. -/
def Body.rep (f : Body) : Bool := bit f 36
def Body.esz (f : Body) : Nat := fld f 35 34
def Body.resS (f : Body) : Nat := fld f 33 0
/-- DIE, IDX, VAL, RT and TIMM of format W. -/
def Body.sem (f : Body) : Nat := fld f 51 50 * 4096 + fld f 49 38
def Body.val (f : Body) : Nat := fld f 37 22
def Body.rt (f : Body) : Nat := fld f 21 17
def Body.timm (f : Body) : Nat := fld f 16 0

/-- A field that selects one of `n` operations names an assigned one other than `k`: the body is a word of another command
(log 5). -/
def otherOp (sel k n : Nat) : Bool := decide (sel ≠ k) && decide (sel < n)

/-- The value of a number of `n` bits, sign-extended to 64 (R88, R93, R98). -/
def sx64 (n v : Nat) : Word := BitVec.ofInt 64 (sxt n v)

/-- The effective address RA + OFF (R93). -/
def Body.ea (f : Body) (th : Thread) : Word := th.rg f.ra + sx64 36 f.off

/-- The condition of Table ISA-5; COND 15 is illegal and never holds. -/
def condHolds (cond : BitVec 4) (st : Word) : Bool :=
  let n := bit st 3
  let z := bit st 2
  let c := bit st 1
  let v := bit st 0
  match cond.toNat with
  | 0 => true
  | 1 => z
  | 2 => !z
  | 3 => n != v
  | 4 => n == v
  | 5 => c
  | 6 => !c
  | 7 => !z && (n == v)
  | 8 => z || (n != v)
  | 9 => v
  | 10 => !v
  | 11 => n
  | 12 => !n
  | 13 => stF st
  | 14 => !stF st
  | _ => false

end Sys2Proof.Machine
end

