-- ==== Sys2Proof/Machine/Remote.lean ====
section
/-! DEFINITION. Messages on the Krymas links: routes, queues, credits and sending (R371, R373, R375, R376), and
the requests that this module sends (R378). -/

namespace Sys2Proof.Machine

/-- Slots a message takes (R370): its header and the data or body it carries. -/
def LinkMsgSlots (m : LinkMsg) : Nat := 1 + m.data.length

/-- The 32 bytes of a link header (Table LNK-3). -/
def linkHeader (m : LinkMsg) : List Byte :=
  toBytes 8 (m.did.toNat + m.sid.toNat * 2 ^ 10 + m.op.toNat * 2 ^ 20 + m.nslot.toNat * 2 ^ 24 + m.cls.toNat * 2 ^ 28
      + m.xid.toNat * 2 ^ 32)
    ++ toBytes 8 (m.addr.toNat + m.ctag.toNat * 2 ^ 48
      + ((m.data.take 8).zipIdx.map (fun p => if p.1.poison then 2 ^ (55 + p.2) else 0)).sum)
    ++ toBytes 8 m.arg.toNat ++ toBytes 8 0

/-- The slots of a message, each with whether it begins the message. -/
def linkSlots (m : LinkMsg) : List (Bool × List Byte) := (true, linkHeader m) :: m.data.map (fun g => (false, g.bytes))

/-- Virtual channel of a message (Table LNK-4). -/
def LinkMsgVc (m : LinkMsg) : Nat :=
  match m.op.toNat with
  | 1 => 0
  | 2 => 0
  | 6 => 2
  | 7 => 3
  | _ => 1

/-- Slots of one half of a receive buffer (Table LNK-4). -/
def halfSlots (vc : Nat) : Nat :=
  match vc with
  | 0 => 3072
  | 1 => 6144
  | 2 => 2048
  | _ => 1024

/-- The port carries flits. -/
def Port.live (p : Port) : Bool := decide (p.st = .up) || decide (p.st = .degraded)

/-- A flit of up to eight slots; the rest is padding (R368, R370). -/
def flitOf (seq : BitVec 12) (vc half : Nat) (l : List (Bool × List Byte)) : Flit := {
  seq := seq, vc := vc, half := half
  hdrmap := (l.zipIdx.map (fun p => if p.1.1 then 2 ^ p.2 else 0)).sum
  usemap := 2 ^ l.length - 1
  bytes := l.flatMap (·.2) ++ List.replicate (256 - 32 * l.length) 0 }

/-- The trailer of a frame (Table LNK-2): `cr` is the reported buffer half and `crn` its count. -/
def Flit.trailer (f : Flit) (ack : BitVec 12) (nak : Bool) (cr crn : Nat) : BitVec 96 :=
  let low := f.seq.toNat * 2 ^ 52 + ack.toNat * 2 ^ 40 + (if nak then 2 ^ 39 else 0) + f.vc * 2 ^ 37 + f.half * 2 ^ 36
    + cr % 8 * 2 ^ 33 + crn % 1024 * 2 ^ 23 + f.hdrmap * 2 ^ 15 + f.usemap * 2 ^ 7
  BitVec.ofNat 96 ((Config.fcs (f.bytes ++ toBytes 8 low)).toNat * 2 ^ 64 + low)

/-- The flit of a control frame: no slot is used, and it has no sequence number (R368). -/
def ctlFlit : Flit := flitOf 0 0 0 []

/-- A frame leaves a port, with its acknowledgment and the credit report of the next buffer half in rotation (R369). -/
def State.frame (s : State) (p : Nat) (f : Flit) (nak : Bool) : State :=
  let x := s.port p
  (s.setPort p { x with crNext := (x.crNext + 1) % 8 }).emit
    (.frame p f.bytes (f.trailer x.rxSeq nak x.crNext (kget 0 x.crFreed x.crNext)))

/-- The next `n` slots of a slot stream whose first message has `done` slots behind it: the slots, the messages that remain
and what has then left of the first of them. -/
def takeSlots (n done : Nat) : List LinkMsg → List (Bool × List Byte) × List LinkMsg × Nat
  | [] => ([], [], 0)
  | m :: rest =>
    let l := (linkSlots m).drop done
    if n < l.length then (l.take n, m :: rest, done + n)
    else
      let r := takeSlots (n - l.length) 0 rest
      (l ++ r.1, r.2.1, r.2.2)

/-- The next flit of a buffer half: as many of its queued slots, up to eight, as it holds credits for, while there is a place
in the replay buffer (R371, R373). -/
def Port.sendOne (p : Port) (k : Nat) : Option (Port × Flit) :=
  let c := kget 0 p.credit k
  let r := takeSlots (min 8 c) (kget 0 p.part k) (kget [] p.queue k)
  if p.live && !r.1.isEmpty && decide (p.replay.length < 1024) then
    let f := flitOf p.txSeq (k / 2) (k % 2) r.1
    some ({ p with
      queue := kset [] p.queue k r.2.1, part := kset 0 p.part k r.2.2
      credit := kset 0 p.credit k (c - r.1.length), txSeq := p.txSeq + 1, replay := p.replay ++ [f] }, f)
  else none

/-- Send what a buffer half may send, at most `n` flits. -/
def State.drainHalf (s : State) (p k : Nat) : Nat → State
  | 0 => s
  | n + 1 =>
    match (s.port p).sendOne k with
    | none => s
    | some (q, f) => ((s.setPort p q).frame p f false).drainHalf p k n

/-- Slots queued in a buffer half. -/
def Port.slotsQueued (p : Port) (k : Nat) : Nat := ((kget [] p.queue k).map LinkMsgSlots).sum

/-- Send what the port's eight buffer halves may send. -/
def State.drainPort (s : State) (p : Nat) : State :=
  (List.range 8).foldl (fun s k => s.drainHalf p k ((s.port p).slotsQueued k)) s

/-- The half in which a route sends a message that arrived in half `h` (R376). -/
def Route.half (r : Route) (h : Nat) : Nat :=
  match r.hset with
  | 1 => 1
  | 2 => 0
  | _ => h

/-- Queue a message on the port of its route and send what may be sent (R375, R376). -/
def State.route (s : State) (m : LinkMsg) (h : Nat) : State :=
  let r := kget {} s.routes m.did.toNat
  let k := LinkMsgVc m * 2 + r.half h
  (s.updPort r.port (fun p => { p with queue := kset [] p.queue k (kget [] p.queue k ++ [m]) })).drainPort r.port

/-- The route of a device ID is defined and its port is not DOWN or DISABLED. -/
def State.reachable (s : State) (did : Nat) : Bool :=
  let r := kget {} s.routes did
  let p := s.port r.port
  r.en && decide (p.st ≠ .down) && decide (p.st ≠ .disabled)

/-- Code of the ERRRSP for a device ID that cannot be reached: no route, or a route through a DOWN port; else 0 (Table
LNK-6). -/
def State.routeErr (s : State) (did : Nat) : Nat :=
  if s.reachable did then 0 else if (kget ({} : Route) s.routes did).en then 4 else 3

/-- Send a request to another module: it becomes outstanding under a new tag (R372, R375). One without a route, or whose port
is DOWN, leaves no message: an ERRRSP UNREACH or PORTDOWN answers it (log 58). -/
def State.request (s : State) (kind : RemKind) (op addr nslot : Nat) (x : Acs) (arg : Word) (data : List Granule) : State :=
  let xid := s.nextXid
  let m : LinkMsg := {
    did := BitVec.ofNat 10 (devOf addr), sid := s.lnkId, op := BitVec.ofNat 4 op, nslot := BitVec.ofNat 4 nslot,
    cls := BitVec.ofNat 2 x.cls.code, xid := BitVec.ofNat 32 xid, addr := BitVec.ofNat 48 (localOf addr / 64 * 64),
    ctag := x.tag, arg := arg, data := data }
  let s1 : State := { s with
    nextXid := (xid + 1) % 2 ^ 32
    remotes := kset {} s.remotes xid { kind := kind, addr := addr, err := s.routeErr (devOf addr) } }
  if s.routeErr (devOf addr) = 0 then s1.route m 0 else s1

/-- Read `n` bytes at a global address of another module, inside one 256-byte region (R370). -/
def State.remoteRead (s : State) (kind : RemKind) (addr n : Nat) (x : Acs) : State :=
  s.request kind 1 addr (2 * ((addr % 64 + n + 63) / 64)) x 0 []

/-- The 64-byte image of bytes written at an offset of a block, with its byte enables (Table LNK-3). -/
def blockImage (off : Nat) (bs : List Byte) : List Byte := List.replicate off 0 ++ bs ++ List.replicate (64 - off - bs.length) 0
def blockEnables (off n : Nat) : Word := BitVec.ofNat 64 ((2 ^ n - 1) * 2 ^ off)

/-- Cut bytes into granules of 32. -/
def cutGranules (poison : Nat → Bool) (g : Nat) : Nat → List Byte → List Granule
  | 0, _ => []
  | n + 1, bs => { bytes := bs.take 32, poison := poison g } :: cutGranules poison (g + 1) n (bs.drop 32)

/-- Write bytes inside one 64-byte block of another module, with byte enables (R370, Table LNK-3). -/
def State.remoteBlock (s : State) (kind : RemKind) (addr : Nat) (bs : List Byte) (x : Acs) (poison : Nat → Bool) : State :=
  let off := addr % 64
  s.request kind 2 addr 2 x (blockEnables off bs.length)
    (cutGranules poison (addr / 64 * 2) 2 (blockImage off bs))

/-- Write bytes to another module, block by block. -/
def State.remoteWrite (s : State) (kind : RemKind) (addr : Nat) (bs : List Byte) (x : Acs)
    (poison : Nat → Bool := fun _ => false) : State :=
  (blocks addr bs.length).foldl (fun s b =>
    let lo := max addr (b * 64)
    let hi := min (addr + bs.length) (b * 64 + 64)
    s.remoteBlock kind lo ((bs.drop (lo - addr)).take (hi - lo)) x poison) s

/-- Write bytes at a global address that is not register space: memory, the host window or another module
(R292). A poisoned granule is not written to the host window, and its bytes are reported (R429). -/
def State.put (s : State) (kind : RemKind) (pa : Nat) (bs : List Byte) (x : Acs)
    (poison : Nat → Bool := fun _ => false) : State :=
  if s.isLocal pa then
    let a := localOf pa
    match s.place a with
    | .host off =>
      (granules a bs.length).foldl (fun s g =>
        let lo := max a (g * 32)
        let hi := min (a + bs.length) (g * 32 + 32)
        if poison g then s.raise .pcie 0x60 0x0906 evPoisoned (g * 32) 0
        else s.hostStore (off + (lo - a)) ((bs.drop (lo - a)).take (hi - lo))) s
    | .regs _ => s
    | .none => s
    | _ => s.store a bs x poison
  else s.remoteWrite kind pa bs x poison

end Sys2Proof.Machine
end

