-- ==== Sys2Proof/Machine/Cache.lean ====
section
/-! DEFINITION. The scalar caches of a core (R67 to R74, R507): lookup, victim choice, fills, stores,
write-backs and their findings. -/

namespace Sys2Proof.Machine

/-- The instruction cache (false) or data cache (true) of a core. -/
def Core.cache (k : Core) (data : Bool) : Cache := if data then k.dcache else k.icache
def Core.setCache (k : Core) (data : Bool) (x : Cache) : Core :=
  if data then { k with dcache := x } else { k with icache := x }
/-- The misses that wait for an entry. -/
def Core.misses (k : Core) (data : Bool) : List Miss := if data then k.dmiss else k.imiss
def Core.setMisses (k : Core) (data : Bool) (l : List Miss) : Core :=
  if data then { k with dmiss := l } else { k with imiss := l }

/-- Entry `e` of a cache. -/
def State.centry (s : State) (c : Nat) (data : Bool) (e : Nat) : CEntry :=
  kget {} ((s.core c).cache data).entries e
def State.setCentry (s : State) (c : Nat) (data : Bool) (e : Nat) (x : CEntry) : State :=
  s.updCore c (fun k =>
    let ca := k.cache data
    k.setCache data { ca with entries := kset {} ca.entries e x })

/-- The entry that holds or awaits line `la` (R68). -/
def State.findLine (s : State) (c : Nat) (data : Bool) (la : Nat) : Option Nat :=
  (((s.core c).cache data).entries.find? (fun p => (p.2.valid || p.2.inflight) && decide (p.2.la = la))).map (·.1)

/-- Detail word of the cache events (Table ERR-4). -/
def cacheDetail (c : Nat) (data : Bool) (e : Nat) (dirty : Bool) : Nat :=
  c + b2n data * 512 + e * 1024 + b2n dirty * 65536

/-- Bytes of a line. -/
def lineBytes (d : BitVec 2048) (off n : Nat) : List Byte := toBytes n (fld d (off * 8 + n * 8 - 1) (off * 8))
/-- Replace bytes of a line. -/
def lineSet (d : BitVec 2048) (off : Nat) (bs : List Byte) : BitVec 2048 :=
  if bs.length = 0 then d else putFld d (off * 8 + bs.length * 8 - 1) (off * 8) (ofBytes bs)
/-- Apply waiting stores in order. -/
def lineStores (d : BitVec 2048) (l : List LineStore) : BitVec 2048 := l.foldl (fun d x => lineSet d x.off x.bytes) d

/-- Send a dirty line to its backing memory (R72, R73); a corrected word is reported, an uncorrectable one
poisons its granule, and a line whose tag fails parity is lost (R74). The entry stays as it is. A clean line that leaves is
not read, and an error in it is not reported (DESIGN CHOICE, log 62). -/
def State.writeBack (s : State) (c : Nat) (cls : Cls) (e : Nat) : State :=
  let x := s.centry c true e
  if !x.valid || !x.dirty then s
  else
    let a := x.la * 256
    let bs := toBytes 256 x.data.toNat
    let acs : Acs := { cls := cls, tag := x.tag, np := x.np, eng := coreEngine c }
    match x.err with
    | .clean => s.put (.wback c) a bs acs
    | .single w => (s.raiseCore c 0x0105 evCorrected (a + w.val * 8) (cacheDetail c true e false)).put (.wback c) a bs acs
    | .double w =>
      (s.raiseCore c 0x0106 evPoisoned (a + w.val * 8) (cacheDetail c true e true)).put (.wback c) a bs acs
        (fun g => decide (g % 8 = w.val / 4))
    | .tag => s.raiseCore c 0x0107 evPoisoned 0 (cacheDetail c true e true)

/-- Write back a line and keep it clean (DCWB, FENCE, a signal). -/
def State.cleanLine (s : State) (c : Nat) (cls : Cls) (e : Nat) : State :=
  let x := s.centry c true e
  if !x.valid || !x.dirty then s
  else
    let s1 := s.writeBack c cls e
    match x.err with
    | .tag => s1.setCentry c true e {}
    | .single _ => s1.setCentry c true e { x with dirty := false, err := .clean }
    | _ => s1.setCentry c true e { x with dirty := false }

/-- Write back every dirty line of the core's data cache (R72). -/
def State.cleanAll (s : State) (c : Nat) (cls : Cls) : State :=
  (List.range 48).foldl (fun s e => s.cleanLine c cls e) s

/-- Entries a class may choose: its mask less the entries with a fill in flight (R70). -/
def State.allowed (s : State) (c : Nat) (data : Bool) (cls : Cls) : List Nat :=
  let m := kget 0 (s.core c).masks cls.code
  (List.range 48).filter (fun e => bit m e && !(s.centry c data e).inflight)

/-- The next value of an LFSR of R70. -/
def lfsrNext (l : BitVec 16) : BitVec 16 :=
  let n := bit l 15 != (bit l 13 != (bit l 12 != bit l 10))
  BitVec.ofNat 16 (l.toNat * 2 + b2n n)

/-- The victim of R70 and the LFSR after the choice; `none` while every allowed entry is in flight. -/
def State.victim (s : State) (c : Nat) (data : Bool) (cls : Cls) : Option (Nat × BitVec 16) :=
  let al := s.allowed c data cls
  let l := ((s.core c).cache data).lfsr
  match al.find? (fun e => !(s.centry c data e).valid) with
  | some e => some (e, l)
  | none =>
    if al = [] then none
    else
      let l1 := lfsrNext l
      (al[l1.toNat % al.length]?).map (fun e => (e, l1))

/-- Start the fill of a miss in its victim: the dirty victim is written back first (R70, R73). The waiting
misses of the same line join it. The miss waits while a window excludes the core-port requests of its class (R328, R330). -/
def State.startFill (s : State) (c : Nat) (data : Bool) (m : Miss) : State :=
  match if s.gatedCls m.cls then none else s.victim c data m.cls with
  | none => s.updCore c (fun k => k.setMisses data (k.misses data ++ [m]))
  | some (e, l) =>
    let s1 := if data then s.writeBack c m.cls e else s
    let q := (s1.core c).misses data
    let mine := q.filter (fun w => decide (w.la = m.la))
    let x : CEntry := {
      la := m.la, inflight := true, prefetch := m.prefetch && mine.all (·.prefetch), tag := m.tag, np := m.np
      stores := (mine ++ [m]).filterMap (·.store)
      fetchers := (mine ++ [m]).filterMap (·.fetcher)
      awaits := !s.isLocal (m.la * 256) }
    let s2 := s1.updCore c (fun k =>
      let ca := k.cache data
      (k.setCache data { ca with lfsr := l, entries := kset {} ca.entries e x }).setMisses data
        (q.filter (fun w => decide (w.la ≠ m.la))))
    let acs : Acs := { cls := m.cls, tag := m.tag, np := m.np, eng := coreEngine c }
    if s.isLocal (m.la * 256) then
      match s2.place (localOf (m.la * 256)) with
      | .lpddr => s2.send (localOf (m.la * 256)) 256 false acs
      | _ => s2
    else s2.remoteRead (.fill c data e) (m.la * 256) 256 acs

/-- A line is wanted: join its fill, or start one, which the waiting misses of the line join (R68, R70). A miss waits only for its
own class: not behind one that a window holds back (R328). -/
def State.want (s : State) (c : Nat) (data : Bool) (m : Miss) : State :=
  match s.findLine c data m.la with
  | some e =>
    let x := s.centry c data e
    if x.valid then s
    else s.setCentry c data e { x with
      stores := x.stores ++ m.store.toList, fetchers := x.fetchers ++ m.fetcher.toList
      prefetch := x.prefetch && m.prefetch }
  | none => s.startFill c data m

/-- A demand miss: the line is wanted, and the prefetch of the next line follows unless it is present, awaited or in
another 64 KiB page (R71). A miss that joins a fill in flight is a miss too (R68). -/
def State.demand (s : State) (c : Nat) (data : Bool) (m : Miss) : State :=
  let s1 := s.want c data m
  if decide ((m.la + 1) % 256 ≠ 0) && (s1.findLine c data (m.la + 1)).isNone
      && !((s1.core c).misses data).any (fun w => decide (w.la = m.la + 1)) then
    s1.want c data { m with la := m.la + 1, prefetch := true, store := none, fetcher := none }
  else s1

/-- Stores that wait for a line, in its entry or with its waiting misses. -/
def State.storesAhead (s : State) (c la : Nat) : Nat :=
  match s.findLine c true la with
  | some e => (s.centry c true e).stores.length
  | none => (((s.core c).misses true).filter (fun w => decide (w.la = la) && w.store.isSome)).length

/-! ### Lookup -/

/-- What a lookup finds. -/
inductive Look where
  | hit (e : Nat)
  | flight
  | miss
  | bad
  deriving DecidableEq, Repr

/-- Look up words `w0` to `w1` of a line, with what R74 does about the findings. A word that is delivered corrected is stored
corrected, and so reported once (DESIGN CHOICE, log 62). -/
def State.lookup (s : State) (c : Nat) (data : Bool) (la w0 w1 : Nat) : Look × State :=
  match s.findLine c data la with
  | none => (.miss, s)
  | some e =>
    let x := s.centry c data e
    if x.inflight then (.flight, s)
    else
      match x.err with
      | .clean => (.hit e, s)
      | .tag => (.miss, (s.raiseCore c 0x0107 evPoisoned 0 (cacheDetail c data e x.dirty)).setCentry c data e {})
      | .single w =>
        if w0 ≤ w.val ∧ w.val ≤ w1 then
          (.hit e, (s.raiseCore c 0x0105 evCorrected (la * 256 + w.val * 8) (cacheDetail c data e false)).setCentry
            c data e { x with err := .clean })
        else (.hit e, s)
      | .double w =>
        if w0 ≤ w.val ∧ w.val ≤ w1 then
          let s1 := s.raiseCore c 0x0106 evPoisoned (la * 256 + w.val * 8) (cacheDetail c data e x.dirty)
          (.bad, if x.dirty then s1 else s1.setCentry c data e {})
        else (.hit e, s)

/-! ### Values -/

/-- A loaded value of `size` bytes, sign- or zero-extended (R93). -/
def loadVal (size : Nat) (sx : Bool) (bs : List Byte) : Word :=
  let v := ofBytes (bs.take size)
  if sx then sx64 (8 * size) v else BitVec.ofNat 64 v

/-- The pending load takes its value. -/
def Pend.resolve (p : Pend) (v : Word) : Pend :=
  { p with src := .ready, writes := p.writes.map (fun w => match w with
      | .g r _ => .g r v
      | y => y) }

/-- Results of a thread that have become due are written, and an entry that waited for them takes place. -/
def State.settle (s : State) (t : Nat) : State := (s.updThr t Thread.commit).tryEnter t

/-! ### Fills -/

/-- Bytes and poison marks of the line that a fill returns. -/
def State.filled (s : State) (x : CEntry) : List (List Byte × Bool) :=
  match x.remote with
  | some l => l
  | none =>
    let a := localOf (x.la * 256)
    (List.range 8).map (fun i => (s.bytes (a + 32 * i) 32, s.bad (a / 32 + i) x.tag))

/-- Give the loads of a thread that joined line `la` their values; a load of a poisoned granule takes DATA_ERR
(R507, Table EXC-1). A string chunk that waits for a line which a poisoned fill does not allocate takes its bytes. -/
def State.fillThread (s : State) (t la : Nat) (d : BitVec 2048) (stores : List LineStore) (poison : List Bool) : State :=
  let th := s.thr t
  let isBad (p : Pend) : Bool := match p.src with
    | .line l off _ _ _ => decide (l = la) && poison.getD (off / 32) false
    | _ => false
  let give (p : Pend) : Pend := match p.src with
    | .line l off size sx after =>
      if l = la then p.resolve (loadVal size sx (lineBytes (lineStores d (stores.take after)) off size)) else p
    | _ => p
  let far (x : FarRead) : FarRead :=
    if x.desc ∧ x.addr = la * 256 ∧ poison.any id = true then { x with answer := some (lineBytes d 0 256, poison, 0) } else x
  let th1 : Thread := { th with pend := (th.pend.filter (fun p => !isBad p)).map give, far := th.far.map far }
  let s1 := s.setThr t th1
  match th.pend.find? isBad with
  | none => s1.settle t
  | some p =>
    s1.takeExc t { code := exDataErr, xaddr := p.va &&& ~~~7#64 } p.pos

/-- A thread whose fetch joined a poisoned fill: FETCH_ERR, or its clean word (R507). -/
def State.fillFetch (s : State) (t : Nat) (pc : Word) (poison : List Bool) : State :=
  let th := s.thr t
  if th.st = .running ∧ th.pc = pc then
    if poison.getD (th.pc.toNat % 256 / 32) false then
      s.takeExc t { code := exFetchErr, xaddr := th.pc } th.pos
    else s.setThr t { th with ifetch := some th.pc }
  else s

/-- Misses that waited for an entry try again, in order (R70). -/
def State.retryMisses (s : State) (c : Nat) (data : Bool) : State :=
  let q := (s.core c).misses data
  q.foldl (fun s m => s.want c data m) (s.updCore c (fun k => k.setMisses data []))

/-- A fill returns (R70, R507): entry `e` takes the line, or nothing when a granule is poisoned. `err` is what
the entry's check bits will show. -/
def State.fill (s : State) (c : Nat) (data : Bool) (e : Nat) (err : CacheErr) : State :=
  let x := s.centry c data e
  if !x.inflight || (x.awaits && x.remote.isNone) then s
  else
    let got := s.filled x
    let poison := got.map (·.2)
    let d : BitVec 2048 := BitVec.ofNat 2048 (ofBytes (got.flatMap (·.1)))
    let s0 := if x.awaits then s else
      match s.place (localOf (x.la * 256)) with
      | .lpddr => s
      | _ => s.touch (localOf (x.la * 256)) 256 { cls := .bulk, tag := x.tag }
    let s1 :=
      if poison.any id then
        x.stores.foldl (fun s w => s.put (.store w.thread) (x.la * 256 + w.off) w.bytes
          { cls := w.cls, tag := w.tag, np := w.np, eng := coreEngine c }) (s0.setCentry c data e {})
      else s0.setCentry c data e {
        valid := true, la := x.la, dirty := !x.stores.isEmpty, data := lineStores d x.stores,
        tag := (x.stores.getLast?.map (·.tag)).getD x.tag, np := (x.stores.getLast?.map (·.np)).getD x.np, err := err }
    let s2 := if data then
        (List.range 16).foldl (fun s i => s.fillThread (c * 16 + i) x.la d x.stores poison) s1
      else if poison.any id then x.fetchers.foldl (fun s f => s.fillFetch f.1 f.2 poison) s1
      else s1
    s2.retryMisses c data

end Sys2Proof.Machine
end

