-- ==== Sys2Proof/Machine/Far.lean ====
section
/-! DEFINITION. Answers to a thread's reads of other modules and of the host window (R381, R429, R145). -/

namespace Sys2Proof.Machine

/-- An answer: bytes, poison by granule of 32 bytes, and 0 or the cause of a failure. -/
abbrev Answer := List Byte × List Bool × Nat

/-- Byte `o` of an answer is poisoned. -/
def Answer.bad (a : Answer) (o : Nat) : Bool := decide (a.2.2 ≠ 0) || a.2.1.getD (o / 32) false

/-- Put one byte into the register writes of a vector load: register `r` below 32, or predicate `r - 32`. -/
def RegWrite.putByte (r b : Nat) (v : Byte) (bad : Bool) : RegWrite → RegWrite
  | .v q x =>
    if q = r then .v q { data := putFld x.data (8 * b + 7) (8 * b) v.toNat, poison := if bad then putBit x.poison (b / 32) true else x.poison }
    else .v q x
  | .p q x =>
    if q + 32 = r then .p q { bits := putFld x.bits (8 * b + 7) (8 * b) v.toNat, poison := if bad then putBit x.poison (b / 4) true else x.poison }
    else .p q x
  | w => w

/-- The bytes of a part arrive in a vector load. -/
def Pend.arrive (p : Pend) (f : FarPart) (a : Answer) : Pend :=
  let w := f.moves.foldl (fun w m => w.map (RegWrite.putByte m.2.1 m.2.2 (a.1.getD m.1 0) (a.bad m.1))) p.writes
  { p with writes := w }

/-- The part of a pending result that an answer with this tag serves. -/
def Source.part (src : Source) (host : Bool) (tag : Nat) : Option FarPart :=
  match src with
  | .vmem l => l.find? (fun f => decide (f.tag = tag) && decide (f.host = host))
  | _ => none

/-- The scalar load that an answer with this tag serves: offset, size, sign extension. -/
def Source.scalarAt (src : Source) (host : Bool) (tag : Nat) : Option (Nat × Nat × Bool) :=
  match src with
  | .remote x off size sx => if !host && decide (x = tag) then some (off, size, sx) else none
  | .host x size sx => if host && decide (x = tag) then some (0, size, sx) else none
  | _ => none

/-- A scalar load takes its answer: its value, or DATA_ERR (R381, R429, Table EXC-1). -/
def State.scalarAnswer (s : State) (t : Nat) (p : Pend) (off size : Nat) (sx : Bool) (a : Answer) : State :=
  let th := s.thr t
  if a.bad off then
    (s.setThr t { th with pend := th.pend.erase p }).takeExc t { code := exDataErr, xaddr := p.va &&& ~~~7#64 } p.pos
  else
    (s.setThr t { th with pend := th.pend.map (fun q =>
      if q = p then q.resolve (loadVal size sx (a.1.drop off)) else q) }).settle t

/-- A part of a vector load arrives; the load is formed when no part is missing (R145, R168). -/
def State.vectorAnswer (s : State) (t : Nat) (p : Pend) (f : FarPart) (a : Answer) : State :=
  let th := s.thr t
  let step (q : Pend) : Pend :=
    if q = p then
      match q.src with
      | .vmem l =>
        let rest := l.erase f
        { q.arrive f a with src := if rest.isEmpty then .ready else .vmem rest }
      | _ => q
    else q
  (s.setThr t { th with pend := th.pend.map step }).settle t

/-- An answer for thread `t` arrives: a pending load takes it, or the string chunk or the
fetch that asked for address `addr`. -/
def State.threadAnswer (s : State) (t : Nat) (host : Bool) (tag addr : Nat) (a : Answer) : State :=
  let th := s.thr t
  match th.pend.find? (fun p => (p.src.scalarAt host tag).isSome) with
  | some p => (match p.src.scalarAt host tag with
      | some (off, size, sx) => s.scalarAnswer t p off size sx a
      | none => s)
  | none =>
    match th.pend.find? (fun p => (p.src.part host tag).isSome) with
    | some p => (match p.src.part host tag with
        | some f => s.vectorAnswer t p f a
        | none => s)
    | none =>
      let give (f : FarRead) : FarRead :=
        if f.addr = addr ∧ f.desc = false ∧ f.answer.isNone = true then { f with answer := some a } else f
      s.setThr t { th with far := th.far.map give, ifar := th.ifar.map give }

/-- An answer to a Peloton tree's read of the 64-byte block at a global address. -/
def State.pelAnswer (s : State) (t addr : Nat) (a : Answer) : State :=
  s.updTree t (fun w => { w with far := w.far.map (fun f =>
    if f.addr = addr ∧ f.answer.isNone = true then { f with answer := some a } else f) })

/-! ### Bursts that fail -/

/-- A byte of a register write is poisoned. -/
def RegWrite.mark (r b : Nat) : RegWrite → RegWrite
  | .v q x => .v q (if q = r then { x with poison := putBit x.poison (b / 32) true } else x)
  | .p q x => .p q (if q + 32 = r then { x with poison := putBit x.poison (b / 4) true } else x)
  | w => w

/-- Local granule `g` reaches the loads of a thread that wait for it poisoned: DATA_ERR for a scalar one, poison marks for a
vector one (Table EXC-1, R145). -/
def State.poisonLoads (s : State) (t g : Nat) : State :=
  let th := s.thr t
  let waits (p : Pend) : Bool := match p.src with
    | .load => p.grans.any (fun q => decide (q.1 = g))
    | .vmem _ => p.grans.any (fun q => decide (q.1 = g))
    | _ => false
  let scalar (p : Pend) : Bool := waits p && p.writes.any (fun w => match w with
    | .g _ _ => true
    | _ => false)
  let mark (p : Pend) : Pend :=
    if waits p then
      let l := (p.grans.filter (fun q => decide (q.1 = g))).flatMap (·.2)
      { p with writes := l.foldl (fun w m => w.map (RegWrite.mark m.1 m.2)) p.writes }
    else p
  match th.pend.find? scalar with
  | none => if th.pend.any waits then s.setThr t { th with pend := th.pend.map mark } else s
  | some p => (s.setThr t { th with pend := (th.pend.filter (fun q => !scalar q)).map mark }).takeExc t
      { code := exDataErr, xaddr := p.va &&& ~~~7#64 } p.pos

end Sys2Proof.Machine
end

