-- ==== Sys2Proof/Machine/Flags.lean ====
section
/-! DEFINITION. The scalar operations of Table ISA-3 and the flags they write (R87). -/

namespace Sys2Proof.Machine

/-- The two-operand ALU operations, in the order of opcodes 0x00 to 0x0D. -/
inductive Alu where
  | add | sub | and | or | xor | andn | sll | srl | sra | ror | min | max | minu | maxu
  deriving DecidableEq, Repr

/-- The result of an operation (R88). -/
def Alu.result (op : Alu) (a b : Word) : Word :=
  let k := b.toNat % 64
  match op with
  | .add => a + b
  | .sub => a - b
  | .and => a &&& b
  | .or => a ||| b
  | .xor => a ^^^ b
  | .andn => a &&& ~~~b
  | .sll => a <<< k
  | .srl => a >>> k
  | .sra => a.sshiftRight k
  | .ror => a.rotateRight k
  | .min => if b.slt a then b else a
  | .max => if a.slt b then b else a
  | .minu => if b.ult a then b else a
  | .maxu => if a.ult b then b else a

/-- Carry: out of bit 63 for ADD, borrow for SUB, else clear (R87). -/
def Alu.carry (op : Alu) (a b : Word) : Bool :=
  match op with
  | .add => decide (a.toNat + b.toNat ≥ 2 ^ 64)
  | .sub => a.ult b
  | _ => false

/-- Signed overflow for ADD and SUB, else clear (R87). -/
def Alu.ovf (op : Alu) (a b : Word) : Bool :=
  match op with
  | .add => decide ((a + b).toInt ≠ a.toInt + b.toInt)
  | .sub => decide ((a - b).toInt ≠ a.toInt - b.toInt)
  | _ => false

/-- ST with N, Z, C, V written (R87). -/
def stNzcv (st : Word) (n z c v : Bool) : Word :=
  putBit (putBit (putBit (putBit st 3 n) 2 z) 1 c) 0 v

/-- ST after an operation that writes the flags (R87). -/
def Alu.flags (op : Alu) (a b st : Word) : Word :=
  let r := op.result a b
  stNzcv st (bit r 63) (decide (r = 0)) (op.carry a b) (op.ovf a b)

/-- ST with F written. -/
def stPutF (st : Word) (b : Bool) : Word := putBit st 4 b

/-- IMM as the operation extends it (R88): signed for ADDI, SUBI, MINI, MAXI, else unsigned. -/
def Alu.imm (op : Alu) (v : Nat) : Word :=
  match op with
  | .add => sx64 40 v
  | .sub => sx64 40 v
  | .min => sx64 40 v
  | .max => sx64 40 v
  | _ => BitVec.ofNat 64 v

/-- Number of set bits. -/
def popCount (w : Word) : Nat := (List.range 64).countP (fun i => bit w i)

end Sys2Proof.Machine
end

