-- ==== Sys2Proof/Machine/Issue.lean ====
section
/-! DEFINITION. Issuing one instruction of a thread: when it may issue (R50, R328, R330), its fetch, the checks that
apply whatever its COND (R81, R100, R104), and its retirement (R85, R89, R99, R103). -/

namespace Sys2Proof.Machine

/-- What an instruction does with the state once it has issued. -/
inductive Act where
  /-- done: the next instruction follows -/
  | retire (s : State)
  /-- an MTS to ST: the value takes effect after the shadow instruction -/
  | shadow (s : State) (v : Word)
  /-- a branch with its target, `none` when not taken; its delay slot follows -/
  | branch (s : State) (target : Option Word)
  /-- done, and the stream goes on at an address without a delay slot -/
  | goto (s : State) (pc : Word)
  /-- as `goto`, and a pending MTS value is discarded or has been used -/
  | leap (s : State) (pc : Word)
  /-- done, and a delivery point of R127: a pending arithmetic exception is taken after it -/
  | deliver (s : State)
  /-- a part of the instruction is done and it goes on at its next part -/
  | part (s : State)
  /-- a synchronous exception; the state holds only what Table EXC-3 and R306 leave -/
  | exc (s : State) (e : Exc)
  /-- not issued: a wait condition holds -/
  | hold (s : State)

/-- Class of a thread (R25). -/
def Thread.cls (th : Thread) : Cls := th.pass.cls

/-- The evaluation window excludes the thread from issue (R328, R330). -/
def State.gated (s : State) (t : Nat) : Bool := s.gatedCls (s.thr t).cls

/-- The thread's next instruction has issued and has parts to come, which a window does not stop (R328). -/
def Thread.underWay (th : Thread) : Bool := th.strBusy || !th.far.isEmpty

/-- The core Bell has latched a source for this thread (R138). -/
def State.latchedFor (s : State) (t : Nat) : Bool :=
  let b := (s.core (coreOf t)).bell
  b.latched.isSome && decide (b.ithr = t % 16)

/-- Tile work of the thread that has not completed: array operations and tile moves (R195). -/
def State.tileWork (s : State) (t : Nat) : Bool :=
  let k := s.core (coreOf t)
  k.moves.any (fun m => decide (m.thread = t) && !m.open_ && decide (m.kind ≠ 4))
    || k.arrays.any (fun a => a.2.tail.any (fun o => decide (o.thread = t)) || (match a.2.busy with
          | some o => decide (o.thread = t)
          | none => false)
        || (match a.2.waiting with
          | some o => decide (o.thread = t)
          | none => false))

/-- The PREC wait condition (Table CORE-3, R128): an arithmetic or tile instruction of the thread has not completed. -/
def State.precWait (s : State) (t : Nat) : Bool :=
  stPm (s.thr t).sr.st &&
    (s.tileWork t || (s.thr t).pend.any (fun p => decide (p.src = .unit)))

/-- A boundary at which R135 and R191 let an interrupt or a halt in: no open move of a CAD-class thread or of a lent
tile. -/
def State.mayStop (s : State) (t : Nat) : Bool :=
  let k := s.core (coreOf t)
  (s.thr t).atBoundary
    && k.moves.all (fun m => !(decide (m.thread = t) && m.open_
        && (decide ((s.thr t).cls = .cad) || bit (kget {} k.tiles m.tile).attr 8)))

/-- A requested HALT stops the thread here (R46, R92). -/
def State.haltsHere (s : State) (t : Nat) : Bool := (s.thr t).haltReq && s.mayStop t

/-- The clock of a thread's core runs (R31, R32). -/
def State.clocked (s : State) (t : Nat) : Bool := !s.clkOff.contains (dieOf (coreOf t))

/-- The thread may issue: it runs, no exception or interrupt entry is under way for it, no HALT stops it here, no
WAIT of it is in progress, its window is open, and neither LOAD nor PREC holds (R46, R50, R92, R138, R328, R330). -/
def State.mayIssue (s : State) (t : Nat) : Bool :=
  let th := s.thr t
  decide (th.st = .running) && th.excWait.isNone && th.wait.isNone && !s.latchedFor t && (!s.gated t || th.underWay)
    && !th.loadWait && !s.precWait t && !s.haltsHere t && s.clocked t

/-- Outcome of a fetch. -/
inductive Fetch where
  | ready
  | hold
  | exc (e : Exc)
  deriving DecidableEq, Repr

/-- A fetch outside the module: its request is sent once; a poisoned or failed answer is FETCH_ERR (R317, R381). -/
def State.fetchFar (s : State) (t addr o : Nat) (send : State → State) : Fetch × State :=
  let th := s.thr t
  let ask : Fetch × State := (.hold, send (s.updThr t (fun h => { h with ifar := some { addr := addr, n := 8 } })))
  match th.ifar with
  | none => ask
  | some f =>
    if f.addr ≠ addr then ask
    else
      match f.answer with
      | none => (.hold, s)
      | some a =>
        if Answer.bad a o then (.exc { code := exFetchErr, xaddr := th.pc }, s)
        else (.ready, s)

/-- A fetch past the instruction cache (an instruction that is held is fetched again, log 61), of a non-cacheable page or outside memory (R67, R298, R315, R317). -/
def State.fetchPast (s : State) (t : Nat) (leaf : Word) (pa : Nat) : Fetch × State :=
  let th := s.thr t
  let c := coreOf t
  let acs : Acs := { cls := th.cls, tag := leafTag leaf, np := leafNp leaf, eng := coreEngine c }
  let a := localOf pa
  if !s.isLocal pa then s.fetchFar t (pa / 64 * 64) (pa % 64) (fun s => s.remoteRead (.load t) pa 8 acs)
  else if s.isMem a then
    let s1 := s.touch a 8 acs
    if s.anyBad a 8 acs.tag then (.exc { code := exFetchErr, xaddr := th.pc }, s1)
    else (.ready, s1)
  else
    match s.place a with
    | .host off =>
      if !s.host.bme then (.exc { code := exFetchErr, xaddr := th.pc }, s.hostBme off)
      else if h : t < 4608 then
        s.fetchFar t (0x40000000000 + off) 0 (fun s => s.hostLoad (.thread ⟨t, h⟩) off 8)
      else (.hold, s)
    | _ => (.ready, s)

/-- Fetch the next instruction of a thread (R304, Table EXC-1, IFILL of Table CORE-3). A part of an instruction
that is under way needs no fetch. -/
def State.fetch (s : State) (t : Nat) : Fetch × State :=
  let th := s.thr t
  let c := coreOf t
  if th.strBusy || decide (th.ifetch = some th.pc) then (.ready, s)
  else
    let p := (s.core c).part
    let pr := stPriv th.sr.st
    let s1 := s.xlatNote (.core c) p pr .fetch th.pc.toNat { cls := th.cls, eng := coreEngine c }
    match s.xlat (.core c) p pr .fetch th.pc.toNat with
    | .fail r l =>
      (.exc { code := exFetchXlat, xaddr := th.pc }, s1.updThr t (fun h => { h with xreason := xreason th.pc r l }))
    | .ok leaf _ pa =>
      if leafNc leaf || (s.isLocal pa && !s.isMem (localOf pa)) then s1.fetchPast t leaf pa
      else
        let la := pa / 256
        let w := pa % 256 / 8
        let r := s1.lookup c false la w w
        match r.1 with
        | .hit _ => (.ready, r.2)
        | .bad => (.exc { code := exFetchErr, xaddr := th.pc }, r.2)
        | _ =>
          (.hold, r.2.demand c false
            { la := la, cls := th.cls, prefetch := false, store := none, fetcher := some (t, th.pc)
              tag := leafTag leaf, np := leafNp leaf })

/-- The instruction stands at LE of a level whose LC is not 0 (R104). -/
def Thread.atLe (th : Thread) : Bool :=
  (decide (th.pc = th.sr.le1) && decide (th.sr.lc1 ≠ 0)) || (decide (th.pc = th.sr.le0) && decide (th.sr.lc0 ≠ 0))

/-- The position makes the instruction illegal (R100, R104). -/
def Thread.posIllegal (th : Thread) (branchLike : Bool) : Bool :=
  (branchLike && (th.delay.isSome || th.atLe)) || (th.delay.isSome && th.atLe)

/-- The loop-back of R103: level 1 is tested before level 0. -/
def Thread.loop0 (th : Thread) : Thread :=
  if th.pc = th.sr.le0 ∧ th.sr.lc0 ≠ 0 then
    let n := th.sr.lc0 - 1
    let th1 : Thread := { th with sr := { th.sr with lc0 := n } }
    if n ≠ 0 then { th1 with pc := th.sr.lb0 } else { th1 with pc := th.pc + 8#64 }
  else { th with pc := th.pc + 8#64 }

def Thread.loopBack (th : Thread) : Thread :=
  if th.pc = th.sr.le1 ∧ th.sr.lc1 ≠ 0 then
    let n := th.sr.lc1 - 1
    let th1 : Thread := { th with sr := { th.sr with lc1 := n } }
    if n ≠ 0 then { th1 with pc := th.sr.lb1 } else th1.loop0
  else th.loop0

/-- The value of an earlier MTS to ST takes effect at the boundary after its shadow instruction (R85). -/
def Thread.unshadow (th : Thread) : Thread :=
  match th.shadow with
  | some v => { th with sr := { th.sr with st := v }, shadow := none }
  | none => th

/-- Retirement in sequence: the instruction counts once, whatever parts it had (R89); the address after a delay slot is
the branch's target, else the loop-back decides. -/
def Thread.retire (th : Thread) : Thread :=
  let th1 := th.age
  let th2 : Thread := match th1.delay with
    | some d => { th1 with pc := d.target, delay := none }
    | none => th1.loopBack
  ({ th2.unshadow with strBusy := false, ifetch := none, ifar := none } : Thread).commit

/-- Retirement of a branch: the delay slot follows (R99). -/
def Thread.takeBranch (th : Thread) (target : Option Word) : Thread :=
  let th1 := th.age
  ({ th1.unshadow with
      pc := th.pc + 8#64, delay := some { branch := th.pc, target := target.getD (th.pc + 16#64) }
      ifetch := none, ifar := none } : Thread).commit

/-- Retirement to an address without a delay slot. -/
def Thread.jump (th : Thread) (pc : Word) : Thread :=
  ({ th.age.unshadow with pc := pc, ifetch := none, ifar := none } : Thread).commit

/-- A delivery point (R127): ARITH is taken when a trapped flag is set and XACT and SKACT are both 0. -/
def State.deliver (s : State) (t : Nat) : State :=
  let th := s.thr t
  if th.arithPending && !stXact th.sr.st && !stSkact th.sr.st then
    s.takeExc t { code := exArith, xaddr := 0 } th.pos
  else s

/-- Finish an instruction (R85, R89, R99, R103, R108, R120). `q` is the position it issued at, `s0` the state its
fetch left. -/
def State.finish (t : Nat) (q : Pos) : Act → State
  | .retire s => s.updThr t Thread.retire
  | .shadow s v => s.updThr t (fun th => { th.retire with shadow := some v })
  | .branch s tg => s.updThr t (fun th => th.takeBranch tg)
  | .goto s pc => s.updThr t (fun th => th.jump pc)
  | .leap s pc => s.updThr t (fun th => ({ th with shadow := none } : Thread).jump pc)
  | .deliver s => (s.updThr t Thread.retire).deliver t
  | .part s => s.updThr t (fun th => { th with strBusy := true, ifetch := none, ifar := none })
  | .exc s e => s.takeExc t e q
  | .hold s => s

/-- Issue an instruction of thread `t`: `legal` are its encoding checks, `branchLike` marks the instructions of
R100, `skip` is what it leaves when its COND does not hold, `body` its effect. A command for a thread that may
not issue changes nothing (log 5). -/
def State.issueWith (s : State) (t : Nat) (cond : BitVec 4) (legal branchLike : Bool) (skip body : State → Act) : State :=
  if !s.mayIssue t then s
  else
    let q := (s.thr t).pos
    let r := s.fetch t
    match r.1 with
    | .hold => r.2
    | .exc e => r.2.takeExc t e q
    | .ready =>
      if !legal || decide (cond = 15#4) || (s.thr t).posIllegal branchLike then
        r.2.takeExc t { code := exIllegal, xaddr := 0 } q
      else if condHolds cond (s.thr t).sr.st then State.finish t q (body r.2)
      else State.finish t q (skip r.2)

/-- Issue an ordinary instruction. -/
def State.issue (s : State) (t : Nat) (cond : BitVec 4) (legal : Bool) (body : State → Act) : State :=
  s.issueWith t cond legal false Act.retire body

/-- An instruction whose effect is on the thread alone. -/
def State.issueThr (s : State) (t : Nat) (cond : BitVec 4) (legal : Bool) (f : Thread → Thread) : State :=
  s.issue t cond legal (fun s => .retire (s.updThr t f))

/-- Append a pending result that becomes visible before the `n`-th following instruction (R90, R91). -/
def Thread.pendBy (th : Thread) (n : Nat) (src : Source) (w : List RegWrite) : Thread :=
  { th with pend := th.pend ++ [{ left := n, src := src, writes := w, pos := th.pos }] }

/-- Translate a data access of thread `t`: the outcome, and the state with what the walk left and the reason of a
failure (R304 to R306). -/
def State.dataXlat (s : State) (t : Nat) (k : Access) (va : Word) : XRes × State :=
  let th := s.thr t
  let c := coreOf t
  let p := (s.core c).part
  let pr := stPriv th.sr.st
  let s1 := s.xlatNote (.core c) p pr k va.toNat { cls := th.cls, eng := coreEngine c }
  match s.xlat (.core c) p pr k va.toNat with
  | .fail r l => (.fail r l, s1.updThr t (fun h => { h with xreason := xreason va r l }))
  | x => (x, s1)

/-- An exception of the instruction of thread `t`. -/
def excOf (code : Nat) (xaddr : Word := 0) : Exc := { code := code, xaddr := xaddr }

/-- DATA_ERR at the 8-byte word of an address (Table EXC-1). -/
def dataErr (va : Word) : Exc := excOf exDataErr (va &&& ~~~7#64)

/-- The class, tag and NP of a thread's access through a leaf. -/
def State.acsOf (s : State) (t : Nat) (leaf : Word) : Acs := {
  cls := (s.thr t).cls, tag := leafTag leaf, np := leafNp leaf, eng := coreEngine (coreOf t) }

end Sys2Proof.Machine
end

