-- ==== Sys2Proof/Machine/Scalar.lean ====
section
/-! DEFINITION. Integer arithmetic and logic, products, moves and special registers (R82 to R90). -/

namespace Sys2Proof.Machine

/-! ### ALU operations -/

/-- RD = op a b, with the flags when `sf` (R87, R88). -/
def Thread.alu (th : Thread) (op : Alu) (rd : Nat) (a b : Word) (sf : Bool) : Thread :=
  let th1 := th.wg rd (op.result a b)
  if sf then { th1 with sr := { th1.sr with st := op.flags a b th1.sr.st } } else th1

/-- A register-form ALU instruction (format R; the reserved field must be 0). -/
def State.aluReg (s : State) (op : Alu) (t : Nat) (cond : BitVec 4) (f : Body) : State :=
  s.issueThr t cond (decide (f.resR = 0)) (fun th => th.alu op f.rd (th.rg f.ra) (th.rg f.rb) f.sfR)

/-- An immediate-form ALU instruction (format I; bit 40 must be 0). -/
def State.aluImm (s : State) (op : Alu) (t : Nat) (cond : BitVec 4) (f : Body) : State :=
  s.issueThr t cond (!f.resI) (fun th => th.alu op f.rd (th.rg f.ra) (op.imm f.immI) f.sfI)

/-- The outcome of a command that always completes. -/
abbrev Res := Host.Outcome State Fault Refusal

/-- ADD (R87, R88). -/
def execAdd (t : ThreadId) (cond : BitVec 4) (f : BitVec 52) (s : State) : Res := .next (s.aluReg .add t.val cond f)
/-- SUB (R87, R88). -/
def execSub (t : ThreadId) (cond : BitVec 4) (f : BitVec 52) (s : State) : Res := .next (s.aluReg .sub t.val cond f)
/-- AND (R87, R88). -/
def execAnd (t : ThreadId) (cond : BitVec 4) (f : BitVec 52) (s : State) : Res := .next (s.aluReg .and t.val cond f)
/-- OR (R87, R88). -/
def execOr (t : ThreadId) (cond : BitVec 4) (f : BitVec 52) (s : State) : Res := .next (s.aluReg .or t.val cond f)
/-- XOR (R87, R88). -/
def execXor (t : ThreadId) (cond : BitVec 4) (f : BitVec 52) (s : State) : Res := .next (s.aluReg .xor t.val cond f)
/-- ANDN (R87, R88). -/
def execAndn (t : ThreadId) (cond : BitVec 4) (f : BitVec 52) (s : State) : Res := .next (s.aluReg .andn t.val cond f)
/-- SLL (R87, R88). -/
def execSll (t : ThreadId) (cond : BitVec 4) (f : BitVec 52) (s : State) : Res := .next (s.aluReg .sll t.val cond f)
/-- SRL (R87, R88). -/
def execSrl (t : ThreadId) (cond : BitVec 4) (f : BitVec 52) (s : State) : Res := .next (s.aluReg .srl t.val cond f)
/-- SRA (R87, R88). -/
def execSra (t : ThreadId) (cond : BitVec 4) (f : BitVec 52) (s : State) : Res := .next (s.aluReg .sra t.val cond f)
/-- ROR (R87, R88). -/
def execRor (t : ThreadId) (cond : BitVec 4) (f : BitVec 52) (s : State) : Res := .next (s.aluReg .ror t.val cond f)
/-- MIN (R87, R88). -/
def execMin (t : ThreadId) (cond : BitVec 4) (f : BitVec 52) (s : State) : Res := .next (s.aluReg .min t.val cond f)
/-- MAX (R87, R88). -/
def execMax (t : ThreadId) (cond : BitVec 4) (f : BitVec 52) (s : State) : Res := .next (s.aluReg .max t.val cond f)
/-- MINU (R87, R88). -/
def execMinu (t : ThreadId) (cond : BitVec 4) (f : BitVec 52) (s : State) : Res := .next (s.aluReg .minu t.val cond f)
/-- MAXU (R87, R88). -/
def execMaxu (t : ThreadId) (cond : BitVec 4) (f : BitVec 52) (s : State) : Res := .next (s.aluReg .maxu t.val cond f)
/-- ADDI form: ADDI (R87, R88). -/
def execAddi (t : ThreadId) (cond : BitVec 4) (f : BitVec 52) (s : State) : Res := .next (s.aluImm .add t.val cond f)
/-- SUBI form: SUBI (R87, R88). -/
def execSubi (t : ThreadId) (cond : BitVec 4) (f : BitVec 52) (s : State) : Res := .next (s.aluImm .sub t.val cond f)
/-- ANDI form: ANDI (R87, R88). -/
def execAndi (t : ThreadId) (cond : BitVec 4) (f : BitVec 52) (s : State) : Res := .next (s.aluImm .and t.val cond f)
/-- ORI form: ORI (R87, R88). -/
def execOri (t : ThreadId) (cond : BitVec 4) (f : BitVec 52) (s : State) : Res := .next (s.aluImm .or t.val cond f)
/-- XORI form: XORI (R87, R88). -/
def execXori (t : ThreadId) (cond : BitVec 4) (f : BitVec 52) (s : State) : Res := .next (s.aluImm .xor t.val cond f)
/-- ANDNI form: ANDNI (R87, R88). -/
def execAndni (t : ThreadId) (cond : BitVec 4) (f : BitVec 52) (s : State) : Res := .next (s.aluImm .andn t.val cond f)
/-- SLLI form: SLLI (R87, R88). -/
def execSlli (t : ThreadId) (cond : BitVec 4) (f : BitVec 52) (s : State) : Res := .next (s.aluImm .sll t.val cond f)
/-- SRLI form: SRLI (R87, R88). -/
def execSrli (t : ThreadId) (cond : BitVec 4) (f : BitVec 52) (s : State) : Res := .next (s.aluImm .srl t.val cond f)
/-- SRAI form: SRAI (R87, R88). -/
def execSrai (t : ThreadId) (cond : BitVec 4) (f : BitVec 52) (s : State) : Res := .next (s.aluImm .sra t.val cond f)
/-- RORI form: RORI (R87, R88). -/
def execRori (t : ThreadId) (cond : BitVec 4) (f : BitVec 52) (s : State) : Res := .next (s.aluImm .ror t.val cond f)
/-- MINI form: MINI (R87, R88). -/
def execMini (t : ThreadId) (cond : BitVec 4) (f : BitVec 52) (s : State) : Res := .next (s.aluImm .min t.val cond f)
/-- MAXI form: MAXI (R87, R88). -/
def execMaxi (t : ThreadId) (cond : BitVec 4) (f : BitVec 52) (s : State) : Res := .next (s.aluImm .max t.val cond f)
/-- MINUI form: MINUI (R87, R88). -/
def execMinui (t : ThreadId) (cond : BitVec 4) (f : BitVec 52) (s : State) : Res := .next (s.aluImm .minu t.val cond f)
/-- MAXUI form: MAXUI (R87, R88). -/
def execMaxui (t : ThreadId) (cond : BitVec 4) (f : BitVec 52) (s : State) : Res := .next (s.aluImm .maxu t.val cond f)

/-! ### Compare, population count, moves -/

/-- The flags of a - b always (R87). -/
def Thread.compare (th : Thread) (a b : Word) : Thread :=
  { th with sr := { th.sr with st := Alu.flags .sub a b th.sr.st } }

/-- CMP (R87): RD must be 0. -/
def execCmp (t : ThreadId) (cond : BitVec 4) (f : BitVec 52) (s : State) : Res :=
  .next (s.issueThr t.val cond (decide (Body.resR f = 0) && decide (Body.rd f = 0))
    (fun th => th.compare (th.rg (Body.ra f)) (th.rg (Body.rb f))))

/-- CMPI (R87, R88). -/
def execCmpi (t : ThreadId) (cond : BitVec 4) (f : BitVec 52) (s : State) : Res :=
  .next (s.issueThr t.val cond (!Body.resI f)
    (fun th => th.compare (th.rg (Body.ra f)) (sx64 40 (Body.immI f))))

/-- RD = number of set bits, with the flags when `sf`. -/
def Thread.popc (th : Thread) (rd : Nat) (a : Word) (sf : Bool) : Thread :=
  let r : Word := BitVec.ofNat 64 (popCount a)
  let th1 := th.wg rd r
  if sf then { th1 with sr := { th1.sr with st := stNzcv th1.sr.st (bit r 63) (decide (r = 0)) false false } } else th1

/-- POPC (R88): RB must be 0. -/
def execPopc (t : ThreadId) (cond : BitVec 4) (f : BitVec 52) (s : State) : Res :=
  .next (s.issueThr t.val cond (decide (Body.resR f = 0) && decide (Body.rb f = 0))
    (fun th => th.popc (Body.rd f) (th.rg (Body.ra f)) (Body.sfR f)))

/-- MOVI (R88). -/
def execMovi (t : ThreadId) (cond : BitVec 4) (f : BitVec 52) (s : State) : Res :=
  .next (s.issueThr t.val cond true (fun th => th.wg (Body.rd f) (sx64 47 (Body.immL f))))

/-- MOVHI (R88): IMM[46:32] must be 0. -/
def execMovhi (t : ThreadId) (cond : BitVec 4) (f : BitVec 52) (s : State) : Res :=
  .next (s.issueThr t.val cond (decide (fld f 46 32 = 0))
    (fun th => th.wg (Body.rd f) (putFld (th.rg (Body.rd f)) 63 32 (fld f 31 0))))

/-! ### Products -/

/-- The product as a number modulo 2^128. -/
def product (sgn : Bool) (a b : Word) : BitVec 128 :=
  if sgn then BitVec.ofInt 128 (a.toInt * b.toInt) else BitVec.ofNat 128 (a.toNat * b.toNat)

/-- A product becomes visible before the fourth following instruction (R90). -/
def Thread.mulInto (th : Thread) (sgn : Bool) (a b : Word) : Thread :=
  let p := product sgn a b
  th.pendBy 4 .ready [.prod (BitVec.ofNat 64 (fld p 127 64)) (BitVec.ofNat 64 (fld p 63 0))]

/-- RD and SF must be 0. -/
def Body.mulOk (f : Body) : Bool := decide (f.resR = 0) && decide (f.rd = 0) && !f.sfR

/-- MUL, signed (R88, R90). -/
def execMul (t : ThreadId) (cond : BitVec 4) (f : BitVec 52) (s : State) : Res :=
  .next (s.issueThr t.val cond (Body.mulOk f) (fun th => th.mulInto true (th.rg (Body.ra f)) (th.rg (Body.rb f))))

/-- MULH, unsigned (R88, R90). -/
def execMulh (t : ThreadId) (cond : BitVec 4) (f : BitVec 52) (s : State) : Res :=
  .next (s.issueThr t.val cond (Body.mulOk f) (fun th => th.mulInto false (th.rg (Body.ra f)) (th.rg (Body.rb f))))

/-! ### Special registers -/

/-- Read special register `sn` of thread `t` (Table ISA-2). -/
def Thread.readSr (th : Thread) (t sn : Nat) : Word :=
  match sn with
  | 0 => th.sr.st
  | 1 => th.sr.prdHi
  | 2 => th.sr.prdLo
  | 3 => th.sr.lb0
  | 4 => th.sr.le0
  | 5 => th.sr.lc0.zeroExtend 64
  | 6 => th.sr.lb1
  | 7 => th.sr.le1
  | 8 => th.sr.lc1.zeroExtend 64
  | 9 => th.sr.xpc
  | 10 => th.sr.xst
  | 11 => th.sr.xcause
  | 12 => th.sr.xaddr
  | 13 => th.sr.spc
  | 14 => th.sr.sst
  | 15 => th.sr.scause
  | 16 => th.sr.skidSp
  | 17 => th.sr.entry
  | 18 => th.sr.tvec
  | 19 => th.sr.tsr.zeroExtend 64
  | 20 => BitVec.ofNat 64 t
  | _ => 0

/-- Write a special register other than ST (Table ISA-2, R122). An S write to TID is ignored; the fields of XCAUSE and SCAUSE
are RO, so that a write is ignored too (R12). -/
def SRegs.write (r : SRegs) (sn : Nat) (v : Word) : SRegs :=
  match sn with
  | 1 => { r with prdHi := v }
  | 2 => { r with prdLo := v }
  | 3 => { r with lb0 := v }
  | 4 => { r with le0 := v }
  | 5 => { r with lc0 := v.truncate 32 }
  | 6 => { r with lb1 := v }
  | 7 => { r with le1 := v }
  | 8 => { r with lc1 := v.truncate 32 }
  | 9 => { r with xpc := v }
  | 10 => { r with xst := v }
  | 12 => { r with xaddr := v }
  | 13 => { r with spc := v }
  | 14 => { r with sst := v }
  | 16 => { r with skidSp := v }
  | 17 => { r with entry := v &&& ~~~7#64 }
  | 18 => { r with tvec := v &&& ~~~0xFFF#64 }
  | 19 => { r with tsr := v.truncate 5 }
  | _ => r

/-- Registers 9 to 18 are barred at U (Table ISA-2). -/
def srBarred (sn : Nat) : Bool := decide (9 ≤ sn) && decide (sn ≤ 18)

/-- MFS (R83). -/
def execMfs (t : ThreadId) (cond : BitVec 4) (f : BitVec 52) (s : State) : Res :=
  .next (s.issue t.val cond (decide (Body.resR f = 0) && decide (Body.rb f ≤ 20)) (fun s =>
    let th := s.thr t.val
    if stPriv th.sr.st = 0 ∧ srBarred (Body.rb f) then .exc s (excOf exPriv)
    else .retire (s.setThr t.val (th.wg (Body.rd f) (th.readSr t.val (Body.rb f))))))

/-- MTS (R83, R85, R117). -/
def execMts (t : ThreadId) (cond : BitVec 4) (f : BitVec 52) (s : State) : Res :=
  .next (s.issue t.val cond (decide (Body.resR f = 0) && decide (Body.rb f ≤ 20)) (fun s =>
    let th := s.thr t.val
    let v := th.rg (Body.ra f)
    let sn := Body.rb f
    if stPriv th.sr.st = 0 ∧ (srBarred sn ∨ sn = 20) then .exc s (excOf exPriv)
    else if sn = 0 then .shadow s (stMerge th.sr.st v)
    else .retire (s.setThr t.val { th with sr := th.sr.write sn v })))

end Sys2Proof.Machine
end

