-- ==== Sys2Proof/Machine/Sema.lean ====
section
/-! DEFINITION. Semaphores (R111 to R114, R506): WAIT and what happens to it, SIG, SEMRD, SEMSET, the service of a
semaphore, and FENCE (R96). -/

namespace Sys2Proof.Machine

/-! ### Requests -/

def SemAsk.isSignal : SemAsk → Bool
  | .signal _ => true
  | _ => false
def SemAsk.isTake : SemAsk → Bool
  | .take _ => true
  | _ => false
def SemAsk.isRead : SemAsk → Bool
  | .read => true
  | _ => false
def SemAsk.value : SemAsk → Nat
  | .signal v => v
  | .take v => v
  | .read => 0

/-- Send a request to a semaphore. -/
def State.semSend (s : State) (r : SemReq) : State := { s with semQ := s.semQ ++ [r] }

/-- Remote writes of the thread, and write-backs of its core, that await their acknowledgment (R379). -/
def State.remoteWrites (s : State) (t : Nat) : List Nat :=
  (s.remotes.filter (fun p => decide (p.2.kind = .store t) || decide (p.2.kind = .wback (coreOf t)))).map (·.1)

/-- Signal a semaphore from a unit: `who` as Table ERR-4 codes the signaller. -/
def State.signal (s : State) (who sem v : Nat) (behind : List Nat := []) : State :=
  s.semSend { sem := sem, who := who, ask := .signal v, behind := behind }

/-! ### WAIT -/

/-- The timeout of a WAIT in cycles; all ones is none (R111). -/
def Body.timeout (f : Body) (th : Thread) : Option Nat :=
  if f.rt = 0 then (if f.timm = 2 ^ 17 - 1 then none else some f.timm)
  else
    let v := (th.rg f.rt).toNat % 2 ^ 48
    if v = 2 ^ 48 - 1 then none else some v

/-- WAIT retires with F. -/
def Thread.endWait (th : Thread) (b : Bool) : Thread :=
  { th with wait := none, sr := { th.sr with st := stPutF th.sr.st b } }

/-- Cycles of the die's CCLK since a WAIT issued (Table CLK-4). -/
def State.waited (s : State) (t : Nat) (w : WaitRec) : Nat := (s.count (dieOf (coreOf t)) - w.at_).toNat

/-- The timeout of a WAIT has passed: cycle T was the last that counts (R39, Table CLK-4). -/
def State.timedOut (s : State) (t : Nat) (w : WaitRec) : Bool :=
  match w.limit with
  | some n => decide (n < s.waited t w)
  | none => false

/-- The condition of a WAIT is true where the core sees it: the take request leaves (R112). -/
def State.sendTake (s : State) (t : Nat) (w : WaitRec) : State :=
  (s.updThr t (fun th => { th with wait := some { w with sent := true, expired := w.expired || decide (w.limit = some 0) } })).semSend
    { sem := w.sem, who := t, ask := .take w.val }

/-- WAIT (R111, R112): satisfied at once for value 0, with F = 1 (DESIGN CHOICE, log 60), a take request when the condition holds at
issue, timed out at once for T = 0 (R40), else in progress. -/
def execWait (t : ThreadId) (cond : BitVec 4) (f : BitVec 52) (s : State) : Res :=
  .next (s.issue t.val cond (decide (Body.rt f = 0) || decide (Body.timm f = 0)) (fun s =>
    let th := s.thr t.val
    let w : WaitRec := { sem := Body.sem f, val := Body.val f, limit := Body.timeout f th, at_ := s.count (dieOf (coreOf t.val)), sent := false, expired := false }
    if w.val = 0 then .retire (s.updThr t.val (fun th => th.endWait true))
    else if w.val ≤ (s.semCount w.sem).toNat then .hold (s.sendTake t.val w)
    else if w.limit = some 0 then .retire (s.updThr t.val (fun th => th.endWait false))
    else .hold (s.updThr t.val (fun th => { th with wait := some w }))))

/-- A WAIT in progress completes: F is written and the instruction retires. -/
def State.waitDone (s : State) (t : Nat) (b : Bool) : State := s.updThr t (fun th => (th.endWait b).retire)

/-- WAIT_CONDITION_VISIBLE (R39, R112): the core of a thread that it may issue sends the take request, unless the timeout
has passed. -/
def execWaitConditionVisible (t : ThreadId) (s : State) : Res :=
  .next (match (s.thr t.val).wait with
    | some w =>
      if !w.sent && decide (w.val ≤ (s.semCount w.sem).toNat) && !s.timedOut t.val w && !s.gated t.val && !s.latchedFor t.val
        && (s.thr t.val).excWait.isNone && !s.haltsHere t.val && decide ((s.thr t.val).st = .running) then s.sendTake t.val w else s
    | none => s)

/-- WAIT_TAKE_REPLY (R46, R112): a take that succeeded completes the WAIT; one that failed leaves it waiting, or timed
out when the timeout has passed and no HALT stops it there. An entry that waited for the reply takes place. -/
def execWaitTakeReply (t : ThreadId) (s : State) : Res :=
  .next (match s.takeReply.find? (fun r => decide (r.1 = t.val)), (s.thr t.val).wait with
    | some r, some w =>
      let s1 : State := { s with takeReply := s.takeReply.erase r }
      let s2 := s1.updThr t.val (fun th => { th with wait := some { w with sent := false } })
      if !w.sent then s
      else if r.2 then (s1.waitDone t.val true).tryEnter t.val
      else if (w.expired || s.timedOut t.val w) && !s2.haltsHere t.val && (s.thr t.val).excWait.isNone then s1.waitDone t.val false
      else s2.tryEnter t.val
    | _, _ => s)

/-- WAIT_TIMEOUT (R39, R111, R112): once the timeout has passed, F = 0 and the count is unchanged; while a take is under
way its reply decides, and a HALT that stops it here or an entry abandons the WAIT instead (R46). -/
def execWaitTimeout (t : ThreadId) (s : State) : Res :=
  .next (match (s.thr t.val).wait with
    | some w =>
      if !s.timedOut t.val w then s
      else if w.sent then s.updThr t.val (fun th => { th with wait := some { w with expired := true } })
      else if s.haltsHere t.val || s.latchedFor t.val || (s.thr t.val).excWait.isSome then s
      else s.waitDone t.val false
    | none => s)

/-! ### The WAIT of a host queue (R433) -/

/-- The requester number of a queue at a semaphore (Table ERR-4, SEM_SAT). -/
def hqWho (q : Nat) : Nat := 0xD000 + q

/-- Operation, IRQ, TAG of an entry (Table HOST-3). -/
def HqEntry_op (e : HqEntry) : Nat := fld e.word0 7 0
def HqEntry_tag (e : HqEntry) : Nat := fld e.word0 31 16
/-- Semaphore and value of SIG and WAIT, timeout of WAIT. -/
def HqEntry_sem (e : HqEntry) : Nat := fld e.arg0 13 0
def HqEntry_val (e : HqEntry) : Nat := fld e.arg0 29 14
def HqEntry_limit (e : HqEntry) : Nat := fld e.arg1 47 0

/-- The running entry. -/
def HostQ.running (x : HostQ) : Option HqEntry :=
  if x.started then (x.fetched.head?).map (·.2) else none

/-- A take of the queue is under way. -/
def State.hqTaking (s : State) (q : Nat) : Bool := s.semQ.any (fun r => decide (r.who = hqWho q) && r.ask.isTake)

/-- The timeout of a queue's WAIT has passed: HCLK cycle T, counted from its start, was the last that counts (R39, R433). -/
def State.hqLate (s : State) (q : Nat) (e : HqEntry) : Bool :=
  decide (HqEntry_limit e ≠ 2 ^ 48 - 1) && decide (HqEntry_limit e < (s.count 0x40 - (s.hq q).waitAt).toNat)

/-- The running WAIT of a queue sends its take once its condition is true, up to its last counting cycle (R112, R433). -/
def State.hqSeek (s : State) (q : Nat) : State :=
  match (s.hq q).running with
  | some e =>
    if HqEntry_op e = 3 ∧ HqEntry_val e ≤ (s.semCount (HqEntry_sem e)).toNat ∧ s.hqTaking q = false ∧ s.hqLate q e = false then
      s.semSend { sem := HqEntry_sem e, who := hqWho q, ask := .take (HqEntry_val e) }
    else s
  | none => s

/-- A count has risen: the WAITs of the queues see it. -/
def State.hqSeekAll (s : State) : State := s.host.queues.foldl (fun s p => s.hqSeek p.1) s

/-! ### SIG, SEMRD, SEMSET -/

/-- RT and TIMM are 0. -/
def Body.noRtTimm (f : Body) : Bool := decide (f.rt = 0) && decide (f.timm = 0)

/-- Stores of the thread that wait for a fill of the data cache. -/
def State.storeWaits (s : State) (t : Nat) : Bool :=
  let c := coreOf t
  (s.core c).dcache.entries.any (fun p => p.2.inflight && p.2.stores.any (fun w => decide (w.thread = t)))
    || (s.core c).dmiss.any (fun m => match m.store with
        | some w => decide (w.thread = t)
        | none => false)

/-- SIG (R113, R72): dirty lines are written back, then the signal leaves. While a store of the thread still waits for its
fill, its line cannot be written back, and SIG does not issue (CLK-3, log 61). -/
def execSig (t : ThreadId) (cond : BitVec 4) (f : BitVec 52) (s : State) : Res :=
  .next (s.issue t.val cond (Body.noRtTimm f) (fun s =>
    let s1 := s.cleanAll (coreOf t.val) (s.thr t.val).cls
    if s1.storeWaits t.val then .hold s1
    else .retire (s1.signal t.val (Body.sem f) (Body.val f) (s1.remoteWrites t.val))))

/-- SEMRD (R114): the count arrives as a load's data. -/
def execSemrd (t : ThreadId) (cond : BitVec 4) (f : BitVec 52) (s : State) : Res :=
  .next (s.issue t.val cond (decide (Body.val f = 0) && decide (Body.timm f = 0)) (fun s =>
    .retire ((s.updThr t.val (fun th => th.pendBy 3 (.sem (Body.sem f)) [.g (Body.rt f) 0])).semSend
      { sem := Body.sem f, who := t.val, ask := .read })))

/-- SEMSET (R114): S only. The count is set at issue, ahead of requests still under way (DESIGN CHOICE, log 60). -/
def execSemset (t : ThreadId) (cond : BitVec 4) (f : BitVec 52) (s : State) : Res :=
  .next (s.issue t.val cond (Body.noRtTimm f) (fun s =>
    if stPriv (s.thr t.val).sr.st = 0 then .exc s (excOf exPriv)
    else .retire (s.setSem (Body.sem f) (BitVec.ofNat 16 (Body.val f))).hqSeekAll))

/-! ### The service of a semaphore (R506) -/

/-- The first `n` requests of a queue that satisfy `p`, and the rest. -/
def pickN (p : SemReq → Bool) : Nat → List SemReq → List SemReq × List SemReq
  | _, [] => ([], [])
  | 0, l => ([], l)
  | n + 1, r :: l =>
    if p r then
      let x := pickN p n l
      (r :: x.1, x.2)
    else
      let x := pickN p (n + 1) l
      (x.1, r :: x.2)

/-- The signals of one cycle are added; a sum above 0xFFFF saturates and raises SEM_SAT (R113). -/
def State.addSignals (s : State) (sem : Nat) (l : List SemReq) : State :=
  let sum := (s.semCount sem).toNat + (l.map (fun r => r.ask.value)).sum
  if sum > 0xFFFF then
    (s.setSem sem 0xFFFF#16).raise (.sem (sem / 4096)) (0x10 + sem / 4096) 0x0103 evConfig sem
      (l.foldl (fun m r => min m r.who) 0xFFFF)
  else s.setSem sem (BitVec.ofNat 16 sum)

/-- Order of the takes of one cycle (R506): the die's engines, then its core ports, then requests from the hub. -/
def takeKey (die : Nat) (who : Nat) : Nat :=
  if who < 4608 then (if dieOf (coreOf who) = die then 8 + coreOf who else 1000)
  else if 0x8000 ≤ who ∧ who < 0x8000 + 10240 ∧ engineOf (who - 0x8000) / 8 = die then engineOf (who - 0x8000) % 8
  else 1000

/-- Stable insertion by key. -/
def insByKey (key : SemReq → Nat) (r : SemReq) : List SemReq → List SemReq
  | [] => [r]
  | q :: l => if key r < key q then r :: q :: l else q :: insByKey key r l

/-- SEM_READ_APPLIED (R114): the `n` oldest reads find the count. -/
def execSemReadApplied (sem : BitVec 14) (n : Nat) (s : State) : Res :=
  let p := pickN (fun r => decide (r.sem = sem.toNat) && r.ask.isRead) n s.semQ
  .next { s with
    semQ := p.2
    readReply := s.readReply ++ p.1.map (fun r => (r.who, r.sem, s.semCount r.sem)) }

/-! ### FENCE -/

/-- Memory work that FENCE waits for: loads, stores and chunks of the thread and write-backs of the core; a result of the
vector unit is none (R96). -/
def State.memoryWork (s : State) (t : Nat) : Bool :=
  (s.thr t).pend.any (fun p => !p.isReady && decide (p.src ≠ .unit)) || s.storeWaits t || !(s.remoteWrites t).isEmpty

/-- FENCE (R96, R127): the data cache is written back; SYNC holds while memory work is outstanding. -/
def execFence (t : ThreadId) (cond : BitVec 4) (f : BitVec 52) (s : State) : Res :=
  .next (s.issue t.val cond
    (decide (Body.resR f = 0) && decide (Body.rd f = 0) && decide (Body.ra f = 0) && decide (Body.rb f = 0)) (fun s =>
    let s1 := s.cleanAll (coreOf t.val) (s.thr t.val).cls
    if s1.memoryWork t.val then .hold s1 else .deliver s1))

end Sys2Proof.Machine
end

