-- ==== Sys2Proof/Machine/CacheOps.lean ====
section
/-! DEFINITION. PRF and the cache maintenance operations (R95, R97, Table ISA-6), fills and the return of load data
(R70, R91). -/

namespace Sys2Proof.Machine

/-- Reserved bits of format M are 0. -/
def Body.okM (f : Body) : Bool := decide (f.resM = 0)

/-- PRF (R95): the line at RA + OFF is fetched into the data cache; failures are dropped without a record. -/
def execPrf (t : ThreadId) (cond : BitVec 4) (f : BitVec 52) (s : State) : Res :=
  .next (s.issue t.val cond (Body.okM f && decide (Body.rd f = 0)) (fun s =>
    let th := s.thr t.val
    let c := coreOf t.val
    let va := Body.ea f th
    let p := (s.core c).part
    let pr := stPriv th.sr.st
    let s1 := s.xlatNote (.core c) p pr .read va.toNat { cls := th.cls, eng := coreEngine c }
    match s.xlat (.core c) p pr .read va.toNat with
    | .fail _ _ => .retire s1
    | .ok leaf _ pa =>
      if leafNc leaf || (s.isLocal pa && !s.isMem (localOf pa)) || (s.findLine c true (pa / 256)).isSome then .retire s1
      else .retire (s1.want c true {
        la := pa / 256, cls := th.cls, prefetch := true, store := none, fetcher := none
        tag := leafTag leaf, np := leafNp leaf })))

/-- RD selects an operation of Table ISA-6 (R97). -/
def Body.okCmo (f : Body) : Bool := f.okM && decide (f.rd < 6)

/-- A CMO on the line that holds RA + OFF (R97): a translation failure is a load's; a line that is not held is left.
`k` is the operation of the command; a body whose RD selects another one is no word of it (log 5). An invalidated line
whose tag or words are erroneous leaves without a report (DESIGN CHOICE, log 60). -/
def State.cmo (s : State) (t : Nat) (cond : BitVec 4) (f : Body) (k : Nat) (data priv : Bool) (op : State → Nat → State) : State :=
  if otherOp f.rd k 6 then s else s.issue t cond f.okCmo (fun s =>
    let th := s.thr t
    if priv && decide (stPriv th.sr.st = 0) then .exc s (excOf exPriv)
    else
      let va := f.ea th
      let r := s.dataXlat t .read va
      match r.1 with
      | .fail _ _ => .exc r.2 (excOf exDataXlat va)
      | .ok _ _ pa =>
        match r.2.findLine (coreOf t) data (pa / 256) with
        | some e => if (r.2.centry (coreOf t) data e).valid then .retire (op r.2 e) else .retire r.2
        | none => .retire r.2)

/-- Write back and invalidate entry `e` of the data cache. -/
def State.flushLine (s : State) (c : Nat) (cls : Cls) (e : Nat) : State :=
  if (s.centry c true e).valid then (s.cleanLine c cls e).setCentry c true e {} else s

/-- Invalidate the valid lines of a cache, keeping fills in flight. -/
def Cache.drop (x : Cache) : Cache := { x with entries := x.entries.filter (fun p => !p.2.valid) }

/-- DCWB (Table ISA-6): write back a dirty line and keep it valid. -/
def execDcwb (t : ThreadId) (cond : BitVec 4) (f : BitVec 52) (s : State) : Res :=
  .next (s.cmo t.val cond f 0 true false (fun s e => s.cleanLine (coreOf t.val) (s.thr t.val).cls e))

/-- DCWBI: write back, then invalidate. -/
def execDcwbi (t : ThreadId) (cond : BitVec 4) (f : BitVec 52) (s : State) : Res :=
  .next (s.cmo t.val cond f 1 true false (fun s e => s.flushLine (coreOf t.val) (s.thr t.val).cls e))

/-- DCINV, S only: dirty data is discarded. -/
def execDcinv (t : ThreadId) (cond : BitVec 4) (f : BitVec 52) (s : State) : Res :=
  .next (s.cmo t.val cond f 2 true true (fun s e => s.setCentry (coreOf t.val) true e {}))

/-- ICINV: invalidate the line in the instruction cache. -/
def execIcinv (t : ThreadId) (cond : BitVec 4) (f : BitVec 52) (s : State) : Res :=
  .next (s.cmo t.val cond f 3 false false (fun s e => s.setCentry (coreOf t.val) false e {}))

/-- A CMO on the whole cache, S only. -/
def State.cmoAll (s : State) (t : Nat) (cond : BitVec 4) (f : Body) (k : Nat) (op : State → State) : State :=
  if otherOp f.rd k 6 then s else s.issue t cond f.okCmo (fun s =>
    if stPriv (s.thr t).sr.st = 0 then .exc s (excOf exPriv) else .retire (op s))

/-- ICINVALL, S only: invalidate the whole instruction cache. -/
def execIcinvall (t : ThreadId) (cond : BitVec 4) (f : BitVec 52) (s : State) : Res :=
  .next (s.cmoAll t.val cond f 4 (fun s => s.updCore (coreOf t.val) (fun k => { k with icache := k.icache.drop })))

/-- DCWBIALL, S only: write back and invalidate the whole data cache. -/
def execDcwbiall (t : ThreadId) (cond : BitVec 4) (f : BitVec 52) (s : State) : Res :=
  .next (s.cmoAll t.val cond f 5 (fun s =>
    (s.cleanAll (coreOf t.val) (s.thr t.val).cls).updCore (coreOf t.val) (fun k => { k with dcache := k.dcache.drop })))

/-- CACHE_FILL (R70, R507). -/
def execCacheFill (c : CoreId) (data : Bool) (e : Fin 48) (err : CacheErr) (s : State) : Res :=
  .next (s.fill c.val data e.val err)

/-! ### Returns -/

/-- The oldest result of a thread whose return LOAD_DATA_RETURNS stands for: one from a pipe or memory, or a SEMRD
whose reply is under way. -/
def State.returning (s : State) (t : Nat) (p : Pend) : Bool :=
  match p.src with
  | .unit => true
  | .load => true
  | .sem n => s.readReply.any (fun r => decide (r.1 = t) && decide (r.2.1 = n))
  | _ => false

/-- Change the first element that satisfies `p`. -/
def mapFirst {α : Type} (p : α → Bool) (f : α → α) : List α → List α
  | [] => []
  | x :: l => if p x then f x :: l else x :: mapFirst p f l

/-- Arithmetic flags of a completed instruction are set (R126). -/
def State.setFlags (s : State) (t : Nat) (fl : BitVec 7) : State := s.updThr t (fun th => { th with aflags := th.aflags ||| fl })

/-- At ST.PM = 1 an instruction that completes and sets a trapped flag takes ARITH, with XADDR at it (R128). -/
def State.precise (s : State) (t : Nat) (fl : BitVec 7) (pc : Word) : State :=
  let th := s.thr t
  if stPm th.sr.st && decide (fl &&& th.atrap ≠ 0) && !stXact th.sr.st && !stSkact th.sr.st && th.excWait.isNone then
    s.takeExc t { code := exArith, xaddr := pc } th.pos
  else s

/-- Flags of a completed instruction: set, and taken at ST.PM = 1 (R126, R128). -/
def State.raiseFlags (s : State) (t : Nat) (fl : BitVec 7) (pc : Word) : State := (s.setFlags t fl).precise t fl pc

/-- LOAD_DATA_RETURNS (R91, R114, R153): the oldest result under way is formed. Its flags are set before an entry that
waited for it takes place (R126). -/
def execLoadDataReturns (t : ThreadId) (s : State) : Res :=
  let th := s.thr t.val
  .next (match th.pend.find? (s.returning t.val) with
    | none => s
    | some p =>
      let v : Word := match p.src with
        | .sem n => ((s.readReply.find? (fun r => decide (r.1 = t.val) && decide (r.2.1 = n))).map
            (fun r => r.2.2.zeroExtend 64)).getD 0
        | _ => 0
      let done (q : Pend) : Pend := match q.src with
        | .sem _ => q.resolve v
        | _ => { q with src := .ready }
      let rr := match p.src with
        | .sem n => match s.readReply.find? (fun r => decide (r.1 = t.val) && decide (r.2.1 = n)) with
          | some r => s.readReply.erase r
          | none => s.readReply
        | _ => s.readReply
      let s1 : State := { s.setThr t.val { th with pend := mapFirst (s.returning t.val) done th.pend } with readReply := rr }
      ((s1.setFlags t.val p.flags).settle t.val).precise t.val p.flags p.pos.pc)

end Sys2Proof.Machine
end

