-- ==== Sys2Proof/Machine/Lanes.lean ====
section
/-! DEFINITION. Long vectors: fields (Table VEC-1), element types (Table VEC-2), lanes, predicates and poison
(R143 to R150), and the arithmetic of one element (R154 to R160, R505). -/

namespace Sys2Proof.Machine

/-! ### Fields -/

def Body.psel (f : Body) : Nat := fld f 51 49
def Body.vd (f : Body) : Nat := fld f 48 44
def Body.va (f : Body) : Nat := fld f 43 39
def Body.vb (f : Body) : Nat := fld f 38 34
def Body.vc (f : Body) : Nat := fld f 33 29
def Body.et (f : Body) : Nat := fld f 28 26
def Body.zm (f : Body) : Bool := bit f 25
def Body.us (f : Body) : Bool := bit f 24
def Body.fn (f : Body) : Nat := fld f 23 16
def Body.rg (f : Body) : Nat := fld f 15 11
def Body.resA (f : Body) : Nat := fld f 10 0
/-- Form V-M: RG, reserved bits, IX and OFF; VD, VB, ET and ZM stand as in V-A. -/
def Body.rgM (f : Body) : Nat := fld f 43 39
def Body.resVM (f : Body) : Nat := fld f 33 29
def Body.ix (f : Body) : Bool := bit f 24
def Body.offV (f : Body) : Nat := fld f 23 0

/-! ### Element types -/

/-- Width in bytes of an element type (Table VEC-2). -/
def etWidth (et : Nat) : Nat :=
  match et with
  | 0 => 1
  | 1 => 2
  | 2 => 4
  | 3 => 8
  | 4 => 2
  | 5 => 2
  | _ => 4
/-- The type is an integer type. -/
def etInt (et : Nat) : Bool := decide (et ≤ 3)
/-- The type is a floating-point type. -/
def etFp (et : Nat) : Bool := decide (4 ≤ et) && decide (et ≤ 6)
/-- The binary format of a floating-point type. -/
def etFmt (et : Nat) : Fmt :=
  match et with
  | 4 => fp16
  | 5 => bf16
  | _ => fp32
/-- ET and US of R148: ET 7 is illegal, and US is 0 with floating-point types. -/
def Body.etOk (f : Body) : Bool := decide (f.et ≠ 7) && (etInt f.et || !f.us)

/-- Elements in a register. -/
def lanes (w : Nat) : Nat := 256 / w
/-- Element `k` of width `w` of register data (R143). -/
def laneOf (w : Nat) (d : BitVec 2048) (k : Nat) : Nat := fld d (8 * w * (k + 1) - 1) (8 * w * k)
/-- Register data from its elements. -/
def packLanes (w : Nat) (l : List Nat) : BitVec 2048 := BitVec.ofNat 2048 (l.foldr (fun x acc => x + 2 ^ (8 * w) * acc) 0)
/-- Element `k` of a register group that begins at `r`. -/
def Thread.groupLane (th : Thread) (w r k : Nat) : Nat := laneOf w (th.rv (r + k / lanes w)).data (k % lanes w)
/-- The granule of element `k` of a group is poisoned. -/
def Thread.groupBad (th : Thread) (w r k : Nat) : Bool :=
  bit (th.rv (r + k / lanes w)).poison (k % lanes w * w / 32)
/-- A group of `span` registers is aligned and inside V0-V31 (R150). -/
def groupOk (r span : Nat) : Bool := decide (r % span = 0) && decide (r + span ≤ 32)

/-- Element `k` is active (R144). -/
def PReg.active (p : PReg) (w k : Nat) : Bool := bit p.bits (k * w)

/-- Poison bits from a test of each granule. -/
def poisonBits (p : Nat → Bool) : BitVec 8 :=
  BitVec.ofNat 8 (((List.range 8).map (fun g => if p g then 2 ^ g else 0)).sum)

/-- Some element of granule `g` is active; some is not. -/
def PReg.someActive (p : PReg) (w g : Nat) : Bool := (List.range (lanes w)).any (fun k => decide (k * w / 32 = g) && p.active w k)
def PReg.someIdle (p : PReg) (w g : Nat) : Bool := (List.range (lanes w)).any (fun k => decide (k * w / 32 = g) && !p.active w k)

/-- The elements, poison bits and flags of an element-wise result: active elements take `op`, the others are
merged from `old` or zeroed (R144, R145, R149). A source granule without an active element contributes nothing (DESIGN CHOICE, log 60).
`src g` tells whether a source of granule `g` is poisoned. -/
def lanewise (w : Nat) (p : PReg) (zm : Bool) (old : VReg) (src : Nat → Bool) (op : Nat → Nat × Flg) : VReg × Flg :=
  let ks := List.range (lanes w)
  let bad (g : Nat) : Bool :=
    bit p.poison g || (p.someActive w g && src g) || (!zm && p.someIdle w g && bit old.poison g)
  let vals := ks.map (fun k => if p.active w k then (op k).1 else if zm then 0 else laneOf w old.data k)
  let fl := ks.foldl (fun fl k => if p.active w k && !bad (k * w / 32) then fl.or (op k).2 else fl) {}
  ({ data := packLanes w vals, poison := poisonBits bad }, fl)

/-! ### Integers -/

/-- An element as an integer, unsigned when US is 1 (R148). -/
def laneInt (w : Nat) (us : Bool) (x : Nat) : Int := if us then (x : Int) else signed (8 * w) x
/-- An integer wrapped to an element (R156). -/
def wrapInt (w : Nat) (v : Int) : Nat := (v % (2 ^ (8 * w) : Nat)).toNat
/-- Range of an integer type. -/
def minInt (w : Nat) (us : Bool) : Int := if us then 0 else -((2 ^ (8 * w - 1) : Nat) : Int)
def maxInt (w : Nat) (us : Bool) : Int := if us then ((2 ^ (8 * w) : Nat) : Int) - 1 else ((2 ^ (8 * w - 1) : Nat) : Int) - 1
/-- An integer saturated to its type (R156). -/
def satInt (w : Nat) (us : Bool) (v : Int) : Nat :=
  wrapInt w (if v < minInt w us then minInt w us else if v > maxInt w us then maxInt w us else v)

/-! ### Floating point -/

/-- NV of R155 for operands `l` and an exact result. -/
def fpNv (f : Fmt) (l : List Nat) (r : FV) : Bool :=
  l.any f.isSNaN || (r.isNaN && !l.any (fun x => (f.decode x).isNaN))
/-- A result rounded to nearest even, with its flags (R154, R155). -/
def fpRound (f : Fmt) (l : List Nat) (r : FV) : Nat × Flg :=
  let x := f.round .rne r
  (x.1, { x.2 with nv := fpNv f l r })

/-- VADD, VSUB, VMUL (R156). -/
def laneAdd (et : Nat) (us sat : Bool) (a b : Nat) : Nat × Flg :=
  let w := etWidth et
  if etInt et then
    let v := laneInt w us a + laneInt w us b
    (if sat then satInt w us v else wrapInt w v, {})
  else
    let f := etFmt et
    fpRound f [a, b] ((f.decode a).add (f.decode b))
def laneSub (et : Nat) (us sat : Bool) (a b : Nat) : Nat × Flg :=
  let w := etWidth et
  if etInt et then
    let v := laneInt w us a - laneInt w us b
    (if sat then satInt w us v else wrapInt w v, {})
  else
    let f := etFmt et
    fpRound f [a, b] ((f.decode a).add (f.decode b).neg)
def laneMul (et : Nat) (us : Bool) (a b : Nat) : Nat × Flg :=
  let w := etWidth et
  if etInt et then (wrapInt w (laneInt w us a * laneInt w us b), {})
  else
    let f := etFmt et
    fpRound f [a, b] ((f.decode a).mul (f.decode b))

/-- VFMA (neg false): a * b + c; VFMS (neg true): c - a * b; one rounding (R154). A product of 0 and infinity sets NV also
beside a quiet NaN addend, which IEEE 754 leaves open (DESIGN CHOICE, log 60). -/
def laneFma (et : Nat) (us neg : Bool) (a b c : Nat) : Nat × Flg :=
  let w := etWidth et
  if etInt et then
    let p := laneInt w us a * laneInt w us b
    (wrapInt w (if neg then laneInt w us c - p else laneInt w us c + p), {})
  else
    let f := etFmt et
    let p := (f.decode a).mul (f.decode b)
    let r := (if neg then p.neg else p).add (f.decode c)
    let x := fpRound f [a, b, c] r
    (x.1, { x.2 with nv := x.2.nv || fpNv f [a, b] p })

/-- VMIN, VMAX (R154). -/
def laneMin (et : Nat) (us : Bool) (a b : Nat) : Nat × Flg :=
  let w := etWidth et
  if etInt et then (if laneInt w us b < laneInt w us a then b else a, {})
  else
    let f := etFmt et
    fpRound f [a, b] ((f.decode a).min (f.decode b))
def laneMax (et : Nat) (us : Bool) (a b : Nat) : Nat × Flg :=
  let w := etWidth et
  if etInt et then (if laneInt w us a < laneInt w us b then b else a, {})
  else
    let f := etFmt et
    fpRound f [a, b] ((f.decode a).max (f.decode b))
/-- VABS: the sign bit of a floating-point element is cleared, NaN included (R154). -/
def laneAbs (et : Nat) (us : Bool) (a : Nat) : Nat × Flg :=
  let w := etWidth et
  if etInt et then (wrapInt w (laneInt w us a).natAbs, {})
  else (a % (etFmt et).sign, { nv := (etFmt et).isSNaN a })

/-- VRCP, VRSQ, VEXP2, correctly rounded; DZ for a reciprocal of ±0 (R151, R155). -/
def laneRcp (et a : Nat) : Nat × Flg :=
  let f := etFmt et
  let x := fpRound f [a] ((FV.fin false 1 0).div (f.decode a))
  (x.1, { x.2 with dz := (f.decode a).isZero })
def laneRsq (et a : Nat) : Nat × Flg :=
  let f := etFmt et
  let x := fpRound f [a] (f.decode a).rsqrt
  (x.1, { x.2 with dz := (f.decode a).isZero })
def laneExp2 (et a : Nat) : Nat × Flg :=
  let f := etFmt et
  fpRound f [a] (f.decode a).exp2

/-- Bitwise operations. -/
def laneShl (w a b : Nat) : Nat × Flg := (a * 2 ^ (b % (8 * w)) % 2 ^ (8 * w), {})
def laneShr (w : Nat) (us : Bool) (a b : Nat) : Nat × Flg :=
  (wrapInt w (laneInt w us a / ((2 ^ (b % (8 * w)) : Nat) : Int)), {})

/-- VCMP's conditions (R158) with NV. -/
def laneCmp (et : Nat) (us : Bool) (c a b : Nat) : Bool × Flg :=
  if etInt et then
    let x := laneInt (etWidth et) us a
    let y := laneInt (etWidth et) us b
    (match c with
      | 0 => decide (x = y)
      | 1 => decide (x ≠ y)
      | 2 => decide (x < y)
      | 3 => decide (x ≤ y)
      | 4 => decide (x > y)
      | 5 => decide (x ≥ y)
      | _ => false, {})
  else
    let f := etFmt et
    let x := f.decode a
    let y := f.decode b
    let un := x.isNaN || y.isNaN
    let nv := f.isSNaN a || f.isSNaN b || (un && decide (2 ≤ c) && decide (c ≤ 5))
    (match c with
      | 0 => x.eqv y
      | 1 => !x.eqv y
      | 2 => x.lt y
      | 3 => x.lt y || x.eqv y
      | 4 => y.lt x
      | 5 => y.lt x || x.eqv y
      | _ => un, { nv := nv })

/-! ### Conversion -/

/-- The rounding mode of a field (R160), for element `i` under the seed. -/
def rmOf (mode : Nat) (seed : Word) (i : Nat) : Rm :=
  match mode with
  | 0 => .rne
  | 1 => .rtz
  | _ => .sr (srHash seed i)

/-- A number to an integer type: rounded by the mode and saturated (R159, R160, R505). -/
def fvToInt (w : Nat) (us : Bool) (rm : Rm) : FV → Nat × Flg
  | .nan => (0, { nv := true })
  | .inf n => (wrapInt w (if n then minInt w us else maxInt w us), { nv := true })
  | .fin n m e =>
    let r := scaleRound rm m e 0
    let v : Int := if n then -(r.1 : Int) else r.1
    if v < minInt w us ∨ v > maxInt w us then (satInt w us v, { ofl := true, nx := true })
    else (wrapInt w v, { nx := r.2 })

/-- VCVT of one element (R159, R160, R505); an integer to integer conversion sets no flag (R155). -/
def laneCvt (src dst : Nat) (us : Bool) (rm : Rm) (a : Nat) : Nat × Flg :=
  if etInt src then
    let v := laneInt (etWidth src) us a
    if etInt dst then (satInt (etWidth dst) us v, {})
    else (etFmt dst).round rm (.fin (decide (v < 0)) v.natAbs 0)
  else
    let f := etFmt src
    if etInt dst then fvToInt (etWidth dst) us rm (f.decode a)
    else
      let x := (etFmt dst).round rm (f.decode a)
      (x.1, { x.2 with nv := f.isSNaN a })

/-- Register writes of a vector instruction with its flags become visible before the third following
instruction (R153). -/
def Thread.pendV (th : Thread) (w : List RegWrite) (fl : Flg := {}) : Thread :=
  { th with pend := th.pend ++ [{ left := 3, src := .unit, writes := w, flags := fl.bits, pos := th.pos }] }

/-- Issue a vector instruction that writes registers from the thread's own registers. -/
def State.issueVec (s : State) (t : Nat) (cond : BitVec 4) (legal : Bool) (work : Thread → List RegWrite × Flg) : State :=
  s.issueThr t cond legal (fun th => th.pendV (work th).1 (work th).2)

end Sys2Proof.Machine
end

