-- ==== Sys2Proof/Machine/Vector.lean ====
section
/-! DEFINITION. Vector arithmetic, predicates, permutes, reductions, conversion and quantisation (R151 to R166). -/

namespace Sys2Proof.Machine

/-- Fields of form V-A that must be 0 (R151): each argument says that its field is used. -/
def Body.zeroA (f : Body) (vd va vb vc fn rg : Bool) : Bool :=
  decide (f.resA = 0) && (vd || decide (f.vd = 0)) && (va || decide (f.va = 0)) && (vb || decide (f.vb = 0))
    && (vc || decide (f.vc = 0)) && (fn || decide (f.fn = 0)) && (rg || decide (f.rg = 0))

/-- The governing predicate. -/
def Thread.gov (th : Thread) (f : Body) : PReg := th.rp f.psel

/-- An element-wise operation on VA, VB, VC under the governing predicate: `n` sources count for poison. -/
def Thread.lanesOp (th : Thread) (f : Body) (srcs : List Nat) (op : Nat → Nat → Nat → Nat × Flg) : List RegWrite × Flg :=
  let w := etWidth f.et
  let a := (th.rv f.va).data
  let b := (th.rv f.vb).data
  let c := (th.rv f.vc).data
  let r := lanewise w (th.gov f) f.zm (th.rv f.vd) (fun g => srcs.any (fun x => bit (th.rv x).poison g))
    (fun k => op (laneOf w a k) (laneOf w b k) (laneOf w c k))
  ([.v f.vd r.1], r.2)

/-- A three-register operation VD = VA op VB. -/
def State.vec2 (s : State) (t : Nat) (cond : BitVec 4) (f : Body) (legal fnUsed : Bool) (op : Nat → Nat → Nat × Flg) : State :=
  s.issueVec t cond (legal && f.etOk && f.zeroA true true true false fnUsed false)
    (fun th => th.lanesOp f [f.va, f.vb] (fun a b _ => op a b))

/-- A two-register operation VD = op VA. -/
def State.vec1 (s : State) (t : Nat) (cond : BitVec 4) (f : Body) (legal : Bool) (op : Nat → Nat × Flg) : State :=
  s.issueVec t cond (legal && f.etOk && f.zeroA true true false false false false)
    (fun th => th.lanesOp f [f.va] (fun a _ _ => op a))

/-- FN of VADD and VSUB: bit 0 saturates, with integer types only. -/
def Body.satOk (f : Body) : Bool := decide (f.fn = 0) || (decide (f.fn = 1) && etInt f.et)

/-- VADD (R151, R156). -/
def execVadd (t : ThreadId) (cond : BitVec 4) (f : BitVec 52) (s : State) : Res :=
  .next (s.vec2 t.val cond f (Body.satOk f) true (laneAdd (Body.et f) (Body.us f) (bit f 16)))

/-- VSUB (R151, R156). -/
def execVsub (t : ThreadId) (cond : BitVec 4) (f : BitVec 52) (s : State) : Res :=
  .next (s.vec2 t.val cond f (Body.satOk f) true (laneSub (Body.et f) (Body.us f) (bit f 16)))

/-- VMUL (R151, R156). -/
def execVmul (t : ThreadId) (cond : BitVec 4) (f : BitVec 52) (s : State) : Res :=
  .next (s.vec2 t.val cond f true false (laneMul (Body.et f) (Body.us f)))

/-- VFMA and VFMS share their operands (R151). -/
def State.vec3 (s : State) (t : Nat) (cond : BitVec 4) (f : Body) (neg : Bool) : State :=
  s.issueVec t cond (f.etOk && f.zeroA true true true true false false)
    (fun th => th.lanesOp f [f.va, f.vb, f.vc] (laneFma f.et f.us neg))

/-- VFMA: VD = VA * VB + VC with one rounding (R151, R154). -/
def execVfma (t : ThreadId) (cond : BitVec 4) (f : BitVec 52) (s : State) : Res :=
  .next (s.vec3 t.val cond f false)

/-- VFMS: VD = VC - VA * VB with one rounding (R151, R154). -/
def execVfms (t : ThreadId) (cond : BitVec 4) (f : BitVec 52) (s : State) : Res :=
  .next (s.vec3 t.val cond f true)

/-- VMIN (R154). -/
def execVmin (t : ThreadId) (cond : BitVec 4) (f : BitVec 52) (s : State) : Res :=
  .next (s.vec2 t.val cond f true false (laneMin (Body.et f) (Body.us f)))

/-- VMAX (R154). -/
def execVmax (t : ThreadId) (cond : BitVec 4) (f : BitVec 52) (s : State) : Res :=
  .next (s.vec2 t.val cond f true false (laneMax (Body.et f) (Body.us f)))

/-- VABS (R154). -/
def execVabs (t : ThreadId) (cond : BitVec 4) (f : BitVec 52) (s : State) : Res :=
  .next (s.vec1 t.val cond f true (laneAbs (Body.et f) (Body.us f)))

/-- VAND (R151). -/
def execVand (t : ThreadId) (cond : BitVec 4) (f : BitVec 52) (s : State) : Res :=
  .next (s.vec2 t.val cond f (!Body.us f) false (fun a b => (Nat.land a b, {})))

/-- VOR (R151). -/
def execVor (t : ThreadId) (cond : BitVec 4) (f : BitVec 52) (s : State) : Res :=
  .next (s.vec2 t.val cond f (!Body.us f) false (fun a b => (Nat.lor a b, {})))

/-- VXOR (R151). -/
def execVxor (t : ThreadId) (cond : BitVec 4) (f : BitVec 52) (s : State) : Res :=
  .next (s.vec2 t.val cond f (!Body.us f) false (fun a b => (Nat.xor a b, {})))

/-- VSHL (R151): integer types only. -/
def execVshl (t : ThreadId) (cond : BitVec 4) (f : BitVec 52) (s : State) : Res :=
  .next (s.vec2 t.val cond f (etInt (Body.et f) && !Body.us f) false (laneShl (etWidth (Body.et f))))

/-- VSHR (R151): integer types only, logical when US is 1. -/
def execVshr (t : ThreadId) (cond : BitVec 4) (f : BitVec 52) (s : State) : Res :=
  .next (s.vec2 t.val cond f (etInt (Body.et f)) false (laneShr (etWidth (Body.et f)) (Body.us f)))

/-- VRCP (R151): floating types only. -/
def execVrcp (t : ThreadId) (cond : BitVec 4) (f : BitVec 52) (s : State) : Res :=
  .next (s.vec1 t.val cond f (etFp (Body.et f)) (laneRcp (Body.et f)))

/-- VRSQ (R151): floating types only. -/
def execVrsq (t : ThreadId) (cond : BitVec 4) (f : BitVec 52) (s : State) : Res :=
  .next (s.vec1 t.val cond f (etFp (Body.et f)) (laneRsq (Body.et f)))

/-- VEXP2 (R151): floating types only. -/
def execVexp2 (t : ThreadId) (cond : BitVec 4) (f : BitVec 52) (s : State) : Res :=
  .next (s.vec1 t.val cond f (etFp (Body.et f)) (laneExp2 (Body.et f)))

/-- A predicate result: all bits of an element alike, inactive elements merged or zeroed (R144, R149). -/
def Thread.cmpLanes (th : Thread) (f : Body) : List RegWrite × Flg :=
  let w := etWidth f.et
  let p := th.gov f
  let old := th.rp (f.vd % 8)
  let a := th.rv f.va
  let b := th.rv f.vb
  let res (k : Nat) := laneCmp f.et f.us (f.fn % 8) (laneOf w a.data k) (laneOf w b.data k)
  let bad (g : Nat) : Bool := bit p.poison g || (p.someActive w g && (bit a.poison g || bit b.poison g))
    || (!f.zm && p.someIdle w g && bit old.poison g)
  let on (i : Nat) : Bool := if p.active w (i / w) then (res (i / w)).1 else !f.zm && bit old.bits i
  let bits := ((List.range 256).map (fun i => if on i then 2 ^ i else 0)).sum
  let fl := (List.range (lanes w)).foldl
    (fun fl k => if p.active w k && !bad (k * w / 32) then fl.or (res k).2 else fl) ({} : Flg)
  ([.p (f.vd % 8) { bits := BitVec.ofNat 256 bits, poison := poisonBits bad }], fl)

/-- VCMP (R158): VD[4:3] is 0, FN[2:0] is not 7. -/
def execVcmp (t : ThreadId) (cond : BitVec 4) (f : BitVec 52) (s : State) : Res :=
  .next (s.issueVec t.val cond (Body.etOk f && Body.zeroA f true true true false true false
    && decide (Body.vd f < 8) && decide (Body.fn f < 7)) (fun th => th.cmpLanes f))

/-- VSEL: VA where active, else VB. -/
def Thread.selLanes (th : Thread) (f : Body) : List RegWrite × Flg :=
  let w := etWidth f.et
  let p := th.gov f
  let a := th.rv f.va
  let b := th.rv f.vb
  let bad (g : Nat) : Bool := bit p.poison g || (p.someActive w g && bit a.poison g) || (p.someIdle w g && bit b.poison g)
  let vals := (List.range (lanes w)).map (fun k => if p.active w k then laneOf w a.data k else laneOf w b.data k)
  ([.v f.vd { data := packLanes w vals, poison := poisonBits bad }], {})

/-- VSEL (R151): ZM must be 0. -/
def execVsel (t : ThreadId) (cond : BitVec 4) (f : BitVec 52) (s : State) : Res :=
  .next (s.issueVec t.val cond (Body.etOk f && Body.zeroA f true true true false false false && !Body.zm f && !Body.us f)
    (fun th => th.selLanes f))

/-- VBCAST (R151): every active element takes the low bytes of G[RG]. -/
def execVbcast (t : ThreadId) (cond : BitVec 4) (f : BitVec 52) (s : State) : Res :=
  .next (s.issueVec t.val cond (Body.etOk f && !Body.us f && Body.zeroA f true false false false false true)
    (fun th => th.lanesOp f [] (fun _ _ _ => ((th.rg (Body.rg f)).toNat % 2 ^ (8 * etWidth (Body.et f)), {}))))

/-- PSEL is 0 (R149). -/
def Body.psel0 (f : Body) : Bool := decide (f.psel = 0)

/-- VEXT (R145, R151): element FN of VA goes to G[RG]; a poisoned granule takes ILL_OPND. An element number that
the register does not have delivers a free value (log 7). -/
def execVext (t : ThreadId) (cond : BitVec 4) (f : BitVec 52) (s : State) : Res :=
  .next (s.issue t.val cond (Body.etOk f && Body.psel0 f && !Body.zm f && Body.zeroA f false true false false true true) (fun s =>
    let th := s.thr t.val
    let w := etWidth (Body.et f)
    let k := Body.fn f
    if k < lanes w then
      if bit (th.rv (Body.va f)).poison (k * w / 32) then .exc s (excOf exIllOpnd)
      else
        let x := laneOf w (th.rv (Body.va f)).data k
        .retire (s.setThr t.val (th.pendV [.g (Body.rg f) (if Body.us f then BitVec.ofNat 64 x else sx64 (8 * w) x)]))
    else .retire (s.draw.setThr t.val (th.pendV [.g (Body.rg f) s.drawn]))))

/-- VINS (R151): element FN of VD takes the low bytes of G[RG]; an element number that the register does not have
names no element, and VD keeps its value (log 7). -/
def Thread.insLane (th : Thread) (f : Body) : List RegWrite × Flg :=
  let w := etWidth f.et
  let old := th.rv f.vd
  let vals := (List.range (lanes w)).map (fun k =>
    if k = f.fn then (th.rg f.rg).toNat % 2 ^ (8 * w) else laneOf w old.data k)
  ([.v f.vd { data := packLanes w vals, poison := old.poison }], {})

/-- VINS (R151). -/
def execVins (t : ThreadId) (cond : BitVec 4) (f : BitVec 52) (s : State) : Res :=
  .next (s.issueVec t.val cond (Body.etOk f && Body.psel0 f && !Body.zm f && !Body.us f && Body.zeroA f true false false false true true)
    (fun th => th.insLane f))

/-- Element `j` of the pair VA, VB, 0 beyond it, and whether its granule is poisoned. -/
def Thread.pairLane (th : Thread) (f : Body) (w j : Nat) : Nat × Bool :=
  let e := lanes w
  let r := if j < e then th.rv f.va else th.rv f.vb
  if j < 2 * e then (laneOf w r.data (j % e), bit r.poison (j % e * w / 32)) else (0, false)

/-- A permute: active element `j` of VD is element `sel j` of the pair (R151). Every active source granule, of VA, VB or the
index register, and every granule that an active element is taken from contributes to every result granule (R145, log 61). -/
def Thread.permute (th : Thread) (f : Body) (sel : Nat → Nat) (idxBad : Nat → Bool) : List RegWrite × Flg :=
  let w := etWidth f.et
  let p := th.gov f
  let srcBad : Bool := (List.range 8).any (fun g =>
      p.someActive w g && (idxBad g || bit (th.rv f.va).poison g || bit (th.rv f.vb).poison g))
    || (List.range (lanes w)).any (fun k => p.active w k && (th.pairLane f w (sel k)).2)
  let r := lanewise w p f.zm (th.rv f.vd) (fun _ => srcBad) (fun k => ((th.pairLane f w (sel k)).1, {}))
  ([.v f.vd r.1], r.2)

/-- VPERM (R151). -/
def execVperm (t : ThreadId) (cond : BitVec 4) (f : BitVec 52) (s : State) : Res :=
  .next (s.issueVec t.val cond (Body.etOk f && !Body.us f && Body.zeroA f true true true true false false)
    (fun th => th.permute f (fun k => laneOf (etWidth (Body.et f)) (th.rv (Body.vc f)).data k % (2 * lanes (etWidth (Body.et f))))
      (fun g => bit (th.rv (Body.vc f)).poison g)))

/-- VSLIDE (R151). -/
def execVslide (t : ThreadId) (cond : BitVec 4) (f : BitVec 52) (s : State) : Res :=
  .next (s.issueVec t.val cond (Body.etOk f && !Body.us f && Body.zeroA f true true true false true false)
    (fun th => th.permute f (fun k => k + Body.fn f) (fun _ => false)))

/-- One level of the tree of R157: neighbours combine. -/
def pairUp {α : Type} (op : α → α → α) : List α → List α
  | a :: b :: l => op a b :: pairUp op l
  | l => l

/-- The tree of R157 over at most 2^n values. -/
def treeFold {α : Type} (op : α → α → α) : Nat → List α → List α
  | 0, l => l
  | n + 1, l => treeFold op n (pairUp op l)

/-- A reduction's result stands in element 0, all other elements are 0; granule 0 is poisoned when an active source
granule or the predicate is (R145, R157). Granules 1 to 7, to which no source contributes, are never poisoned (DEDUCED,
log 61). -/
def Thread.reduce (th : Thread) (f : Body) (val : List (Option Nat) → Nat × Flg) : List RegWrite × Flg :=
  let w := etWidth f.et
  let p := th.gov f
  let a := th.rv f.va
  let vals := (List.range (lanes w)).map (fun k => if p.active w k then some (laneOf w a.data k) else none)
  let bad := (List.range 8).any (fun g => bit p.poison g || (p.someActive w g && bit a.poison g))
  let r := val vals
  ([.v f.vd { data := BitVec.ofNat 2048 r.1, poison := if bad then 1 else 0 }], if bad then {} else r.2)

/-- VRSUM (R157): floating sums are formed in FP32 at every node and rounded once to ET at the root. -/
def sumLanes (et : Nat) (us : Bool) (l : List (Option Nat)) : Nat × Flg :=
  if etInt et then
    let w := etWidth et
    (wrapInt w ((l.map (fun x => laneInt w us (x.getD 0))).sum), {})
  else
    let f := etFmt et
    let leaf (x : Option Nat) : Nat × Flg :=
      match x with
      | none => (0, {})
      | some v => ((fp32.round .rne (f.decode v)).1, { nv := f.isSNaN v })
    let node (x y : Nat × Flg) : Nat × Flg :=
      let r := fpRound fp32 [x.1, y.1] ((fp32.decode x.1).add (fp32.decode y.1))
      (r.1, (x.2.or y.2).or r.2)
    let root := (treeFold node 8 (l.map leaf)).headD (0, {})
    if et = 6 then root
    else
      let r := f.round .rne (fp32.decode root.1)
      (r.1, root.2.or r.2)

/-- VRMAX and VRMIN (R157): inactive elements are skipped; `none` gives the extreme of the type. -/
def extremeLanes (op : Nat → Nat → Nat × Flg) (empty : Nat) (l : List (Option Nat)) : Nat × Flg :=
  let node (x y : Option (Nat × Flg)) : Option (Nat × Flg) :=
    match x, y with
    | none, y => y
    | x, none => x
    | some a, some b =>
      let r := op a.1 b.1
      some (r.1, (a.2.or b.2).or r.2)
  ((treeFold node 8 (l.map (fun x => x.map (fun v => op v v)))).headD none).getD (empty, {})

/-- Least and greatest values of a type: -infinity and +infinity for floating types. -/
def etLeast (et : Nat) (us : Bool) : Nat :=
  if etInt et then wrapInt (etWidth et) (minInt (etWidth et) us) else (etFmt et).pack true (etFmt et).infCode
def etGreatest (et : Nat) (us : Bool) : Nat :=
  if etInt et then wrapInt (etWidth et) (maxInt (etWidth et) us) else (etFmt et).infCode

/-- A reduction instruction. -/
def State.vecRed (s : State) (t : Nat) (cond : BitVec 4) (f : Body) (val : List (Option Nat) → Nat × Flg) : State :=
  s.issueVec t cond (f.etOk && !f.zm && f.zeroA true true false false false false) (fun th => th.reduce f val)

/-- VRSUM (R157). -/
def execVrsum (t : ThreadId) (cond : BitVec 4) (f : BitVec 52) (s : State) : Res :=
  .next (s.vecRed t.val cond f (sumLanes (Body.et f) (Body.us f)))

/-- VRMAX (R157). -/
def execVrmax (t : ThreadId) (cond : BitVec 4) (f : BitVec 52) (s : State) : Res :=
  .next (s.vecRed t.val cond f (extremeLanes (laneMax (Body.et f) (Body.us f)) (etLeast (Body.et f) (Body.us f))))

/-- VRMIN (R157). -/
def execVrmin (t : ThreadId) (cond : BitVec 4) (f : BitVec 52) (s : State) : Res :=
  .next (s.vecRed t.val cond f (extremeLanes (laneMin (Body.et f) (Body.us f)) (etGreatest (Body.et f) (Body.us f))))

/-- Predicate logic VD[2:0] = VA[2:0] op VB[2:0] (R151): the other fields are 0. -/
def State.predOp (s : State) (t : Nat) (cond : BitVec 4) (f : Body) (op : BitVec 256 → BitVec 256 → BitVec 256) : State :=
  s.issueVec t cond (f.psel0 && f.zeroA true true true false false false && decide (f.vd < 8) && decide (f.va < 8)
      && decide (f.vb < 8) && decide (f.et = 0) && !f.zm && !f.us) (fun th =>
    let a := th.rp f.va
    let b := th.rp f.vb
    ([.p f.vd { bits := op a.bits b.bits, poison := a.poison ||| b.poison }], {}))

/-- PAND (R151). -/
def execPand (t : ThreadId) (cond : BitVec 4) (f : BitVec 52) (s : State) : Res :=
  .next (s.predOp t.val cond f (· &&& ·))

/-- POR (R151). -/
def execPor (t : ThreadId) (cond : BitVec 4) (f : BitVec 52) (s : State) : Res :=
  .next (s.predOp t.val cond f (· ||| ·))

/-- PXOR (R151). -/
def execPxor (t : ThreadId) (cond : BitVec 4) (f : BitVec 52) (s : State) : Res :=
  .next (s.predOp t.val cond f (· ^^^ ·))

/-- PCNT (R151): the number of set bits of predicate VA[2:0]. -/
def execPcnt (t : ThreadId) (cond : BitVec 4) (f : BitVec 52) (s : State) : Res :=
  .next (s.issueVec t.val cond (Body.psel0 f && Body.zeroA f false true false false false true && decide (Body.va f < 8)
    && decide (Body.et f = 0) && !Body.zm f && !Body.us f) (fun th =>
    ([.g (Body.rg f) (BitVec.ofNat 64 ((List.range 256).countP (fun i => bit (th.rp (Body.va f)).bits i)))], {})))

/-! ### Conversion -/

/-- The target type and the rounding mode of VCVT. -/
def Body.dst (f : Body) : Nat := fld f 22 20
def Body.mode (f : Body) : Nat := fld f 17 16
/-- Rounding mode 3 is illegal, and RG is 0 unless the mode is 2 (R160). -/
def Body.modeOk (f : Body) : Bool := decide (f.mode ≠ 3) && (decide (f.mode = 2) || decide (f.rg = 0))
/-- Spans of VCVT's source and destination (R159). -/
def Body.cvtSpans (f : Body) : Nat × Nat :=
  let a := etWidth f.et
  let b := etWidth f.dst
  if a < b then (1, b / a) else (a / b, 1)
def Body.cvtOk (f : Body) : Bool :=
  f.etOk && f.zeroA true true false false true true && decide (f.dst ≠ 7) && f.modeOk
    && !bit f 23 && decide (fld f 19 18 = 0)
    && groupOk f.va f.cvtSpans.1 && groupOk f.vd f.cvtSpans.2
    && (decide (f.cvtSpans = (1, 1)) || f.psel0)

/-- VCVT (R159, R160): element k of the group corresponds to element k of the single register. -/
def Thread.convert (th : Thread) (f : Body) : List RegWrite × Flg :=
  let a := etWidth f.et
  let b := etWidth f.dst
  let seed := th.rg f.rg
  let one (k : Nat) := laneCvt f.et f.dst f.us (rmOf f.mode seed k) (th.groupLane a f.va k)
  let p := th.gov f
  if a = b then
    let r := lanewise a p f.zm (th.rv f.vd) (fun g => bit (th.rv f.va).poison g) one
    ([.v f.vd r.1], r.2)
  else
    let total := max (lanes a) (lanes b)
    let reg (i : Nat) : RegWrite :=
      .v (f.vd + i) {
        data := packLanes b ((List.range (lanes b)).map (fun j => (one (i * lanes b + j)).1))
        poison := poisonBits (fun g => (List.range (lanes b)).any (fun j =>
          decide (j * b / 32 = g) && th.groupBad a f.va (i * lanes b + j))) }
    let badOut (k : Nat) : Bool := (List.range (lanes b)).any (fun j =>
      decide (j * b / 32 = k % lanes b * b / 32) && th.groupBad a f.va (k / lanes b * lanes b + j))
    ((List.range f.cvtSpans.2).map reg,
      (List.range total).foldl (fun fl k => if badOut k then fl else fl.or (one k).2) ({} : Flg))

/-- VCVT (R159, R160, R505). -/
def execVcvt (t : ThreadId) (cond : BitVec 4) (f : BitVec 52) (s : State) : Res :=
  .next (s.issueVec t.val cond (Body.cvtOk f) (fun th => th.convert f))

/-! ### MX quantisation -/

/-- The MX format of FN[7:5]. -/
def Body.mx (f : Body) : Nat := fld f 23 21

/-- Floor of log2 of the largest magnitude of a block; `none` when all are zero. -/
def blockLog (l : List FV) : Option Int :=
  l.foldl (fun acc x => match x with
    | .fin _ m e => if m = 0 then acc else
        let v : Int := Nat.log2 m + e
        match acc with
        | none => some v
        | some a => some (max a v)
    | _ => acc) none

/-- One block of VQMX (R162, R163): the scale byte, the element codes and the flags. -/
def quantBlock (mx : Nat) (rm : Nat → Rm) (base : Nat) (l : List FV) : Nat × List Nat × Flg :=
  if l.any FV.isNaN then (0xFF, l.map (fun _ => 0), { nv := true })
  else if l.any FV.isInf then (0xFF, l.map (fun _ => 0), { ofl := true })
  else
    let e : Int := match blockLog l with
      | none => -127
      | some v => max (-127) (min 127 (v - (mxOf mx).emax))
    let one (i : Nat) (x : FV) : Nat × Bool :=
      match x with
      | .fin n m ex => mxEncode mx (rm (base + i)) n m (ex - e)
      | _ => (0, false)
    let r := l.mapIdx one
    ((e + 127).toNat, r.map (·.1), { nx := r.any (·.2) })

/-- Pack codes of `b` bits, the first lowest (R164). -/
def packBits (b : Nat) (l : List Nat) : Nat := l.foldr (fun x acc => x + 2 ^ b * acc) 0

/-- The source span of VQMX and VBLKZ by type. -/
def mxSpan (et : Nat) : Nat := if et = 6 then 4 else if et = 5 then 2 else if et = 4 then 2 else 1

def Body.qmxOk (f : Body) : Bool :=
  (decide (f.et = 5) || decide (f.et = 6)) && !f.us && !f.zm && f.psel0 && f.zeroA true true true false true true
    && decide (f.mx ≤ 5) && decide (fld f 20 18 = 0) && f.modeOk && groupOk f.va (mxSpan f.et)

/-- VQMX (R162 to R164): the packed elements in VD and the scales in G[VB]. A result granule is poisoned when a
block that it holds has a poisoned source granule. -/
def Thread.quantise (th : Thread) (f : Body) : List RegWrite × Flg :=
  let w := etWidth f.et
  let fmt := etFmt f.et
  let b := (mxOf f.mx).bits
  let seed := th.rg f.rg
  let src (j : Nat) := (List.range 32).map (fun i => fmt.decode (th.groupLane w f.va (32 * j + i)))
  let q := (List.range 8).map (fun j => quantBlock f.mx (rmOf f.mode seed) (32 * j) (src j))
  let srcBad (j : Nat) : Bool := (List.range 32).any (fun i => th.groupBad w f.va (32 * j + i))
  let data := packBits b (q.flatMap (fun x => x.2.1))
  let bad (g : Nat) : Bool := (List.range 8).any (fun j =>
    srcBad j && decide (4 * b * j < 32 * (g + 1)) && decide (32 * g < 4 * b * (j + 1)))
  let outBad (j : Nat) : Bool := (List.range 8).any (fun g =>
    bad g && decide (4 * b * j < 32 * (g + 1)) && decide (32 * g < 4 * b * (j + 1)))
  let fl := (List.range 8).foldl (fun fl j =>
    if outBad j then fl else fl.or (q.getD j (0, [], {})).2.2) ({} : Flg)
  ([.v f.vd { data := BitVec.ofNat 2048 data, poison := poisonBits bad },
    .g f.vb (BitVec.ofNat 64 (packBits 8 (q.map (·.1))))], fl)

/-- VQMX (R162 to R164). -/
def execVqmx (t : ThreadId) (cond : BitVec 4) (f : BitVec 52) (s : State) : Res :=
  .next (s.issueVec t.val cond (Body.qmxOk f) (fun th => th.quantise f))

def Body.dqmxOk (f : Body) : Bool :=
  (decide (f.et = 5) || decide (f.et = 6)) && !f.us && !f.zm && f.psel0 && f.zeroA true true false false true true
    && decide (f.mx ≤ 5) && decide (fld f 20 16 = 0) && groupOk f.vd (mxSpan f.et)

/-- VDQMX (R165): the element's value times 2^(scale - 127), rounded to ET. -/
def Thread.dequantise (th : Thread) (f : Body) : List RegWrite × Flg :=
  let w := etWidth f.et
  let fmt := etFmt f.et
  let b := (mxOf f.mx).bits
  let a := th.rv f.va
  let scales := th.rg f.rg
  let one (i : Nat) : Nat × Flg :=
    let sc := fld scales (8 * (i / 32) + 7) (8 * (i / 32))
    if sc = 0xFF then (fmt.qnan, {})
    else
      match mxDecode f.mx (fld a.data (b * i + b - 1) (b * i)) with
      | .fin n m e => fmt.round .rne (.fin n m (e + (sc : Int) - 127))
      | x => fmt.round .rne x
  let srcBad (i : Nat) : Bool := bit a.poison (b * i / 256) || bit a.poison ((b * i + b - 1) / 256)
  let regBad (r g : Nat) : Bool := (List.range (lanes w)).any (fun j => decide (j * w / 32 = g) && srcBad (r * lanes w + j))
  let reg (r : Nat) : RegWrite := .v (f.vd + r) {
    data := packLanes w ((List.range (lanes w)).map (fun j => (one (r * lanes w + j)).1))
    poison := poisonBits (regBad r) }
  ((List.range (mxSpan f.et)).map reg,
    (List.range 256).foldl (fun fl i =>
      if regBad (i / lanes w) (i % lanes w * w / 32) then fl else fl.or (one i).2) ({} : Flg))

/-- VDQMX (R165). -/
def execVdqmx (t : ThreadId) (cond : BitVec 4) (f : BitVec 52) (s : State) : Res :=
  .next (s.issueVec t.val cond (Body.dqmxOk f) (fun th => th.dequantise f))

/-- The fields of VBLKZ: US, which it does not use, is 0 (R151, R166). -/
def Body.blkzOk (f : Body) : Bool :=
  (decide (f.et = 0) || etFp f.et) && f.etOk && !f.us && !f.zm && f.psel0 && f.zeroA false true false false false true
    && groupOk f.va (mxSpan f.et)

/-- VBLKZ (R166): bit j of G[RG] says that block j holds only zeros. -/
def Thread.blockZero (th : Thread) (f : Body) : List RegWrite × Flg :=
  let w := etWidth f.et
  let zero (x : Nat) : Bool := if f.et = 0 then decide (x = 0) else decide (x % (etFmt f.et).sign = 0)
  let on (j : Nat) : Bool := (List.range 32).all (fun i => zero (th.groupLane w f.va (32 * j + i)))
  ([.g f.rg (BitVec.ofNat 64 (((List.range 8).map (fun j => if on j then 2 ^ j else 0)).sum))], {})

/-- VBLKZ (R166). -/
def execVblkz (t : ThreadId) (cond : BitVec 4) (f : BitVec 52) (s : State) : Res :=
  .next (s.issueVec t.val cond (Body.blkzOk f) (fun th => th.blockZero f))

end Sys2Proof.Machine
end

