-- ==== Sys2Proof/Machine/Tile.lean ====
section
/-! DEFINITION. The tile register file (R174 to R202): states, ownership, tile moves, TZERO, TREL, TCFG, TSYNC, bank
gating, and the vector moves VTRD and VTWR (R171). -/

namespace Sys2Proof.Machine

/-! ### Tiles and their attribute words -/

/-- Fields of the attribute word (TILE_ATTRj). -/
def atOwner (a : Word) : Nat := fld a 4 0
def atLent (a : Word) : Bool := bit a 8
def atState (a : Word) : Nat := fld a 11 9
def atFmt (a : Word) : Nat := fld a 19 16
def atSp24 (a : Word) : Bool := bit a 20
def atZb (a : Word) : Bool := bit a 21
def atSrow (a : Word) : Nat := fld a 26 22
def atSide (a : Word) : Nat := fld a 31 27
/-- The attribute word with another state. -/
def atWith (a : Word) (st : Nat) : Word := putFld a 11 9 st

/-- State codes (Table TIL-2). -/
def tEmpty : Nat := 0
def tLoading : Nat := 1
def tReady : Nat := 2
def tInUse : Nat := 3
def tDraining : Nat := 4

/-- Tile `j` of core `c`. -/
def State.tile (s : State) (c j : Nat) : Tile := kget {} (s.core c).tiles j
def State.setTile (s : State) (c j : Nat) (x : Tile) : State :=
  s.updCore c (fun k => { k with tiles := kset {} k.tiles j x })
def State.tileSt (s : State) (c j : Nat) : Nat := atState (s.tile c j).attr
/-- A tile is settled when it is EMPTY or READY (R176). -/
def State.settled (s : State) (c j : Nat) : Bool := decide (s.tileSt c j = tEmpty) || decide (s.tileSt c j = tReady)
/-- Row `r` of a tile. -/
def Tile.row (x : Tile) (r : Nat) : Row := kget {} x.rows r
/-- Accumulator `a` of core `c`. -/
def State.acc (s : State) (c a : Nat) : Acc := kget {} (s.core c).accs a
def State.setAcc (s : State) (c a : Nat) (x : Acc) : State :=
  s.updCore c (fun k => { k with accs := kset {} k.accs a x })
/-- Array `a` of core `c`. -/
def State.arr (s : State) (c a : Nat) : Arr := kget {} (s.core c).arrays a
def State.setArr (s : State) (c a : Nat) (x : Arr) : State :=
  s.updCore c (fun k => { k with arrays := kset {} k.arrays a x })

/-- A latch that holds tile `j` is emptied. -/
def latchDrop (j : Nat) : Option Latch → Option Latch
  | some l => if l.tile = j then none else some l
  | none => none
/-- Every reuse latch that holds tile `j` is invalidated (R201). -/
def State.unlatch (s : State) (c j : Nat) : State :=
  (List.range 2).foldl (fun s a =>
    let x := s.arr c a
    s.setArr c a { x with latchA := latchDrop j x.latchA, latchB := latchDrop j x.latchB }) s

/-- Give a tile another state; entering LOADING or DRAINING invalidates its latches (R201). -/
def State.tileTo (s : State) (c j st : Nat) : State :=
  let x := s.tile c j
  let s1 := s.setTile c j { x with attr := atWith x.attr st }
  if st = tLoading ∨ st = tDraining then s1.unlatch c j else s1

/-- A write begins: a tile that leaves EMPTY reads 0 wherever the write does not cover it (R178). -/
def State.tileOpen (s : State) (c j st : Nat) : State :=
  if s.tileSt c j = tEmpty then (s.setTile c j { s.tile c j with rows := [] }).tileTo c j st else s.tileTo c j st

/-- Write rows of a tile. -/
def State.tileRows (s : State) (c j : Nat) (rows : List (Nat × Row)) : State :=
  let x := s.tile c j
  s.setTile c j { x with rows := rows.foldl (fun m r => kset {} m r.1 r.2) x.rows }

/-! ### Banks (R202) -/

/-- The bank of a tile is powered. -/
def State.bankOn (s : State) (c j : Nat) : Bool := bit (s.core c).bankOn (j / 8)
/-- A gated bank named by an operation begins to wake. -/
def State.wakeBank (s : State) (c j : Nat) : State :=
  s.updCore c (fun k => { k with bankWake := putBit k.bankWake (j / 8) true })

/-- BANK_GATE (R202): the bank's eight tiles are EMPTY and none is owned by a CAD-class thread. -/
def execBankGate (c : CoreId) (b : Fin 4) (s : State) : Res :=
  let k := s.core c.val
  let ok (j : Nat) : Bool :=
    let o := atOwner (s.tile c.val j).attr
    decide (s.tileSt c.val j = tEmpty) && (decide (o ≥ 16) || decide ((s.thr (c.val * 16 + o)).pass ≠ .cad))
  .next (if k.gate && bit k.bankOn b.val && (List.range 8).all (fun i => ok (b.val * 8 + i)) then
      s.setCore c.val { k with bankOn := putBit k.bankOn b.val false, bankWake := putBit k.bankWake b.val false }
    else s)

/-- BANK_WAKE (R202): 40 cycles after an operation named the bank. -/
def execBankWake (c : CoreId) (b : Fin 4) (s : State) : Res :=
  let k := s.core c.val
  .next (if bit k.bankWake b.val then
      s.setCore c.val { k with bankOn := putBit k.bankOn b.val true, bankWake := putBit k.bankWake b.val false }
    else s)

/-! ### Fields (Table TIL-5) -/

def Body.tt (f : Body) : Nat := fld f 48 44
def Body.rgT (f : Body) : Nat := fld f 43 39
def Body.rsT (f : Body) : Nat := fld f 38 34
def Body.nr (f : Body) : Nat := fld f 33 29
def Body.resTM (f : Body) : Nat := fld f 28 24
def Body.ac (f : Body) : Bool := bit f 36
def Body.resTC (f : Body) : Nat := fld f 35 0
/-- FLD of TCFG. -/
def Body.fldT (f : Body) : Nat := fld f 38 37
/-- Form T-C of an instruction that uses TT only. -/
def Body.okTT (f : Body) : Bool := decide (f.psel = 0) && decide (f.rgT = 0) && decide (fld f 38 0 = 0)

/-- Index of a thread in its core. -/
def idxOf (t : Nat) : Nat := t % 16

/-- The thread owns the tile (R179). -/
def State.owns (s : State) (t j : Nat) : Bool := decide (atOwner (s.tile (coreOf t) j).attr = idxOf t)

/-! ### Moves -/

/-- The core's CORE section allots a CAD thread (R188). -/
def State.hasCad (s : State) (c : Nat) : Bool := decide ((s.core c).counts.getD 1 0 ≠ 0)

/-- A near-store port carries a tile move. -/
def State.portBusy (s : State) (c p : Nat) : Bool := (s.core c).moves.any (fun m => decide (m.port = some p))

/-- The near-store port of a move of thread `t`; `none` while it must hold TILE (R188). -/
def State.movePort (s : State) (t : Nat) : Option Nat :=
  let c := coreOf t
  if s.hasCad c then
    let p := if (s.thr t).cls = .cad then 0 else 1
    if s.portBusy c p then none else some p
  else if !s.portBusy c 0 then some 0 else if !s.portBusy c 1 then some 1 else none

/-- Address of row `r` (R186). -/
def Body.rowBase (f : Body) (th : Thread) : Word := th.rg f.rgT + sx64 24 f.offV
def Body.stride (f : Body) (th : Thread) : Nat := if f.rsT = 0 then 128 else (th.rg f.rsT).toNat % 2 ^ 24
def Body.rowAddr (f : Body) (th : Thread) (r : Nat) : Word := f.rowBase th + BitVec.ofNat 64 (r * f.stride th)

/-- The active rows from row `r` to NR (R185). -/
def Body.activeRows (f : Body) (th : Thread) (r : Nat) : List Nat :=
  (List.range 32).filter (fun i => decide (r ≤ i) && decide (i ≤ f.nr) && bit (th.rp f.psel).bits i)

/-- The rows of one step: those in the first row's 512-byte near-store row, at most 4 (R187). -/
def stepRows (f : Body) (th : Thread) : List Nat → List Nat
  | [] => []
  | r :: l => r :: ((l.takeWhile (fun i =>
      decide ((f.rowAddr th i).toNat / 512 = (f.rowAddr th r).toNat / 512))).take 3)

/-- Offset and leaf of a row address in the core's own near store, or the exception of R186. -/
def State.ownNear (s : State) (t : Nat) (k : Access) (va : Word) : Except Exc (Nat × Word) × State :=
  let r := s.dataXlat t k va
  match r.1 with
  | .fail _ _ => (.error (excOf exDataXlat va), r.2)
  | .ok leaf _ pa =>
    if s.isLocal pa && decide (s.place (localOf pa) = .near (coreOf t)) then (.ok (localOf pa, leaf), r.2)
    else (.error (excOf exIllOpnd), r.2)

/-- Memory row at address `a` as a tile row, poison with the bytes (R194). -/
def State.memRow (s : State) (a : Nat) (tag : BitVec 7) : Row :=
  { data := BitVec.ofNat 1024 (s.word a 128)
    poison := BitVec.ofNat 4 (((List.range 4).map (fun g => if s.bad (a / 32 + g) tag then 2 ^ g else 0)).sum) }

/-- One step of a move over rows `rs` whose first row stands at `a` (R187, R189, R190). -/
def State.moveStep (s : State) (t : Nat) (f : Body) (load : Bool) (leaf : Word) (a : Nat) (rs : List Nat) : State :=
  let th := s.thr t
  let c := coreOf t
  let acs : Acs := { cls := th.cls, tag := leafTag leaf, np := leafNp leaf }
  let r0 := rs.headD 0
  let addr (i : Nat) : Nat := a + (i - r0) * f.stride th
  if load then
    let got := rs.map (fun i => (i, s.memRow (addr i) acs.tag))
    let s1 := rs.foldl (fun s i => s.touch (addr i) 128 acs) s
    s1.updCore c (fun k => { k with moves := k.moves.map (fun m =>
      if m.thread = t ∧ m.open_ = true then { m with rows := m.rows ++ got } else m) })
  else
    rs.foldl (fun s i =>
      let row := (s.tile c f.tt).row i
      s.store (addr i) (toBytes 128 row.data.toNat) acs (fun g => bit row.poison (g - addr i / 32))) s

/-- Take the next step of an open move, and retire after the last (R187, R189 to R191). -/
def State.moveOn (s : State) (t : Nat) (f : Body) (load : Bool) : Act :=
  let th := s.thr t
  let rs := f.activeRows th th.sr.tsr.toNat
  match stepRows f th rs with
  | [] => .retire ((s.updThr t (fun h => { h with sr := { h.sr with tsr := 0 } })).closeMove t)
  | r0 :: l =>
    match s.ownNear t (if load then .read else .write) (f.rowAddr th r0) with
    | (.error e, s1) =>
      .exc ((s1.updThr t (fun h => { h with sr := { h.sr with tsr := BitVec.ofNat 5 r0 } })).closeMove t) e
    | (.ok (a, leaf), s1) =>
      let s2 := s1.moveStep t f load leaf a (r0 :: l)
      let last := (r0 :: l).getLastD r0
      if (f.activeRows th (last + 1)).isEmpty then
        .retire ((s2.updThr t (fun h => { h with sr := { h.sr with tsr := 0 } })).closeMove t)
      else .part (s2.updThr t (fun h => { h with sr := { h.sr with tsr := BitVec.ofNat 5 (last + 1) } }))

/-- Begin a move on port `p`. -/
def State.moveBegin (s : State) (t : Nat) (f : Body) (load : Bool) (p : Nat) : State :=
  let c := coreOf t
  let s1 := if load then s.tileOpen c f.tt tLoading else s.tileTo c f.tt tInUse
  s1.updCore c (fun k => { k with moves := k.moves ++
    [{ tile := f.tt, thread := t, port := some p, kind := if load then 0 else 1, open_ := true }] })

/-- TLOAD and TSTORE (R186 to R191): the TILE wait, the checks of R119's order, then one step a command. -/
def State.tileMove (s : State) (t : Nat) (f : Body) (load : Bool) : Act :=
  let th := s.thr t
  let c := coreOf t
  if th.strBusy then s.moveOn t f load
  else if s.owns t f.tt && load && !s.bankOn c f.tt then .hold (s.wakeBank c f.tt)
  else if s.owns t f.tt && !(if load then s.settled c f.tt else decide (s.tileSt c f.tt = tReady)) then .hold s
  else
    match s.movePort t with
    | none => .hold s
    | some p =>
      let tsr := th.sr.tsr.toNat
      if f.nr < tsr then .exc s (excOf exIllOpnd)
      else
        let start (s : State) : Act :=
          if s.owns t f.tt then (s.moveBegin t f load p).moveOn t f load else .exc s (excOf exTileOwner)
        let skew := decide ((f.rowBase th).toNat % 128 ≠ 0) || decide (f.stride th % 128 ≠ 0)
        match f.activeRows th tsr with
        | [] => if skew then .exc s (excOf exAlign (f.rowAddr th tsr)) else start s
        | r :: _ =>
          match s.ownNear t (if load then .read else .write) (f.rowAddr th r) with
          | (.error e, s1) =>
            if skew && decide (e.code ≠ exIllOpnd) then .exc s (excOf exAlign (f.rowAddr th tsr)) else .exc s1 e
          | (.ok _, s1) => if skew then .exc s (excOf exAlign (f.rowAddr th tsr)) else start s1

/-- TLOAD (R186 to R189, R191). -/
def execTload (t : ThreadId) (cond : BitVec 4) (f : BitVec 52) (s : State) : Res :=
  .next (s.issue t.val cond (decide (Body.resTM f = 0)) (fun s => s.tileMove t.val f true))

/-- TSTORE (R186 to R188, R190, R191). -/
def execTstore (t : ThreadId) (cond : BitVec 4) (f : BitVec 52) (s : State) : Res :=
  .next (s.issue t.val cond (decide (Body.resTM f = 0)) (fun s => s.tileMove t.val f false))

/-- TILE_MOVE_COMPLETES (R177, R189, R190, R193): the last row of a move that takes no further step lands, and the
tile is READY. -/
def execTileMoveCompletes (c : CoreId) (j : Fin 32) (s : State) : Res :=
  .next (match (s.core c.val).moves.find? (fun m => decide (m.tile = j.val) && !m.open_) with
    | none => s
    | some m =>
      ((s.updCore c.val (fun k => { k with moves := k.moves.filter (fun x => decide (x ≠ m)) })).tileRows
        c.val j.val m.rows).tileTo c.val j.val tReady)

/-! ### TZERO, TREL, TSYNC -/

/-- A write of rows that a thread does not wait for: the tile is LOADING until TILE_MOVE_COMPLETES. -/
def State.tilePut (s : State) (t j kind : Nat) (rows : List (Nat × Row)) : State :=
  (s.tileOpen (coreOf t) j tLoading).updCore (coreOf t) (fun k => { k with moves := k.moves ++
    [{ tile := j, thread := t, port := none, kind := kind, rows := rows }] })

/-- What TZERO does: its owner check, its TILE wait, its write. -/
def State.tzero (s : State) (t : Nat) (f : Body) : Act :=
  let c := coreOf t
  let j := f.tt
  if !s.owns t j then .exc s (excOf exTileOwner)
  else if !s.bankOn c j then .hold (s.wakeBank c j)
  else if !s.settled c j then .hold s
  else .retire ((s.setTile c j { s.tile c j with rows := [] }).tilePut t j 2 [])

/-- TZERO (R193). -/
def execTzero (t : ThreadId) (cond : BitVec 4) (f : BitVec 52) (s : State) : Res :=
  .next (s.issue t.val cond (Body.okTT f) (fun s => s.tzero t.val f))

/-- A tile becomes EMPTY, no longer lent, with its latches invalidated (R183). -/
def State.tileRelease (s : State) (c j : Nat) : State :=
  (s.setTile c j { rows := [], attr := putBit (atWith (s.tile c j).attr tEmpty) 8 false }).unlatch c j

/-- What TREL does: it waits until its tile is settled. -/
def State.trel (s : State) (t : Nat) (f : Body) : Act :=
  let c := coreOf t
  let j := f.tt
  if !s.owns t j then .exc s (excOf exTileOwner)
  else if !s.settled c j then .hold s
  else .retire (s.tileRelease c j)

/-- TREL (R183). -/
def execTrel (t : ThreadId) (cond : BitVec 4) (f : BitVec 52) (s : State) : Res :=
  .next (s.issue t.val cond (Body.okTT f) (fun s => s.trel t.val f))

/-- TSYNC (R195, R127): SYNC holds while tile operations of the thread have not completed. -/
def execTsync (t : ThreadId) (cond : BitVec 4) (f : BitVec 52) (s : State) : Res :=
  .next (s.issue t.val cond (decide (f = 0)) (fun s => if s.tileWork t.val then .hold s else .deliver s))

/-! ### TCFG (R181, R182) -/

/-- Bits that TCFG's action 1 writes: SIDE, SROW, ZB, SP24, FMT and LENT. -/
def attrMask : Word := 0xFFFF0100#64

/-- Form T-C of TCFG; with AC, TT[4:2] must be 0. -/
def Body.okTcfg (f : Body) : Bool := decide (f.psel = 0) && decide (f.resTC = 0) && (!f.ac || decide (f.tt < 4))

/-- FMT and SP24 of an attribute word may be written (Table TIL-4). -/
def attrOk (g : Word) : Bool :=
  !(decide (10 ≤ atFmt g) && decide (atFmt g ≤ 14)) && !(atSp24 g && (decide (atFmt g = 8) || decide (atFmt g = 9) || decide (atFmt g = 15)))

/-- Owner of the tile or accumulator that TCFG names. -/
def State.cfgOwner (s : State) (t : Nat) (f : Body) : Nat :=
  if f.ac then (s.acc (coreOf t) f.tt).owner else atOwner (s.tile (coreOf t) f.tt).attr

/-- Some operation on an accumulator has not completed (R182). -/
def State.accBusy (s : State) (c a : Nat) : Bool :=
  let on (o : Option ArrOp) : Bool := match o with
    | some x => decide (x.acc = a)
    | none => false
  on (s.arr c (a / 2)).busy || on (s.arr c (a / 2)).waiting || (s.arr c (a / 2)).tail.any (fun x => decide (x.acc = a))

/-- An owner is allotted to another partition than the issuer (Table TIL-4). -/
def State.alien (s : State) (t o : Nat) : Bool :=
  let c := coreOf t
  decide (o < 16) && decide ((s.thr (c * 16 + o)).st ≠ .unallotted) && decide ((s.core (coreOf (c * 16 + o))).part ≠ (s.core c).part)

/-- The exception of a TCFG with action `fl`, in the order of R119 (R181). -/
def State.cfgExc (s : State) (t : Nat) (f : Body) (fl : Nat) : Option Exc :=
  let th := s.thr t
  let g := th.rg f.rgT
  let u := decide (stPriv th.sr.st = 0)
  let o := s.cfgOwner t f
  if decide (fl ≥ 2) && u then some (excOf exPriv)
  else if decide (fl % 2 = 1) && (f.ac || !attrOk g) then some (excOf exIllOpnd)
  else if decide (fl ≥ 2) && decide (16 ≤ atOwner g) && decide (atOwner g ≤ 30) then some (excOf exIllOpnd)
  else if decide (fl ≥ 2) && (s.alien t o || s.alien t (atOwner g)) then some (excOf exTileOwner)
  else if decide (fl < 2) && u && decide (o ≠ idxOf t) then some (excOf exTileOwner)
  else none

/-- The attribute word after action `fl` with value `g` (Table TIL-4). -/
def attrAfter (a g : Word) (fl : Nat) : Word :=
  let a1 := if fl % 2 = 1 then (a &&& ~~~attrMask) ||| (g &&& attrMask) else a
  if fl ≥ 2 then putBit (putFld a1 4 0 (atOwner g)) 8 false else a1

/-- TCFG changes OWNER or clears LENT (Table TIL-3). -/
def cfgSettles (a g : Word) (fl : Nat) : Bool := decide (fl ≥ 2) || (atLent a && !atLent g)

/-- What TCFG with action `fl` does. -/
def State.tcfgAct (s : State) (t : Nat) (f : Body) (fl : Nat) : Act :=
  let th := s.thr t
  let c := coreOf t
  let g := th.rg f.rgT
  match s.cfgExc t f fl with
  | some e => .exc s e
  | none =>
    if !f.ac && !s.bankOn c f.tt then .hold (s.wakeBank c f.tt)
    else if fl = 0 then
      let v : Word := if f.ac then BitVec.ofNat 64 (s.acc c f.tt).owner else (s.tile c f.tt).attr
      .retire (s.updThr t (fun h => h.pendBy 3 .ready [.g f.rgT v]))
    else if f.ac then
      if s.accBusy c f.tt then .hold s else .retire (s.setAcc c f.tt { s.acc c f.tt with owner := atOwner g })
    else if cfgSettles (s.tile c f.tt).attr g fl && !s.settled c f.tt then .hold s
    else .retire ((s.setTile c f.tt { s.tile c f.tt with attr := attrAfter (s.tile c f.tt).attr g fl }).unlatch c f.tt)

/-- TCFG with action `fl`; a body whose FLD names another action is no word of the command (log 5). -/
def State.tcfg (s : State) (t : Nat) (cond : BitVec 4) (f : Body) (fl : Nat) : State :=
  if otherOp f.fldT fl 4 then s else s.issue t cond f.okTcfg (fun s => s.tcfgAct t f fl)

/-- TCFG_READ: action 0. -/
def execTcfgRead (t : ThreadId) (cond : BitVec 4) (f : BitVec 52) (s : State) : Res := .next (s.tcfg t.val cond f 0)
/-- TCFG_ATTR: action 1. -/
def execTcfgAttr (t : ThreadId) (cond : BitVec 4) (f : BitVec 52) (s : State) : Res := .next (s.tcfg t.val cond f 1)
/-- TCFG_OWNER: action 2. -/
def execTcfgOwner (t : ThreadId) (cond : BitVec 4) (f : BitVec 52) (s : State) : Res := .next (s.tcfg t.val cond f 2)
/-- TCFG_OWNER_ATTR: action 3. -/
def execTcfgOwnerAttr (t : ThreadId) (cond : BitVec 4) (f : BitVec 52) (s : State) : Res := .next (s.tcfg t.val cond f 3)

/-! ### VTRD and VTWR (R171) -/

/-- A vector register from two rows of a tile. -/
def rowsToV (x y : Row) : VReg :=
  { data := BitVec.ofNat 2048 (x.data.toNat + 2 ^ 1024 * y.data.toNat)
    poison := BitVec.ofNat 8 (x.poison.toNat + 16 * y.poison.toNat) }

/-- FN names an even row in its low 5 bits and the unused fields are 0; ET sets only the predicate granularity (R151,
R171). -/
def Body.okRowFn (f : Body) : Bool :=
  decide (f.fn < 32) && decide (f.fn % 2 = 0) && decide (f.et ≠ 7) && !f.us
    && decide (f.rg = 0) && decide (f.vb = 0) && decide (f.resA = 0)

/-- The bytes of `new` where the governing predicate is active, else those of `old` or 0 (R145, R149). -/
def Thread.govern (th : Thread) (f : Body) (old new : VReg) : VReg :=
  let w := etWidth f.et
  (lanewise w (th.rp f.psel) f.zm old (fun g => bit new.poison g) (fun k => (laneOf w new.data k, {}))).1

/-- What VTRD does: rows r and r + 1 of the tile VA to VD. -/
def State.vtrd (s : State) (t : Nat) (f : Body) : Act :=
  let c := coreOf t
  let j := f.va
  if !s.owns t j then .exc s (excOf exTileOwner)
  else if s.tileSt c j ≠ tReady then .hold s
  else
    let x := s.tile c j
    let th := s.thr t
    let v := th.govern f (th.rv f.vd) (rowsToV (x.row f.fn) (x.row (f.fn + 1)))
    .retire (((s.tileTo c j tInUse).updCore c (fun k => { k with moves := k.moves ++
        [{ tile := j, thread := t, port := none, kind := 4 }] })).updThr t
      (fun h => h.pendV [.v f.vd v]))

/-- VTRD (R171). -/
def execVtrd (t : ThreadId) (cond : BitVec 4) (f : BitVec 52) (s : State) : Res :=
  .next (s.issue t.val cond (Body.okRowFn f && decide (Body.vc f = 0)) (fun s => s.vtrd t.val f))

/-- What VTWR does: VD to rows r and r + 1 of the tile VC; a gated bank that it names wakes (R202). -/
def State.vtwr (s : State) (t : Nat) (f : Body) : Act :=
  let c := coreOf t
  let j := f.vc
  if !s.owns t j then .exc s (excOf exTileOwner)
  else if !s.bankOn c j then .hold (s.wakeBank c j)
  else if s.tileSt c j ≠ tReady then .hold s
  else
    let x := s.tile c j
    let th := s.thr t
    let v := th.govern f (rowsToV (x.row f.fn) (x.row (f.fn + 1))) (th.rv f.vd)
    let lo : Row := { data := v.data.extractLsb' 0 1024, poison := v.poison.extractLsb' 0 4 }
    let hi : Row := { data := v.data.extractLsb' 1024 1024, poison := v.poison.extractLsb' 4 4 }
    .retire (s.tilePut t j 3 [(f.fn, lo), (f.fn + 1, hi)])

/-- VTWR (R171). -/
def execVtwr (t : ThreadId) (cond : BitVec 4) (f : BitVec 52) (s : State) : Res :=
  .next (s.issue t.val cond (Body.okRowFn f && decide (Body.va f = 0)) (fun s => s.vtwr t.val f))

end Sys2Proof.Machine
end

