-- ==== Sys2Proof/Machine/Array.lean ====
section
/-! DEFINITION. The matrix arrays (R203 to R244): forms, checks at issue, side data, group sums, TEW, and the
begin and completion of an operation. -/

namespace Sys2Proof.Machine

/-! ### Form T-A (Table ARR-1) -/

def Body.tb (f : Body) : Nat := fld f 43 39
def Body.acA (f : Body) : Nat := fld f 38 37
def Body.modeA (f : Body) : Nat := fld f 36 34
def Body.clr (f : Body) : Bool := bit f 33
def Body.resTA (f : Body) : Nat := fld f 32 0

/-- Bits 0 to 31 of the predicate: the active rows (R209). -/
def Thread.rowMask (th : Thread) (f : Body) : BitVec 32 := BitVec.ofNat 32 ((th.rp f.psel).bits.toNat % 2 ^ 32)

/-! ### Formats and side data -/

/-- Bits of an element (Table TIL-1). -/
def elBits (fmt : Nat) : Nat :=
  match fmt with
  | 0 => 4
  | 1 => 6
  | 2 => 6
  | 3 => 8
  | 4 => 8
  | 5 => 8
  | _ => 16
/-- Elements of a row. -/
def elRow (fmt : Nat) : Nat :=
  match fmt with
  | 0 => 256
  | 6 => 64
  | 7 => 64
  | _ => 128
/-- Blocks that a row of a tile covers; twice as many when it is compressed. -/
def rowBlocks (a : Word) : Nat := elRow (atFmt a) / 32 * (if atSp24 a then 2 else 1)
/-- Products per cell and cycle (Table ARR-2); 0 for a pair that is not permitted. -/
def pairG (mode fa fb : Nat) : Nat :=
  if mode % 2 = 1 then (if fa = 5 ∧ fb = 5 then 8 else 0)
  else if fa = 0 ∧ fb = 0 then 16
  else if 1 ≤ fa ∧ fa ≤ 5 ∧ 1 ≤ fb ∧ fb ≤ 5 then 8
  else if 6 ≤ fa ∧ fa ≤ 7 ∧ 6 ≤ fb ∧ fb ≤ 7 then 4 else 0

/-- Bytes per operand row of the scales, bitmap and metadata sections (Table SPA-1). -/
def scaleBytes (a : Word) : Nat := if atFmt a ≤ 5 then rowBlocks a else 0
def mapBytes (a : Word) : Nat := if atZb a then (if rowBlocks a > 8 then 2 else 1) else 0
def metaBytes (a : Word) : Nat := if atSp24 a then elRow (atFmt a) / 4 else 0
/-- The side region runs past its tile (R238). -/
def sideOver (a : Word) : Bool := decide (atSrow a * 128 + 32 * (scaleBytes a + mapBytes a + metaBytes a) > 4096)
/-- The TMMA reads side data of the operand (R215). -/
def readsSide (a : Word) (mode : Nat) (isB : Bool) : Bool :=
  (decide (atFmt a ≤ 5) && decide (mode % 2 = 0)) || atZb a || (isB && decide (mode ≥ 2))

/-- Byte `b` of a tile. -/
def Tile.byte (x : Tile) (b : Nat) : Nat := fld (x.row (b / 128)).data (8 * (b % 128) + 7) (8 * (b % 128))
/-- The granule of byte `b` is poisoned. -/
def Tile.bad (x : Tile) (b : Nat) : Bool := bit (x.row (b / 128)).poison (b % 128 / 32)

/-- Offsets in the side tile: scale of block `j`, bitmap byte of block `j`, metadata byte of K position group `t`,
each of operand row `r` (R237). -/
def scaleAt (a : Word) (r j : Nat) : Nat := atSrow a * 128 + r * scaleBytes a + j
def mapAt (a : Word) (r j : Nat) : Nat := atSrow a * 128 + 32 * scaleBytes a + r * mapBytes a + j / 8
def metaAt (a : Word) (r t : Nat) : Nat := atSrow a * 128 + 32 * (scaleBytes a + mapBytes a) + r * metaBytes a + t / 2

/-! ### Operands -/

/-- One operand tile as an operation reads it: attributes at issue, data, side tile, first block of K it covers. -/
structure Opd where
  a : Word
  x : Tile
  side : Tile
  b0 : Nat
  comp : Bool
  /-- slabs whose parity fails (R235) -/
  faults : List Nat := []
  deriving DecidableEq, Repr

/-- Block `j` (counted from the operand's first) of row `r` is marked zero (R217). -/
def Opd.marked (o : Opd) (r j : Nat) : Bool :=
  atZb o.a && decide (o.side.byte (mapAt o.a r j) / 2 ^ (j % 8) % 2 = 1)

/-- Block column `j` is marked in all 32 rows (R225). -/
def Opd.allMarked (o : Opd) (j : Nat) : Bool := (List.range 32).all (fun r => o.marked r j)

/-- Code of element `i` of row `r` (R175). -/
def Opd.code (o : Opd) (r i : Nat) : Nat :=
  let w := elBits (atFmt o.a)
  fld (o.x.row r).data (w * i + w - 1) (w * i)

/-- K position of kept element `i` of a compressed row (R218); of a dense row, its own. -/
def Opd.pos (o : Opd) (r i : Nat) : Nat :=
  if o.comp then
    let t := i / 2
    let nib := o.side.byte (metaAt o.a r t) / 16 ^ (t % 2) % 16
    4 * t + (if i % 2 = 0 then nib % 4 else nib / 4)
  else o.b0 * 32 + i

/-- Value of element `i` of row `r` without its scale, NaN under the scale byte 0xFF, +0 in a marked block (R216,
R217). -/
def Opd.val (o : Opd) (mode r i : Nat) : FV :=
  let j := o.pos r i / 32 - o.b0
  let c := o.code r i
  if o.marked r j then .fin false 0 0
  else
    match atFmt o.a with
    | 6 => bf16.decode c
    | 7 => fp16.decode c
    | f =>
      if mode % 2 = 1 then
        let v := signed 8 c
        .fin (decide (v < 0)) v.natAbs 0
      else if o.side.byte (scaleAt o.a r j) = 0xFF then .nan
      else mxDecode f c

/-- Exponent of the scale of block `j` of row `r`, 0 where none is read. -/
def Opd.scale (o : Opd) (mode r j : Nat) : Int :=
  if atFmt o.a ≤ 5 ∧ mode % 2 = 0 then (o.side.byte (scaleAt o.a r j) : Int) - 127 else 0

/-- Bytes of the data of block `j` in a row: from and count. -/
def Opd.blockBytes (o : Opd) (j : Nat) : Nat × Nat :=
  let w := elBits (atFmt o.a)
  let per := if o.comp then 16 else 32
  (j * per * w / 8, per * w / 8)

/-- Slab `k` of an operand holds bytes of block `j` (R226). -/
def Opd.slabHas (o : Opd) (k j : Nat) : Bool :=
  let nb := rowBlocks o.a
  decide (j * 8 / nb ≤ k) && decide (k < ((j + 1) * 8 + nb - 1) / nb)

/-- Poison that row `r` carries into its outputs: of its bitmap bits over all its blocks, for they decide the skip; of its
elements, scales and metadata over the blocks that are not skipped; a parity error is poison on the slab's rows (R217,
R235, R236). -/
def Opd.poisoned (o : Opd) (mode r : Nat) (skip : Nat → Bool) : Bool :=
  (List.range (rowBlocks o.a)).any (fun j =>
    (atZb o.a && o.side.bad (mapAt o.a r j)) || !skip (o.b0 + j) &&
      ((!o.marked r j && ((List.range (o.blockBytes j).2).any (fun i => o.x.bad (r * 128 + (o.blockBytes j).1 + i))
            || o.faults.any (fun k => o.slabHas k j)))
        || (decide (atFmt o.a ≤ 5) && decide (mode % 2 = 0) && o.side.bad (scaleAt o.a r j))
        || (o.comp && (List.range 8).any (fun i => o.side.bad (metaAt o.a r (8 * j + i))))))

/-! ### Group sums (R219 to R222) -/

/-- floor(log2) of a finite value that is not 0. -/
def FV.log2 : FV → Int
  | .fin _ m e => Nat.log2 m + e
  | _ => 0

/-- A finite value truncated toward zero to a multiple of 2^q. -/
def FV.trunc (q : Int) : FV → FV
  | .fin n m e => if q ≤ e then .fin n m e else .fin n (m / pow2 (q - e)) q
  | x => x

/-- Sum of exact values. -/
def fvSum (l : List FV) : FV := l.foldl FV.add (.fin false 0 0)

/-- Group sum of the BF16 and FP16 path: products truncated 48 places below the largest (R221). -/
def bfSum (l : List FV) : FV :=
  match (l.filter (fun p => !p.isZero && !p.isNaN && !p.isInf)).map FV.log2 with
  | [] => fvSum l
  | e :: es => fvSum (l.map (FV.trunc (es.foldl max e - 48)))

/-- accumulate of R222. -/
def accumulate (a : BitVec 32) (s : FV) : BitVec 32 :=
  let v := val32 a
  if v.isNaN || s.isNaN then 0x7FC00000#32
  else if s.isZero && !v.isInf then a
  else rne32 (v.add s)

/-- add_int of R222, with OF. -/
def addInt (a : BitVec 32) (s : Int) : BitVec 32 × Bool :=
  let t := a.toInt + s
  if t > 2 ^ 31 - 1 then (0x7FFFFFFF#32, true)
  else if t < -(2 ^ 31) then (0x80000000#32, true)
  else (BitVec.ofInt 32 t, false)

/-- The integer of a finite value with unit exponent 0. -/
def fvInt : FV → Int
  | .fin n m e => finInt n m e 0
  | _ => 0

/-- One product of a group: its group, A value and B value. -/
structure Prod where
  g : Nat
  x : FV
  y : FV
  deriving DecidableEq, Repr

/-- The products of cell (m, n), in ascending group order for the elements of B's row n: `as` are the A operand tiles,
`w` the K positions of a group. -/
def cellProds (mode w : Nat) (as : List Opd) (b : Opd) (skip : Nat → Bool) (m n : Nat) : List Prod :=
  ((List.range (elRow (atFmt b.a))).filter (fun i => !skip (b.pos n i / 32))).filterMap (fun i =>
    let p := b.pos n i
    (as.find? (fun o => decide (o.b0 * 32 ≤ p) && decide (p < o.b0 * 32 + elRow (atFmt o.a)))).map
      (fun o => ⟨p / w, o.val mode m (p - o.b0 * 32), b.val mode n i⟩))

/-- The scale exponent of group `g`. -/
def groupScale (mode w : Nat) (as : List Opd) (b : Opd) (m n g : Nat) : Int :=
  let j := g * w / 32
  let sa := match as.find? (fun o => decide (o.b0 ≤ j) && decide (j < o.b0 + rowBlocks o.a)) with
    | some o => o.scale mode m (j - o.b0)
    | none => 0
  sa + b.scale mode n j

/-- Unit exponent of the products of a pair (R216, R220). -/
def unitOf (mode fa fb : Nat) : Int := if mode % 2 = 1 then 0 else mxUnit fa + mxUnit fb

/-- A sum with the error `d`, in units of 2^q, that an upset leaves in it (R234). -/
def FV.off (q d : Int) (x : FV) : FV := if d = 0 then x else x.add (.fin (decide (d < 0)) d.natAbs q)

/-- Accumulate the groups of a cell in ascending K order (R219); the flag is add_int's saturation. `err g` is the error of
the integer S of group `g` (R234). -/
def cellSum (mode w groups : Nat) (as : List Opd) (b : Opd) (skip : Nat → Bool) (err : Nat → Int) (m n : Nat)
    (a0 : BitVec 32) : BitVec 32 × Bool :=
  let ps := cellProds mode w as b skip m n
  ((List.range groups).filter (fun g => !skip (g * w / 32))).foldl (fun r g =>
    let prods := (ps.filter (fun p => decide (p.g = g))).map (fun p => p.x.mul p.y)
    if mode % 2 = 1 then
      let x := addInt r.1 ((prods.map fvInt).sum + err g)
      (x.1, r.2 || x.2)
    else if atFmt b.a ≥ 6 then (accumulate r.1 (bfSum prods), r.2)
    else
      let q := unitOf mode (atFmt ((as.map (·.a)).headD 0)) (atFmt b.a)
      (accumulate r.1 (((fvSum prods).off q (err g)).mul (.fin false 1 (groupScale mode w as b m n g))), r.2)) (a0, false)

/-- The residue modulo 7 that the operands predict for the integer S of group `g` of cell (m, n); `none` for a group that
the array does not check: off the integer path, skipped, or with NaN or infinity among its pairs (R220, R234). -/
def residue (mode w : Nat) (as : List Opd) (b : Opd) (skip : Nat → Bool) (m n g : Nat) : Option Nat :=
  let ps := (cellProds mode w as b skip m n).filter (fun p => decide (p.g = g))
  let fa := atFmt ((as.map (·.a)).headD 0)
  let u (f : Nat) : FV → Int
    | .fin ng k e => finInt ng k e (if mode % 2 = 1 then 0 else mxUnit f)
    | _ => 0
  if decide (atFmt b.a ≥ 6) || skip (g * w / 32)
      || ps.any (fun p => p.x.isNaN || p.x.isInf || p.y.isNaN || p.y.isInf) then none
  else some (((ps.map (fun p => u fa p.x % 7 * (u (atFmt b.a) p.y % 7))).sum % 7).toNat)

/-! ### Rows of results -/

/-- Word `n` of a row. -/
def Row.wd (r : Row) (n : Nat) : BitVec 32 := BitVec.ofNat 32 (fld r.data (32 * n + 31) (32 * n))
/-- A row from its 32 words. -/
def packRow (l : List (BitVec 32)) : BitVec 1024 := BitVec.ofNat 1024 (l.foldr (fun x acc => x.toNat + 2 ^ 32 * acc) 0)
/-- Four poison bits from a test. -/
def poison4 (p : Nat → Bool) : BitVec 4 :=
  BitVec.ofNat 4 (((List.range 4).map (fun g => if p g then 2 ^ g else 0)).sum)

/-- Rows and flags that an operation forms. -/
structure Formed where
  rows : KMap Row
  nv : Bool
  ofl : Bool
  deriving DecidableEq, Repr

/-- Form the active rows of an accumulator: `cell m n` gives a word with its saturation, `bad m g` the poison. -/
def formRows (act : BitVec 32) (old : KMap Row) (fp : Bool) (cell : Nat → Nat → BitVec 32 × Bool) (bad : Nat → Nat → Bool) :
    Formed :=
  ((List.range 32).filter (fun m => bit act m)).foldl (fun (r : Formed) m =>
    let ws := (List.range 32).map (cell m)
    let vs := ws.map (fun x => val32 x.1)
    { rows := kset {} r.rows m { data := packRow (ws.map (·.1)), poison := poison4 (bad m) }
      nv := r.nv || (fp && vs.any FV.isNaN)
      ofl := r.ofl || (fp && vs.any FV.isInf) || ws.any (·.2) }) { rows := old, nv := false, ofl := false }

/-- One TEW result (R233). -/
def tewWord (op : Nat) (a x x0 : BitVec 32) : BitVec 32 :=
  match op with
  | 0 => rne32 ((val32 a).add (val32 x))
  | 1 => rne32 ((val32 a).mul (val32 x))
  | 2 => rne32 ((val32 a).max (val32 x))
  | _ => rne32 ((val32 a).mul (val32 x0))

/-! ### Tiles of a TMMA (R212 to R215, R238) -/

/-- The operand tiles of a TMMA: its A tiles, then TB. -/
def tmmaTiles (mode ta tb : Nat) : List Nat := if mode ≥ 2 then [ta, ta + 1, tb] else [ta, tb]

/-- ILL_OPND of a TMMA (R212, R213, R238): `at j` are the attributes. -/
def tmmaBad (at_ : Nat → Word) (mode ta tb : Nat) : Bool :=
  let sp := decide (mode ≥ 2)
  let a := at_ ta
  let b := at_ tb
  decide (pairG mode (atFmt a) (atFmt b) = 0) || (atSp24 b != sp) || atSp24 a
    || (sp && (decide (ta % 2 = 1) || decide (tb = ta) || decide (tb = ta + 1)
        || decide (atFmt (at_ (ta + 1)) ≠ atFmt a) || atSp24 (at_ (ta + 1))))
    || (tmmaTiles mode ta tb).any (fun j => sideOver (at_ j)
        || (readsSide (at_ j) mode (decide (j = tb)) && decide (atFmt (at_ (atSide (at_ j))) ≠ 15)))

/-- Side tiles that a TMMA reads. -/
def tmmaSides (at_ : Nat → Word) (mode ta tb : Nat) : List Nat :=
  ((tmmaTiles mode ta tb).filter (fun j => readsSide (at_ j) mode (decide (j = tb)))).map (fun j => atSide (at_ j))

/-! ### Reuse latches (R201) -/

/-- The latch side that serves each operand tile that the feeder reads: 0 A side, 1 B side, 2 none. -/
def ArrOp.reads (o : ArrOp) : List (Nat × Nat) :=
  match o.kind with
  | .tmma mode _ =>
    if mode ≥ 2 then [(2, o.ta), (2, o.ta + 1), (1, o.tb)]
    else if o.ta = o.tb then [(0, o.ta)] else [(0, o.ta), (1, o.tb)]
  | .tew _ => [(0, o.ta)]
  | .tldacc => [(2, o.ta)]
  | .tdrain => []

/-- The latch of a side. -/
def Arr.latch (x : Arr) : Nat → Option Latch
  | 0 => x.latchA
  | 1 => x.latchB
  | _ => none

/-- A latch serves the tile. -/
def Arr.hit (x : Arr) (en : Bool) (side j : Nat) : Bool :=
  en && (match x.latch side with
    | some l => decide (l.tile = j)
    | none => false)

/-- Fill the latch of a side. -/
def Arr.fillLatch (x : Arr) (side : Nat) (l : Latch) : Arr :=
  match side with
  | 0 => { x with latchA := some l }
  | 1 => { x with latchB := some l }
  | _ => x

/-- Side tiles of an operation (R215). -/
def ArrOp.sides (o : ArrOp) : List Nat :=
  match o.kind with
  | .tmma mode _ => tmmaSides (fun j => if j = o.tb then o.attrB else if j = o.ta then o.attrA else o.attrA1) mode o.ta o.tb
  | _ => []

/-- Tiles that an operation writes. -/
def ArrOp.dest (o : ArrOp) : List Nat :=
  match o.kind with
  | .tdrain => [o.ta]
  | _ => []

/-- Sources read from the tile file: operand tiles that no latch serves, and side tiles. -/
def State.arrSources (s : State) (c a : Nat) (o : ArrOp) : List Nat :=
  let x := s.arr c a
  ((o.reads.filter (fun r => !x.hit (s.core c).latch r.1 r.2)).map (·.2) ++ o.sides).foldl insertNat []

/-- The tiles of the operation are in the states of Table TIL-3 (R177, R228): a latch serves its operand as READY (R201), a
side tile is a source (R215), and the bank of a destination is on (R202). -/
def State.arrReady (s : State) (c a : Nat) (o : ArrOp) : Bool :=
  (s.arrSources c a o).all (fun j => decide (s.tileSt c j = tReady))
    && (match o.kind with
      | .tdrain => s.settled c o.ta && s.bankOn c o.ta
      | _ => true)

/-! ### Issue (R205 to R215, R233, R238) -/

/-- The exception of an array operation at issue, in the order of R119: every named tile must be owned. -/
def State.arrExc (s : State) (t a : Nat) (bad : Bool) (tiles : List Nat) : Option Exc :=
  if bad then some (excOf exIllOpnd)
  else if (s.acc (coreOf t) a).owner ≠ idxOf t ∨ tiles.any (fun j => !s.owns t j) = true then some (excOf exTileOwner)
  else none

/-- A gated bank of the operation's destination begins to wake (R202). -/
def State.wakeDest (s : State) (c : Nat) (o : ArrOp) : State :=
  match o.kind with
  | .tdrain => if s.bankOn c o.ta then s else s.wakeBank c o.ta
  | _ => s

/-- Issue an array operation: TILE holds while the array has one waiting, and until the operation's tiles are in state; then
it waits in the array, and the instruction retires (R177, R205 to R207, log 61). -/
def State.arrIssue (s : State) (t : Nat) (bad : Bool) (tiles : List Nat) (op : ArrOp) : Act :=
  let c := coreOf t
  let x := s.arr c (op.acc / 2)
  if x.waiting.isSome then .hold s
  else
    match s.arrExc t op.acc bad tiles with
    | some e => .exc s e
    | none =>
      if s.arrReady c (op.acc / 2) op then .retire (s.setArr c (op.acc / 2) { x with waiting := some op })
      else .hold (s.wakeDest c op)

/-- An operation of thread `t` with the attributes of its tiles as they stand. -/
def State.arrOp (s : State) (t : Nat) (f : Body) (kind : ArrKind) : ArrOp :=
  let c := coreOf t
  let at_ (j : Nat) : Word := (s.tile c j).attr
  { kind := kind, ta := f.tt, tb := f.tb, acc := f.acA, attrA := at_ f.tt, attrA1 := at_ (f.tt + 1), attrB := at_ f.tb
    rows := (s.thr t).rowMask f, thread := t, pc := (s.thr t).pc }

/-- What TMMA does at issue. -/
def State.tmmaAct (s : State) (t : Nat) (f : Body) : Act :=
  let at_ (j : Nat) : Word := (s.tile (coreOf t) j).attr
  s.arrIssue t (tmmaBad at_ f.modeA f.tt f.tb) (tmmaTiles f.modeA f.tt f.tb ++ tmmaSides at_ f.modeA f.tt f.tb)
    (s.arrOp t f (.tmma f.modeA f.clr))

/-- TMMA (R208 to R215, R219). -/
def execTmma (t : ThreadId) (cond : BitVec 4) (f : BitVec 52) (s : State) : Res :=
  .next (s.issue t.val cond (decide (Body.modeA f < 4) && decide (Body.resTA f = 0)) (fun s => s.tmmaAct t.val f))

/-- Fields of TLDACC and TDRAIN that must be 0 (Table ARR-1). -/
def Body.okAcc (f : Body) : Bool :=
  decide (f.psel = 0) && decide (f.tb = 0) && decide (f.modeA = 0) && !f.clr && decide (f.resTA = 0)

/-- What TLDACC and TDRAIN do at issue. -/
def State.tldaccAct (s : State) (t : Nat) (f : Body) : Act := s.arrIssue t false [f.tt] (s.arrOp t f .tldacc)
def State.tdrainAct (s : State) (t : Nat) (f : Body) : Act := s.arrIssue t false [f.tt] (s.arrOp t f .tdrain)

/-- TLDACC (R204, R231). -/
def execTldacc (t : ThreadId) (cond : BitVec 4) (f : BitVec 52) (s : State) : Res :=
  .next (s.issue t.val cond (Body.okAcc f) (fun s => s.tldaccAct t.val f))

/-- TDRAIN (R204, R231). -/
def execTdrain (t : ThreadId) (cond : BitVec 4) (f : BitVec 52) (s : State) : Res :=
  .next (s.issue t.val cond (Body.okAcc f) (fun s => s.tdrainAct t.val f))

/-- What TEW with operation `op` does at issue: the operand tile has FMT 8. -/
def State.tewAct (s : State) (t : Nat) (f : Body) (op : Nat) : Act :=
  s.arrIssue t (decide (atFmt (s.tile (coreOf t) f.tt).attr ≠ 8)) [f.tt] (s.arrOp t f (.tew op))

/-- TEW with operation `op` (R233): OP 4 to 7 is illegal, and a body whose OP names another operation is no word of the
command (log 5). -/
def State.tew (s : State) (t : Nat) (cond : BitVec 4) (f : Body) (op : Nat) : State :=
  if otherOp f.modeA op 4 then s
  else s.issue t cond (decide (f.modeA < 4) && decide (f.tb = 0) && !f.clr && decide (f.resTA = 0)) (fun s => s.tewAct t f op)

/-- TEW ADD (R233). -/
def execTewAdd (t : ThreadId) (cond : BitVec 4) (f : BitVec 52) (s : State) : Res := .next (s.tew t.val cond f 0)
/-- TEW MUL (R233). -/
def execTewMul (t : ThreadId) (cond : BitVec 4) (f : BitVec 52) (s : State) : Res := .next (s.tew t.val cond f 1)
/-- TEW MAX (R233). -/
def execTewMax (t : ThreadId) (cond : BitVec 4) (f : BitVec 52) (s : State) : Res := .next (s.tew t.val cond f 2)
/-- TEW SCALE (R233). -/
def execTewScale (t : ThreadId) (cond : BitVec 4) (f : BitVec 52) (s : State) : Res := .next (s.tew t.val cond f 3)

/-! ### Occupancy (R225, R226, R229) -/

/-- Bytes of a slab. -/
def slabBytes (a : Word) : Nat := if atFmt a = 1 ∨ atFmt a = 2 then 384 else 512
/-- Slab `k` of an operand holds a block that is not skipped. -/
def Opd.slabRead (o : Opd) (skip : Nat → Bool) (k : Nat) : Bool :=
  (List.range (rowBlocks o.a)).any (fun j => !skip (o.b0 + j) && o.slabHas k j)
/-- Slabs that are read. -/
def Opd.slabs (o : Opd) (skip : Nat → Bool) : Nat := (List.range 8).countP (o.slabRead skip)

/-- K-step cycles of a block (Table ARR-4). -/
def blockCycles (mode g : Nat) : Nat := 32 / g / (if mode ≥ 2 then 2 else 1)

/-- Occupancy D of a TMMA over `nb` blocks whose feeder reads `os` from the file (R229). -/
def tmmaD (mode g nb : Nat) (os : List Opd) (skip : Nat → Bool) : Nat :=
  let c := blockCycles mode g * (List.range nb).countP (fun j => !skip j)
  let p := (os.map (fun o => o.slabs skip * slabBytes o.a)).sum
  max 2 (max c ((p + 511) / 512))

/-! ### Begin and completion -/

/-- Location of an array event: form C of Table ERR-4. -/
def arrLoc (c a row col tile slab : Nat) : Nat :=
  c + a * 2 ^ 9 + row * 2 ^ 10 + col * 2 ^ 15 + tile * 2 ^ 20 + slab * 2 ^ 25

/-- Set bits of ARR_STATUS for array `a`. -/
def State.arrFlag (s : State) (c a bits : Nat) : State :=
  s.updCore c (fun k => { k with arrStatus := k.arrStatus ||| BitVec.ofNat 13 (bits * 2 ^ (8 * a)) })

/-- An upset that the array's own checks find: a word of a granule, or a slab. -/
inductive ArrFind where
  /-- predicted and found residue -/
  | residue (m n p q : Nat)
  | feeder (tile slab : Nat)
  | accum (m n : Nat)
  deriving DecidableEq, Repr

/-- A finding is flagged and reported (R234, R235). -/
def State.arrFound (s : State) (c a : Nat) : ArrFind → State
  | .residue m n p q => (s.arrFlag c a 4).raiseCore c 0x0301 evPoisoned (arrLoc c a m n 0 0) (p + q * 256)
  | .feeder t k => (s.arrFlag c a 8).raiseCore c 0x0302 evPoisoned (arrLoc c a 0 0 t k) 0
  | .accum m n => (s.arrFlag c a 16).raiseCore c 0x0303 evPoisoned (arrLoc c a m n 0 0) 0

/-- A finding poisons granule `g` of row `m` of the accumulator by its word. -/
def ArrFind.bad (m g : Nat) : ArrFind → Bool
  | .residue i n _ _ => decide (i = m) && decide (n / 8 = g)
  | .feeder _ _ => false
  | .accum i n => decide (i = m) && decide (n / 8 = g)

/-- The tile as a feeder sees it: from its latch or from the file. -/
def State.feeds (s : State) (c a side j : Nat) : Tile :=
  if (s.arr c a).hit (s.core c).latch side j then
    (match (s.arr c a).latch side with
      | some l => { rows := l.rows }
      | none => {})
  else s.tile c j

/-- Slabs of tile `j` that the upsets name. -/
def slabFaults (ups : List ArrUpset) (j : Nat) : List Nat :=
  ups.filterMap (fun u => match u with
    | .feeder t k => if t.val = j then some k.val else none
    | _ => none)

/-- The A operand tiles and TB of a TMMA as its feeder reads them. -/
def State.opds (s : State) (c a mode : Nat) (o : ArrOp) (ups : List ArrUpset := []) : List Opd × Opd :=
  let mk (side j : Nat) (w : Word) (b0 : Nat) (comp : Bool) : Opd :=
    { a := w, x := s.feeds c a side j, side := s.tile c (atSide w), b0 := b0, comp := comp, faults := slabFaults ups j }
  if mode ≥ 2 then
    ([mk 2 o.ta o.attrA 0 false, mk 2 (o.ta + 1) o.attrA1 (rowBlocks o.attrA) false], mk 1 o.tb o.attrB 0 true)
  else ([mk 0 o.ta o.attrA 0 false], mk (if o.ta = o.tb then 0 else 1) o.tb o.attrB 0 false)

/-- Block columns that a TMMA skips (R225). -/
def skipped (as : List Opd) (b : Opd) (j : Nat) : Bool :=
  b.allMarked j || as.any (fun o => decide (o.b0 ≤ j) && decide (j < o.b0 + rowBlocks o.a) && o.allMarked (j - o.b0))

/-- K positions of a group of a TMMA. -/
def ArrOp.width (o : ArrOp) (mode : Nat) : Nat :=
  let g := pairG mode (atFmt o.attrA) (atFmt o.attrB)
  if mode ≥ 2 then 2 * g else g

/-- What the array finds of the upsets when the operation begins (R234, R235): a residue that differs from the one
predicted, parity of a slab that is read, parity of a word that is read. TLDACC checks nothing. -/
def State.arrFinds (s : State) (c a : Nat) (o : ArrOp) (ups : List ArrUpset) : List ArrFind :=
  let row (m : Nat) : Bool := bit o.rows m
  match o.kind with
  | .tmma mode _ =>
    let p := s.opds c a mode o
    let skip := skipped p.1 p.2
    let nb := (p.1.map (fun x => rowBlocks x.a)).sum
    let tiles := (p.1.zip [o.ta, o.ta + 1]) ++ [(p.2, o.tb)]
    ups.filterMap (fun u => match u with
      | .residue m n g d =>
        if row m.val ∧ g * o.width mode / 32 < nb then
          match residue mode (o.width mode) p.1 p.2 skip m.val n.val g with
          | some r => if d % 7 = 0 then none else some (.residue m.val n.val r (((r : Int) + d) % 7).toNat)
          | none => none
        else none
      | .feeder t k => if tiles.any (fun x => decide (x.2 = t.val) && x.1.slabRead skip k.val) then some (.feeder t.val k.val) else none
      | .accum m n => if row m.val ∧ (List.range nb).any (fun j => !skip j) = true then some (.accum m.val n.val) else none)
  | .tew _ => ups.filterMap (fun u => match u with
      | .residue _ _ _ _ => none
      | .feeder t k => if t.val = o.ta then some (.feeder t.val k.val) else none
      | .accum m n => if row m.val then some (.accum m.val n.val) else none)
  | .tdrain => ups.filterMap (fun u => match u with
      | .accum m n => some (.accum m.val n.val)
      | _ => none)
  | .tldacc => []

/-- Error that the upsets leave in the integer S of group `g` of cell (m, n) (R234). -/
def groupErr (ups : List ArrUpset) (m n g : Nat) : Int :=
  (ups.map (fun u => match u with
    | .residue i j h d => if i.val = m ∧ j.val = n ∧ h = g then d else 0
    | _ => 0)).sum

/-- What a TMMA forms: its rows and flags, D, and D without skips. -/
def State.tmmaForm (s : State) (c a mode : Nat) (clr : Bool) (o : ArrOp) (ups : List ArrUpset) : Formed × Nat × Nat :=
  let p := s.opds c a mode o ups
  let as := p.1
  let b := p.2
  let g := pairG mode (atFmt o.attrA) (atFmt o.attrB)
  let w := o.width mode
  let finds := s.arrFinds c a o ups
  let nb := (as.map (fun x => rowBlocks x.a)).sum
  let tab := (List.range nb).map (skipped as b)
  let skip (j : Nat) : Bool := tab.getD j false
  let old := (s.acc c o.acc).rows
  let word (m n : Nat) : BitVec 32 := if clr then 0 else (kget {} old m).wd n
  let rowBad := (List.range 32).map (fun m => as.any (fun x => x.poisoned mode m skip))
  let colBad := (List.range 32).map (fun n => b.poisoned mode n skip)
  let bad (m q : Nat) : Bool :=
    (!clr && bit (kget {} old m).poison q) || rowBad.getD m false
      || (List.range 8).any (fun i => colBad.getD (8 * q + i) false)
      || finds.any (ArrFind.bad m q)
  let x := s.arr c a
  let files := (as ++ (if o.ta = o.tb then [] else [b])).zip o.reads
  let read := (files.filter (fun r => !x.hit (s.core c).latch r.2.1 r.2.2)).map (·.1)
  (formRows o.rows old (decide (mode % 2 = 0))
      (fun m n => cellSum mode w (nb * 32 / w) as b skip (groupErr ups m n) m n (word m n)) bad,
    tmmaD mode g nb read skip, tmmaD mode g nb read (fun _ => false))

/-- What a TEW forms. -/
def State.tewForm (s : State) (c a op : Nat) (o : ArrOp) (ups : List ArrUpset) : Formed :=
  let x := s.feeds c a 0 o.ta
  let old := (s.acc c o.acc).rows
  formRows o.rows old true
    (fun m n => (tewWord op ((kget {} old m).wd n) ((x.row m).wd n) ((x.row m).wd 0), false))
    (fun m g => bit (kget {} old m).poison g || bit (x.row m).poison g
      || (slabFaults ups o.ta).any (fun k => decide (k / 2 = g)) || (s.arrFinds c a o ups).any (ArrFind.bad m g))

/-- Poison the granules of upset words of rows. -/
def upsetRows (rows : KMap Row) (finds : List ArrFind) : KMap Row :=
  (List.range 32).foldl (fun r m =>
    let x := kget {} r m
    kset {} r m { x with poison := x.poison ||| poison4 (fun g => finds.any (ArrFind.bad m g)) }) rows

/-- Latch fills of an operation: tiles read whole from the file (R201). -/
def State.latchFills (s : State) (c a : Nat) (o : ArrOp) : List (Nat × Nat) :=
  let x := s.arr c a
  let whole (j : Nat) : Bool := match o.kind with
    | .tmma mode _ =>
      let p := s.opds c a mode o
      let sk := skipped p.1 p.2
      if j = o.tb then decide (p.2.slabs sk = 8) else decide (((p.1.map (fun q => q.slabs sk)).headD 0) = 8)
    | _ => true
  if (s.core c).latch then o.reads.filter (fun r => decide (r.1 < 2) && !x.hit true r.1 r.2 && whole r.2) else []

/-- Hits of an operation. -/
def State.latchHits (s : State) (c a : Nat) (o : ArrOp) : Nat :=
  o.reads.countP (fun r => (s.arr c a).hit (s.core c).latch r.1 r.2)

/-- Count in ARR_CNTa_k. -/
def State.arrCount (s : State) (c a k n : Nat) : State :=
  s.updCore c (fun x => { x with arrCnt := bump x.arrCnt (a * 3 + k) n })

/-- What the operation will write, and its counts (R229, R231, R232). A word whose parity fails at TDRAIN stays poisoned in
the accumulator too (R235). -/
def State.arrForm (s : State) (c a : Nat) (o : ArrOp) (ups : List ArrUpset) : Formed × State :=
  match o.kind with
  | .tmma mode clr =>
    let r := s.tmmaForm c a mode clr o ups
    (r.1, (s.arrCount c a 0 r.2.1).arrCount c a 2 (r.2.2 - r.2.1))
  | .tew op => (s.tewForm c a op o ups, s)
  | .tldacc => ({ rows := (s.tile c o.ta).rows, nv := false, ofl := false }, s.arrCount c a 1 32)
  | .tdrain =>
    let rows := upsetRows (s.acc c o.acc).rows (s.arrFinds c a o ups)
    ({ rows := rows, nv := false, ofl := false }, (s.setAcc c o.acc { s.acc c o.acc with rows := rows }).arrCount c a 1 32)

/-- Bytes of side data that a TMMA reads of an operand tile (R215, R227). -/
def sideBytes (mode : Nat) (o : Opd) : Nat :=
  32 * ((if mode % 2 = 0 then scaleBytes o.a else 0) + mapBytes o.a + (if o.comp then metaBytes o.a else 0))

/-- Cycles from the begin to the last use of the sources and of the side tiles (R227, R229, R231, R232). -/
def State.arrTimes (s : State) (c a : Nat) (o : ArrOp) : Nat × Nat :=
  match o.kind with
  | .tmma mode clr =>
    let p := s.opds c a mode o
    ((s.tmmaForm c a mode clr o []).2.1, (((p.1 ++ [p.2]).map (sideBytes mode)).sum + 255) / 256)
  | _ => (32, 0)

/-- ARRAY_OPERATION_BEGINS (R205, R228): the waiting operation begins when the array has finished the steps of the one
before it and its tiles are in state; a gated destination bank wakes first (R202). `upsets` are the faults that the array's
own checks may find. -/
def execArrayOperationBegins (c : CoreId) (a : Fin 2) (upsets : List ArrUpset) (s : State) : Res :=
  let x := s.arr c.val a.val
  .next (match x.busy, x.waiting with
    | none, some o =>
      if !s.arrReady c.val a.val o then
        s.wakeDest c.val o
      else
        let src := s.arrSources c.val a.val o
        let fills := s.latchFills c.val a.val o
        let hits := s.latchHits c.val a.val o
        let r := s.arrForm c.val a.val o upsets
        let d := s.arrTimes c.val a.val o
        let dest := o.dest
        let s1 := (s.arrFinds c.val a.val o upsets).foldl (fun s u => s.arrFound c.val a.val u) r.2
        let s2 := src.foldl (fun s j => s.tileTo c.val j tInUse) s1
        let s3 := dest.foldl (fun s j => s.tileOpen c.val j tDraining) s2
        let y := fills.foldl (fun y q => y.fillLatch q.1 { tile := q.2, rows := (s.tile c.val q.2).rows }) (s3.arr c.val a.val)
        (s3.setArr c.val a.val { y with
            waiting := none
            busy := some { o with
              result := r.1.rows, holds := src ++ dest, nv := r.1.nv, ofl := r.1.ofl
              begun := s.count (dieOf c.val), dur := d.1, sideDur := d.2 } }).updCore c.val
          (fun k => { k with latchHits := k.latchHits + BitVec.ofNat 64 hits })
    | _, _ => s)

/-- The last step of the executing operation has passed (R228, R229, R231): its sources are READY, its words stand in the
accumulator, and the array is free for the next. -/
def State.arrLast (s : State) (c a : Nat) : State :=
  let x := s.arr c a
  match x.busy with
  | none => s
  | some o =>
    let s1 := match o.kind with
      | .tdrain => s
      | _ => s.setAcc c o.acc { s.acc c o.acc with rows := o.result }
    let s2 := (o.holds.filter (fun j => !o.dest.contains j)).foldl (fun s j => s.tileTo c j tReady) s1
    s2.setArr c a { s2.arr c a with busy := none, tail := x.tail ++ [{ o with holds := o.dest }] }

/-- The side tiles of the executing operation have been read (R227). -/
def State.arrSide (s : State) (c a : Nat) (o : ArrOp) : State :=
  let free := o.holds.filter (fun j => o.sides.contains j && !(o.reads.map (·.2)).contains j)
  let s1 := free.foldl (fun s j => s.tileTo c j tReady) s
  s1.setArr c a { s1.arr c a with busy := some { o with holds := o.holds.filter (fun j => !free.contains j) } }

/-- One CCLK cycle of an array: its operation comes past its last step, or past its side reads. -/
def State.arrTick (s : State) (c a : Nat) : State :=
  match (s.arr c a).busy with
  | none => s
  | some o =>
    let n := (s.count (dieOf c) - o.begun).toNat
    if o.dur ≤ n then s.arrLast c a else if o.sideDur ≤ n then s.arrSide c a o else s

/-- ARRAY_OPERATION_COMPLETES (R224, R229, R231, R232): the oldest operation of the array that has not completed does: its
words or rows are written, the flags set, and its tiles READY. -/
def execArrayOperationCompletes (c : CoreId) (a : Fin 2) (s : State) : Res :=
  let s0 := if (s.arr c.val a.val).tail.isEmpty then s.arrLast c.val a.val else s
  let x := s0.arr c.val a.val
  .next (match x.tail with
    | [] => s
    | o :: rest =>
      let s1 := s0.setArr c.val a.val { x with tail := rest }
      let s2 := match o.kind with
        | .tdrain => s1.tileRows c.val o.ta ((List.range 32).map (fun m => (m, kget {} o.result m)))
        | _ => s1
      let s3 := o.holds.foldl (fun s j => s.tileTo c.val j tReady) s2
      let s4 := s3.arrFlag c.val a.val (b2n o.nv + 2 * b2n o.ofl)
      s4.raiseFlags o.thread (BitVec.ofNat 7 (b2n o.nv * 32 + b2n o.ofl * 64)) o.pc)

end Sys2Proof.Machine
end

