-- ==== Sys2Proof/Machine/Cadence.lean ====
section
/-! DEFINITION. The cadence port and the deadline service (15): raster, genlock, commits, decisions at check instants,
admission and the start of jobs. -/

namespace Sys2Proof.Machine

/-! ### The raster (R386 to R388) -/

def Cad.enabled (k : Cad) : Bool := bit k.cfg 63
def Cad.cfloor (k : Cad) : Nat := fld k.cfg 59 48
/-- CAD_CFG and CAD_RASTER of the raster that is predicted: in ACQUIRE after a change of the raster, the previous ones until
the lock (Table CAD-2). -/
def Cad.predicted (k : Cad) : Word × Word := k.held.getD (k.cfg, k.raster)
def Cad.lead (k : Cad) : Nat := fld k.predicted.1 47 28
def Cad.admlat (k : Cad) : Nat := fld k.cfg 27 12
def Cad.synctol (k : Cad) : Nat := fld k.cfg 11 4
def Cad.acth (k : Cad) : Nat := fld k.raster 63 48
def Cad.vstart (k : Cad) : Nat := fld k.predicted.2 47 32
def Cad.htotal (k : Cad) : Nat := fld k.predicted.2 15 0
/-- FTOTAL of a raster (R386). -/
def frameTotal (raster : Word) : Nat := fld raster 15 0 * fld raster 31 16
/-- FTOTAL of the raster that is predicted. -/
def Cad.ftotal (k : Cad) : Nat := frameTotal k.predicted.2
/-- SPF (R386). -/
def Cad.spf (k : Cad) : Nat := k.acth / 8
/-- SPF of the raster that is predicted. -/
def Cad.spfNow (k : Cad) : Nat := fld k.predicted.2 63 48 / 8
/-- FS(FNUM), a 64-bit count (R387). -/
def Cad.fs (k : Cad) : Nat := (k.fbase + k.fnum.toNat * k.ftotal) % 2 ^ 64
/-- Frames from the current one to frame `f`, signed (R393). -/
def Cad.ahead (k : Cad) (f : BitVec 32) : Int := (f - k.fnum).toInt
/-- Raster instant of slice `sl` of frame `f` (R387). -/
def Cad.rasterAt (k : Cad) (f : BitVec 32) (sl : Nat) : Int :=
  k.fs + k.ahead f * k.ftotal + ((k.vstart + 8 * sl) * k.htotal : Nat)
/-- Check instant of slice `sl` of frame `f` (R387). -/
def Cad.check (k : Cad) (f : BitVec 32) (sl : Nat) : Int := k.rasterAt f sl - k.lead

/-- Channel `c`. -/
def State.chan (s : State) (c : Nat) : Chan := kget {} s.cad.chans c
/-- Pool `p`. -/
def State.pool (s : State) (p : Nat) : Pool := kget {} s.cad.pools p
def State.setCad (s : State) (k : Cad) : State := { s with cad := k }
def State.setPool (s : State) (p : Nat) (x : Pool) : State := s.setCad { s.cad with pools := kset {} s.cad.pools p x }

/-- Bits per pixel of a format (Table CAD-1). -/
def pixelBits : Nat → Nat
  | 0 => 32
  | 1 => 20
  | 2 => 48
  | _ => 64
/-- SLB of a channel (R388). -/
def Chan.slb (c : Chan) : Nat := 8 * ((c.actw * pixelBits c.fmt + 255) / 256 * 32)
/-- Distance of slots in the ring (R395). -/
def Chan.sls (c : Chan) : Nat := (c.slb + 4095) / 4096 * 4096

/-- VCLK count. -/
def State.vnow (s : State) : Nat := (s.count 0x70).toNat
/-- Location word of form V (R486). -/
def locV (c sl : Nat) (f : BitVec 32) : Nat := c + sl * 2 ^ 16 + f.toNat * 2 ^ 32
/-- Add one to CAD_CNTk. -/
def State.cadCount (s : State) (k : Nat) : State := s.setCad { s.cad with cnt := bump s.cad.cnt k }
/-- An event of the port, in VCLK. -/
def State.cadEvent (s : State) (code cls loc det : Nat) : State := s.raise .cadence 0x70 code cls loc det

/-! ### Genlock (R390 to R394) -/

/-- Enter a genlock state; source 0x19 is high in FLYWHEEL and HOLDOVER (R391). -/
def State.genlock (s : State) (g : Genlock) : State :=
  (s.setCad { s.cad with gl := g }).hubLine 0x19 (decide (g = .flywheel) || decide (g = .holdover))

/-- The job covers a slice (R397). -/
def Job.covers (j : Job) (c : Nat) (f : BitVec 32) (sl : Nat) : Bool :=
  decide (j.chan = c) && decide (j.frame = f) && decide (j.first ≤ sl) && decide (sl < j.first + j.nsl)

/-- Some accepted job covers a slice whose check instant is still ahead (R394). -/
def State.coverAhead (s : State) : Bool :=
  s.cad.jobs.any (fun j => decide (s.cad.check j.frame (j.first + j.nsl - 1) > s.vnow))

/-- A frame starts: the frame-start pulse, and a RELOCK that may take effect (R394, R411). -/
def State.frameBegins (s : State) : State :=
  let s1 := s.pulse 6
  if s1.cad.rlpend && s1.cad.refclk && !s1.coverAhead then
    ({ s1 with cad := { s1.cad with rlpend := false, edge := none } } : State).genlock .acquire
  else s1

/-- The lock of R392 at edge `e`. -/
def State.lockAt (s : State) (e : Nat) : State :=
  let k := s.cad
  let f : BitVec 32 := if k.relock then k.fnum + 1 else 0
  let base := (e + 2 ^ 96 - f.toNat * frameTotal k.raster) % 2 ^ 64
  let k1 : Cad := { k with fnum := f, fbase := base, relock := true, edge := some e, held := none }
  let k2 : Cad := { k1 with slices := k1.slices.filter (fun x => decide (k1.check x.frame x.slice ≥ e)) }
  ((s.setCad k2).genlock .locked).frameBegins

/-- Distance of a count from the nearest predicted frame start, and that frame. -/
def Cad.offset (k : Cad) (e : Nat) : Int × BitVec 32 :=
  let d : Int := (e : Int) - k.fs
  let n : Int := (d + k.ftotal / 2) / k.ftotal
  (d - n * k.ftotal, k.fnum + BitVec.ofInt 32 n)

/-- An edge is out of tolerance, or missing (R391). -/
def State.flywheel (s : State) (f : BitVec 32) (off : Int) : State :=
  (s.genlock .flywheel).cadEvent 0x0802 evDeadline (locV 0 0 f) (BitVec.ofInt 64 off).toNat

/-- CAD_SYNC_EDGE (R391, R392): an edge is taken for the lock in ACQUIRE, verified in LOCKED. -/
def execCadSyncEdge (s : State) : Res :=
  let k := s.cad
  let e := s.vnow
  .next (match k.gl with
    | .acquire =>
      if !k.pll then s
      else
        match k.edge with
        | some e1 =>
          if e ≤ e1 + frameTotal k.raster + k.synctol ∧ e1 + frameTotal k.raster ≤ e + k.synctol then s.lockAt e
          else s.setCad { k with edge := some e }
        | none => s.setCad { k with edge := some e }
    | .locked =>
      let o := k.offset e
      let s1 := s.setCad { k with edge := some e }
      if o.1.natAbs > k.synctol then s1.flywheel o.2 o.1 else s1
    | _ => s)

/-- SYNC_MISSING (R391): no edge by FS(F) + SYNCTOL. -/
def execSyncMissing (s : State) : Res :=
  let k := s.cad
  let seen := match k.edge with
    | some e => decide (e + k.synctol ≥ k.fs)
    | none => false
  .next (if decide (k.gl = .locked) && decide (s.vnow ≥ k.fs + k.synctol) && !seen then s.flywheel k.fnum 0 else s)

/-- CAD_REFCLK_LOSS (R391): HOLDOVER from LOCKED and FLYWHEEL, and a HOLDOVER goes on, with VCLK from REF25; ACQUIRE waits for the
clock (DEDUCED, log 40). -/
def execCadRefclkLoss (s : State) : Res :=
  let s1 := s.setCad { s.cad with refclk := false, pll := false }
  .next (match s.cad.gl with
    | .locked => (s1.genlock .holdover).cadEvent 0x0803 evDeadline (locV 0 0 s.cad.fnum) 0
    | .flywheel => (s1.genlock .holdover).cadEvent 0x0803 evDeadline (locV 0 0 s.cad.fnum) 0
    | .holdover => s1
    | _ => { s1 with clkOff := insertNat s1.clkOff 0x70 })

/-- VCLK_PLL_LOCK (R392): CAD_REFCLK is stable, the PLL has locked to it and VCLK runs. -/
def execVclkPllLock (s : State) : Res :=
  if !s.ref25 then .next (s.setCad { s.cad with refclk := true })
  else
  let s1 := s.setCad { s.cad with refclk := true, pll := true, edge := if s.cad.gl = .acquire then none else s.cad.edge }
  .next (if bit s.power.on 77 then { s1 with clkOff := s1.clkOff.filter (fun c => decide (c ≠ 0x70)) } else s1)

/-- FRAME_START (R387, R393): FNUM advances when the period is over, and FBASE moves at the wrap. -/
def execFrameStart (s : State) : Res :=
  let k := s.cad
  .next (if k.relock && decide (k.gl ≠ .off) && decide (s.vnow ≥ k.fs + k.ftotal) then
      let f := k.fnum + 1
      let base := if f = 0 then (k.fbase + 2 ^ 32 * k.ftotal) % 2 ^ 64 else k.fbase
      let k1 : Cad := { k with fnum := f, fbase := base }
      let k2 : Cad := { k1 with
        missed := k1.missed.filter (fun m => decide (m.2 = f.toNat) || decide (m.2 = (f + 1).toNat))
        jobs := k1.jobs.filter (fun j => !j.started || decide (k1.check j.frame (j.first + j.nsl - 1) > s.vnow)) }
      (s.setCad k2).frameBegins
    else s)

/-- CAD_CTL_RELOCK (R394). -/
def execCadCtlRelock (s : State) : Res := .next (s.byReg (s.setCad { s.cad with rlpend := true }))

/-! ### Cadence lanes (R401) -/

/-- CAD_CTL_RETRAIN: the lanes train, and LINK is clear until they are done. -/
def execCadCtlRetrain (s : State) : Res :=
  .next (s.byReg (s.setCad { s.cad with link := false, lanesTrain := decide (s.cad.gl ≠ .off) }))

/-- CADENCE_RETRAIN_DONE: LINK is set when the lanes have been training, by CAD_CTL.RETRAIN or from the apply that enabled
the port (R401, R475). -/
def execCadenceRetrainDone (s : State) : Res :=
  .next (if s.cad.gl = .off ∨ s.cad.lanesTrain = false then s else s.setCad { s.cad with link := true, lanesTrain := false })

/-- CADENCE_LANE_LOSS_OF_LOCK: CAD_LINK, and LINK clears until a retrain. -/
def execCadenceLaneLossOfLock (lanes : BitVec 4) (s : State) : Res :=
  .next (if s.cad.link && decide (lanes ≠ 0) then
      (s.setCad { s.cad with link := false }).cadEvent 0x0804 evFatal 0 lanes.toNat
    else s)

/-! ### Commits (R395, R396) -/

/-- Ring slot of a slice (R395). -/
def State.cadSlot (s : State) (c : Nat) (f : BitVec 32) (sl : Nat) : Nat :=
  (f.toNat * s.cad.spf + sl) % (s.chan c).nslot
/-- Address of a ring slot (R395). -/
def State.cadSlotAddr (s : State) (c k : Nat) : Nat := (s.chan c).ring + k * (s.chan c).sls

/-- A commit is discarded with CONFIG (R396). -/
def State.commitRefused (s : State) (c sl : Nat) (f : BitVec 32) : State :=
  (s.cadCount 4).cadEvent 0x0805 evConfig (locV c sl f) 1

/-- The check instant of a slice has passed (R396); before the first lock no slice has one. -/
def State.checkPassed (s : State) (f : BitVec 32) (sl : Nat) : Bool :=
  let i := s.cad.check f sl
  s.cad.relock && (decide (i < s.vnow) || (match s.cad.decided with
    | some d => decide (i ≤ d)
    | none => false))

/-- A write of CAD_COMMIT (R396). -/
def State.commitSlice (s : State) (v : Word) : State :=
  let c := fld v 17 16
  let sl := fld v 15 0
  let f : BitVec 32 := BitVec.ofNat 32 (fld v 63 32)
  let ch := s.chan c
  if !s.cad.enabled || !ch.en || decide (sl ≥ s.cad.spf) then s.commitRefused c sl f
  else if s.checkPassed f sl then s.cadCount 3
  else
    let slot := s.cadSlot c f sl
    if s.cad.slices.any (fun x => decide (x.chan = c) && decide (s.cadSlot c x.frame x.slice = slot)) then
      s.commitRefused c sl f
    else
      (s.setCad { s.cad with slices := s.cad.slices ++ [{ chan := c, frame := f, slice := sl }] }).touch
        (s.cadSlotAddr c slot) ch.slb { cls := .cad, eng := 35 }

/-- CAD_COMMIT (R396). -/
def execCadCommit (_w : Writer) (v : Word) (s : State) : Res := .next (s.byReg (s.commitSlice v))

/-- The first slice of a list that satisfies `p`, changed. -/
def sliceFirst (p : Slice → Bool) (f : Slice → Slice) : List Slice → List Slice
  | [] => []
  | x :: l => if p x then f x :: l else x :: sliceFirst p f l

/-- SLICE_COMPLETE (R396): the oldest slice of the channel that is being fetched is complete, with its bytes and their
poison; `err` is a detected error in the fetch path (Table CAD-3). -/
def execSliceComplete (ch : Fin 4) (err : Bool) (s : State) : Res :=
  .next (s.setCad { s.cad with slices := sliceFirst (fun x => decide (x.chan = ch.val) && !x.complete) (fun x =>
    let a := s.cadSlotAddr ch.val (s.cadSlot ch.val x.frame x.slice)
    let n := (s.chan ch.val).slb
    { x with complete := true, at_ := s.vnow, hwerr := err, poison := s.anyBad a n 0, bytes := s.bytes a n }) s.cad.slices })

/-! ### Decisions (R397) -/

/-- CCLK is below CFLOOR on a die that holds a core of pool `p` (R403). -/
def State.underFloor (s : State) (p : Nat) : Bool :=
  let x := s.pool p
  (List.range 4).any (fun d => decide (x.cfirst / 72 ≤ d) && decide (d ≤ x.clast / 72)
    && decide (kget 0 s.power.cclk d < s.cad.cfloor))

/-- What the port decides for a slice of a channel: DATA, or the reason of a HOLD (R397, Table CAD-3). DEDUCED (log 61): a
covered slice for which no commit arrived is LATE, as R28 and R408 say of every covered slice that is not complete; IDLE is
that of a slice that no job covers. A fetch counts when it was complete by the check instant (Table CLK-4). In ACQUIRE
and HOLDOVER HWERR goes before LATE (DESIGN CHOICE, log 62). -/
def State.holdReason (s : State) (c : Nat) (f : BitVec 32) (sl : Nat) : Option Nat :=
  let k := s.cad
  let live := k.link && (decide (k.gl = .locked) || decide (k.gl = .flywheel))
  let low := k.jobs.any (fun j => j.covers c f sl && s.underFloor j.pool)
  match k.slices.find? (fun x => decide (x.chan = c) && decide (x.frame = f) && decide (x.slice = sl)) with
  | none => if !live || low then some 3 else if k.jobs.any (fun j => j.covers c f sl) then some 1 else some 0
  | some x =>
    if !live || (x.hwerr && decide (x.at_ ≤ k.check f sl)) then some 3
    else if x.complete && decide (x.at_ ≤ k.check f sl) then (if x.poison then some 2 else none)
    else if low then some 3 else some 1

/-- The header of a slice (Table CAD-4). -/
def sliceHeader (c sl : Nat) (f : BitVec 32) (data miss : Bool) (reason bytes fmt : Nat) (raster : Word) : List Byte :=
  toBytes 8 ((if data then 1 else 2) + c * 2 ^ 4 + b2n miss * 2 ^ 6 + reason * 2 ^ 7 + sl * 2 ^ 16 + f.toNat * 2 ^ 32)
    ++ toBytes 8 (bytes + fmt * 2 ^ 32) ++ toBytes 8 raster.toNat ++ toBytes 8 0

/-- Cut bytes into `n` slots of 32. -/
def cutSlots : Nat → List Byte → List (List Byte)
  | 0, _ => []
  | n + 1, bs => bs.take 32 :: cutSlots n (bs.drop 32)

/-- Send slots in flits of eight on the cadence lanes, the first of them a header: VC 0, H 0, and 0 in ACK, NAK and the
credit fields (R399). Each decision begins a flit (DESIGN CHOICE, log 60). `n` bounds the flits. -/
def State.cadFlits (s : State) : Nat → List (Bool × List Byte) → State
  | 0, _ => s
  | _, [] => s
  | n + 1, l =>
    let g := flitOf s.cad.seq 0 0 (l.take 8)
    ((s.setCad { s.cad with seq := s.cad.seq + 1 }).emit (.cadFrame g.bytes (g.trailer 0 false 0 0))).cadFlits n (l.drop 8)

/-- Send a decision: its header, and the bytes of a DATA slice (R398). -/
def State.cadSend (s : State) (hdr body : List Byte) : State :=
  let n := body.length / 32
  s.cadFlits (n + 1) ((true, hdr) :: (cutSlots n body).map (fun b => (false, b)))

/-- The decision of one channel at a check instant: what is sent, counted and reported (R397, R401). -/
def State.decideChan (s : State) (f : BitVec 32) (sl c : Nat) : State :=
  let k := s.cad
  let ch := s.chan c
  if !ch.en then s
  else
    let why := s.holdReason c f sl
    let cov := k.jobs.any (fun j => j.covers c f sl)
    let mine (x : Slice) : Bool := decide (x.chan = c) && decide (x.frame = f) && decide (x.slice = sl)
    let data := why.isNone
    let bs := if data then (k.slices.find? mine).elim [] (·.bytes) else []
    let s1 := s.setCad { k with slices := k.slices.filter (fun x => !mine x) }
    let s2 := if k.link then
        s1.cadSend (sliceHeader c sl f data (cov && !data) (why.getD 0) bs.length ch.fmt (BitVec.ofInt 64 (k.rasterAt f sl))) bs
      else s1
    if data then s2.cadCount 0
    else if !cov then s2.cadCount 2
    else
      let s3 := s2.cadCount 1
      if k.missed.contains (c, f.toNat) then s3
      else
        (((s3.setCad { s3.cad with missed := s3.cad.missed ++ [(c, f.toNat)] }).cadEvent 0x0801 evDeadline
          (locV c sl f) (why.getD 0)).hubRaise 0x18).pulse 1

/-- CHECK_INSTANT (R397): the decisions of one slice, in ascending channel order, once the cycle of its check instant, the last
that counts (Table CLK-4), is over. -/
def execCheckInstant (frame : BitVec 32) (slice : BitVec 16) (s : State) : Res :=
  let k := s.cad
  let i := k.check frame slice.toNat
  let again := match k.decided with
    | some d => decide (i ≤ d)
    | none => false
  .next (if k.relock && decide (k.gl ≠ .off) && decide (slice.toNat < k.spfNow) && decide (i < s.vnow) && !again then
      let s1 := (List.range 4).foldl (fun s c => s.decideChan frame slice.toNat c) s
      s1.setCad { s1.cad with decided := some i }
    else s)

/-! ### Admission (R402 to R407) -/

/-- CAD_SUBMIT (R404). -/
def execCadSubmit (v : Word) (s : State) : Res :=
  .next (s.byReg (if s.cad.submits.length ≥ 64 then s.cadEvent 0x0805 evConfig 0 2
    else s.setCad { s.cad with submits := s.cad.submits ++ [BitVec.ofNat 64 (fld v 47 6 * 64)] }))

/-- What the port decides about a submission: CODE, REASON, START and SLACK. -/
structure Verdict where
  code : Nat
  reason : Nat
  start : Nat := 0
  slack : Option Int := none
  deriving DecidableEq, Repr

/-- Accepted jobs of a pool that have not started. -/
def State.queuedJobs (s : State) (p : Nat) : List Job := s.cad.jobs.filter (fun j => decide (j.pool = p) && !j.started)

/-- The deadline test of R406: START and SLACK. -/
def State.deadline (s : State) (w : List Word) : Nat × Int :=
  let w0 := w.getD 0 0
  let k := s.cad
  let first := fld w0 31 16
  let nsl := fld w0 47 32
  let off0 := fld (w.getD 3 0) 31 0
  let ostep := fld (w.getD 3 0) 63 32
  let d := fld (BitVec.ofNat 32 (fld (w.getD 1 0) 31 0) - k.fnum) 31 0
  let fs := k.fs + d * k.ftotal
  let chk (i : Nat) : Int := (fs + (k.vstart + 8 * (first + i)) * k.htotal : Nat) - (k.lead : Int)
  let start := max (max (s.vnow + k.admlat) (s.pool (fld w0 11 8)).busy) (w.getD 2 0).toNat
  let done (i : Nat) : Int := (start + off0 + i * ostep : Nat)
  (start, min (chk 0 - done 0) (chk (nsl - 1) - done (nsl - 1)))

/-- Reserved fields of a job descriptor (Table CAD-6). -/
def jobReserved (w : List Word) : Bool :=
  decide (fld (w.getD 0 0) 7 2 ≠ 0) || decide (fld (w.getD 0 0) 15 12 ≠ 0) || decide (fld (w.getD 0 0) 63 49 ≠ 0)
    || decide (fld (w.getD 4 0) 63 57 ≠ 0) || decide (fld (w.getD 5 0) 63 14 ≠ 0)

/-- The checks of Table CAD-7, in their order. -/
def State.cadVerdict (s : State) (addr : Nat) (w : List Word) (bad : Bool) : Verdict :=
  let w0 := w.getD 0 0
  let k := s.cad
  let c := fld w0 1 0
  let p := fld w0 11 8
  let x := s.pool p
  let first := fld w0 31 16
  let nsl := fld w0 47 32
  let f : BitVec 32 := BitVec.ofNat 32 (fld (w.getD 1 0) 31 0)
  let w4 := w.getD 4 0
  let inPart := (s.part x.part).ranges.any (fun r => decide (r.base ≤ addr) && decide (addr + 64 ≤ r.limit))
  if bad || jobReserved w || decide (nsl = 0) || decide (first + nsl > k.spf) || !(s.chan c).en || !k.enabled
      || (x.en && !inPart) then ⟨1, 1, 0, none⟩
  else if !x.en then ⟨1, 2, 0, none⟩
  else if fld (w.getD 1 0) 63 32 ≠ x.rsig.toNat then ⟨1, 3, 0, none⟩
  else if fld w4 35 32 > x.nthr ∨ fld w4 45 36 > x.nctx ∨ fld w4 56 46 > x.mrate then ⟨1, 4, 0, none⟩
  else if fld w4 31 0 < fld (w.getD 3 0) 31 0 + (nsl - 1) * fld (w.getD 3 0) 63 32 then ⟨1, 5, 0, none⟩
  else if s.underFloor p then ⟨1, 6, 0, none⟩
  else if k.jobs.any (fun j => decide (j.chan = c) && decide (j.frame = f) && decide (j.first < first + nsl)
      && decide (first < j.first + j.nsl)) then ⟨1, 7, 0, none⟩
  else if (k.gl ≠ .locked ∧ k.gl ≠ .flywheel) ∨ k.rlpend = true then ⟨2, 1, 0, none⟩
  else if (f - k.fnum).toNat > 1024 then ⟨2, 2, 0, none⟩
  else if (s.queuedJobs p).length ≥ x.qdepth then ⟨3, 1, 0, none⟩
  else
    let d := s.deadline w
    if d.2 < 0 then ⟨2, 3, 0, some d.2⟩ else ⟨0, 0, d.1, some d.2⟩

/-- SLACK of the verdict word: signed, saturating (Table CAD-6). -/
def slackField (v : Option Int) : Nat :=
  match v with
  | none => 0
  | some x => (BitVec.ofInt 32 (max (-(2 ^ 31)) (min (2 ^ 31 - 1) x))).toNat

/-- The verdict word (Table CAD-6). -/
def Verdict.word (v : Verdict) : Nat := 1 + v.code * 2 + v.reason * 16 + slackField v.slack * 2 ^ 32

/-- ADMISSION_DECISION (R404 to R406): the oldest submission is read, checked and answered; one whose pool's partition
is blocked stays undecided (R418). -/
def execAdmissionDecision (s : State) : Res :=
  .next (match s.cad.submits with
    | [] => s
    | aw :: rest =>
      let a := aw.toNat
      let ok := s.isMem a
      let w := (List.range 8).map (fun i => BitVec.ofNat 64 (if ok then s.word (a + 8 * i) 8 else 0))
      let p := fld (w.getD 0 0) 11 8
      if (s.pool p).en && bit s.gear.blocked (s.pool p).part then s
      else
        let v := s.cadVerdict a w (!ok || s.anyBad a 64 0)
        let x := s.pool p
        let s1 := if ok then s.touch a 64 { cls := .cad } else s
        let s2 := (s1.setCad { s1.cad with submits := rest }).cadCount (if v.code = 0 then 5 else 6)
        let s3 := if v.code = 0 then
            let j : Job := {
              pool := p, chan := fld (w.getD 0 0) 1 0, frame := BitVec.ofNat 32 (fld (w.getD 1 0) 31 0),
              first := fld (w.getD 0 0) 31 16, nsl := fld (w.getD 0 0) 47 32, start := v.start, desc := a }
            let y := s2.setPool p { x with busy := v.start + fld (w.getD 4 0) 31 0 }
            y.setCad { y.cad with jobs := y.cad.jobs ++ [j] }
          else s2
        let s4 := if ok then
            (s3.store (a + 0x38) (toBytes 8 v.start) { cls := .cad }).store (a + 0x30) (toBytes 8 v.word) { cls := .cad }
          else s3
        if bit (w.getD 0 0) 48 then s4.signal (0xE000 + p) (fld (w.getD 5 0) 13 0) 1 else s4)

/-- Mark the first job of a pool that has not started. -/
def jobFirst (p : Nat) : List Job → List Job
  | [] => []
  | j :: l => if decide (j.pool = p) && !j.started then { j with started := true } :: l else j :: jobFirst p l

/-- JOB_START (R407): the pool's next job starts once the VCLK count has reached its START. -/
def execJobStart (p : Fin 16) (s : State) : Res :=
  let x := s.pool p.val
  .next (match s.queuedJobs p.val with
    | [] => s
    | j :: _ =>
      if s.vnow < j.start then s
      else
        let s1 := s.setCad { s.cad with jobs := jobFirst p.val s.cad.jobs }
        (s1.setPool p.val { x with next := BitVec.ofNat 64 j.desc }).signal (0xE000 + p.val) x.gosem 1)

end Sys2Proof.Machine
end

