-- ==== Sys2Proof/Machine/Control.lean ====
section
/-! DEFINITION. Branches, jumps, block repeat, system entry, returns and the breakpoint (R98 to R105, R124, R125). -/

namespace Sys2Proof.Machine

/-! ### Branches and jumps -/

/-- Target of B and BL: the branch's own address + DISP * 8 (R98). -/
def Body.target (f : Body) (pc : Word) : Word := pc + sx64 47 f.disp * 8#64

/-- Issue a branch: when its COND does not hold it is a branch that is not taken (R99). -/
def State.issueBranch (s : State) (t : Nat) (cond : BitVec 4) (legal : Bool) (body : State → Act) : State :=
  s.issueWith t cond legal true (fun s => .branch s none) body

/-- B (R98). -/
def execB (t : ThreadId) (cond : BitVec 4) (f : BitVec 52) (s : State) : Res :=
  .next (s.issueBranch t.val cond true (fun s => .branch s (some (Body.target f (s.thr t.val).pc))))

/-- BL (R98): RL receives the address after the delay slot. -/
def execBl (t : ThreadId) (cond : BitVec 4) (f : BitVec 52) (s : State) : Res :=
  .next (s.issueBranch t.val cond true (fun s =>
    let th := s.thr t.val
    .branch (s.setThr t.val (th.wg (Body.rd f) (th.pc + 16#64))) (some (Body.target f th.pc))))

/-- JR (R98): a target that is not 8-byte aligned takes ALIGN. -/
def execJr (t : ThreadId) (cond : BitVec 4) (f : BitVec 52) (s : State) : Res :=
  .next (s.issueBranch t.val cond (decide (Body.resR f = 0)) (fun s =>
    let a := (s.thr t.val).rg (Body.ra f)
    if a &&& 7#64 ≠ 0 then .exc s (excOf exAlign a) else .branch s (some a)))

/-- JLR (R98): as JR, and RD receives the address after the delay slot. -/
def execJlr (t : ThreadId) (cond : BitVec 4) (f : BitVec 52) (s : State) : Res :=
  .next (s.issueBranch t.val cond (decide (Body.resR f = 0)) (fun s =>
    let th := s.thr t.val
    let a := th.rg (Body.ra f)
    if a &&& 7#64 ≠ 0 then .exc s (excOf exAlign a)
    else .branch (s.setThr t.val (th.wg (Body.rd f) (th.pc + 16#64))) (some a)))

/-! ### Block repeat -/

/-- RPT's count (R101). -/
def Body.rptCount (f : Body) (th : Thread) : BitVec 32 :=
  if f.ci then BitVec.ofNat 32 f.immP else BitVec.ofNat 32 ((th.rg f.rc).toNat % 2 ^ 32)

/-- RPT's LE (R101). -/
def Body.rptLe (f : Body) (pc : Word) : Word := pc + 8#64 + BitVec.ofNat 64 ((f.len - 1) * 8)

/-- Set a level of block repeat (R101). -/
def SRegs.rpt (r : SRegs) (lvl : Bool) (lb le : Word) (lc : BitVec 32) : SRegs :=
  if lvl then { r with lb1 := lb, le1 := le, lc1 := lc } else { r with lb0 := lb, le0 := le, lc0 := lc }

/-- LEN from 1 to 2^20 - 1; RC 0 when CI is 1 (R101). -/
def Body.rptOk (f : Body) : Bool := decide (1 ≤ f.len) && decide (f.len < 2 ^ 20) && (!f.ci || decide (f.rc = 0))

/-- RPT (R101, R102). -/
def execRpt (t : ThreadId) (cond : BitVec 4) (f : BitVec 52) (s : State) : Res :=
  .next (s.issueWith t.val cond (Body.rptOk f) true Act.retire (fun s =>
    let th := s.thr t.val
    let n := Body.rptCount f th
    let le := Body.rptLe f th.pc
    let s1 := s.setThr t.val { th with sr := th.sr.rpt (Body.lvl f) (th.pc + 8#64) le n }
    if n = 0 then .goto s1 (le + 8#64) else .retire s1))

/-! ### System entry and return -/

/-- Every register field is 0 (04, System entry and return). -/
def Body.noRegs (f : Body) : Bool := decide (f.resR = 0) && decide (f.rd = 0) && decide (f.ra = 0) && decide (f.rb = 0)

/-- SYSCALL (R124): ILLEGAL while ST.XACT is 1. -/
def execSyscall (t : ThreadId) (cond : BitVec 4) (f : BitVec 52) (s : State) : Res :=
  .next (s.issueWith t.val cond (Body.noRegs f) true Act.retire (fun s =>
    let th := s.thr t.val
    if stXact th.sr.st then .exc s (excOf exIllegal)
    else .leap (s.setThr t.val (th.sysEnter (th.shadow.getD th.sr.st))) th.sr.entry))

/-- The return shared by XRET and SYSRET (R125). -/
def State.returnFrom (s : State) (t : Nat) : Act :=
  let th := s.thr t
  if stPriv th.savedSt > stPriv th.sr.st then .exc s (excOf exIllRet)
  else .leap (s.setThr t th.ret.1) th.ret.2

/-- SYSRET (R125): ILLEGAL while ST.SKACT is 1. -/
def execSysret (t : ThreadId) (cond : BitVec 4) (f : BitVec 52) (s : State) : Res :=
  .next (s.issueWith t.val cond (Body.noRegs f) true Act.retire (fun s =>
    if stSkact (s.thr t.val).sr.st then .exc s (excOf exIllegal) else s.returnFrom t.val))

/-- XRET (R125). -/
def execXret (t : ThreadId) (cond : BitVec 4) (f : BitVec 52) (s : State) : Res :=
  .next (s.issueWith t.val cond (Body.noRegs f) true Act.retire (fun s => s.returnFrom t.val))

/-- BRK (R119). -/
def execBrk (t : ThreadId) (cond : BitVec 4) (f : BitVec 52) (s : State) : Res :=
  .next (s.issue t.val cond (decide (Body.resR f = 0)) (fun s => .exc s (excOf exBrk)))

end Sys2Proof.Machine
end

