-- ==== Sys2Proof/Machine/CoreSave.lean ====
section
/-! DEFINITION. CSAVE and CLOAD: saving a halted thread to a save area in the core's own near store and restoring it
(R75 to R77, R130, R146, R200, Table CORE-6). -/

namespace Sys2Proof.Machine

/-- A 32-byte granule of the save area: its value and its poison. -/
abbrev SGran := Nat × Bool

/-! ### The save area -/

/-- Translate `n` lines of 256 bytes from `va` on. After a line whose translation fails, later ones leave nothing: XLAT_REASON
names the failure that is taken (R306). -/
def State.areaXlat (s : State) (t : Nat) (k : Access) (va : Word) : Nat → List (Except Exc (Nat × Word)) × State
  | 0 => ([], s)
  | n + 1 =>
    let r := s.ownNear t k va
    let q := r.2.areaXlat t k (va + 256#64) n
    (r.1 :: q.1, match r.1 with
      | .error e => if e.code = exDataXlat then r.2 else q.2
      | .ok _ => q.2)

/-- The lines, or the exception of lowest priority number (R119). -/
def areaLines (l : List (Except Exc (Nat × Word))) : Except Exc (List (Nat × Word)) :=
  let errs := l.filterMap (fun x => match x with
    | .error e => some e
    | .ok _ => none)
  match errs.find? (fun e => decide (e.code = exIllOpnd)), errs.head? with
  | some e, _ => .error e
  | none, some e => .error e
  | none, none => .ok (l.filterMap (fun x => match x with
    | .ok a => some a
    | .error _ => none))

/-- Address and leaf of granule `i` of the area. -/
def granAt (lines : List (Nat × Word)) (i : Nat) : Nat × Word :=
  let x := lines.getD (i / 8) (0, 0)
  (x.1 + i % 8 * 32, x.2)

/-- Number of 256-byte lines of `n` granules. -/
def linesOf (n : Nat) : Nat := (n + 7) / 8

/-! ### What a save writes -/

/-- Words as granules, four a granule. -/
def wordGrans : List Word → List SGran
  | a :: b :: c :: d :: l =>
    (a.toNat + 2 ^ 64 * b.toNat + 2 ^ 128 * c.toNat + 2 ^ 192 * d.toNat, false) :: wordGrans l
  | _ => []

/-- The four granules of each of the 32 rows of a tile or accumulator. -/
def rowGrans (rows : KMap Row) : List SGran :=
  (List.range 32).flatMap (fun r => (List.range 4).map (fun i =>
    let x := kget {} rows r
    (fld x.data (256 * i + 255) (256 * i), bit x.poison i)))

/-- The tiles of the target that a save writes (R76). -/
def State.savedTiles (s : State) (c i : Nat) : List Nat :=
  (List.range 32).filter (fun j => decide (atOwner (s.tile c j).attr = i) && decide (s.tileSt c j ≠ tEmpty))

/-- The accumulators of the target. -/
def State.savedAccs (s : State) (c i : Nat) : List Nat :=
  (List.range 4).filter (fun a => decide ((s.acc c a).owner = i))

/-- A set of small numbers as a bit map. -/
def bitmapOf (l : List Nat) : Nat := l.foldl (fun n j => n + 2 ^ j) 0

/-- The special registers in the order of Table CORE-6. -/
def Thread.saveSrs (th : Thread) : List Word := th.pc :: (List.range 20).map (th.readSr 0)

/-- The granules of the save area of thread `u` (Table CORE-6). -/
def State.saveImage (s : State) (u : Nat) : List SGran :=
  let c := coreOf u
  let i := idxOf u
  let th := s.thr u
  let tiles := s.savedTiles c i
  let accs := s.savedAccs c i
  let len := 9216 + 4096 * (tiles.length + accs.length)
  let head : List Word :=
    [BitVec.ofNat 64 (1 + i * 2 ^ 16 + th.pass.code * 2 ^ 20), BitVec.ofNat 64 (bitmapOf tiles + 2 ^ 32 * bitmapOf accs),
      BitVec.ofNat 64 len, 0, 0, 0, 0, 0]
  wordGrans (head ++ (List.range 32).map th.rg ++ th.saveSrs ++ [0, 0, 0])
    ++ (List.range 8).map (fun p => ((th.rp p).bits.toNat, decide ((th.rp p).poison ≠ 0)))
    ++ (List.range 32).flatMap (fun v => (List.range 8).map (fun g =>
        (fld (th.rv v).data (256 * g + 255) (256 * g), bit (th.rv v).poison g)))
    ++ wordGrans ((List.range 32).map (fun j => (s.tile c j).attr))
    ++ tiles.flatMap (fun j => rowGrans (s.tile c j).rows)
    ++ accs.flatMap (fun a => rowGrans (s.acc c a).rows)

/-- Write the granules of a save area (R76, R146). -/
def State.saveAll (s : State) (t : Nat) (lines : List (Nat × Word)) (l : List SGran) : State :=
  (l.zipIdx).foldl (fun s x =>
    let a := granAt lines x.2
    s.store a.1 (toBytes 32 x.1.1) (s.acsOf t a.2) (fun _ => x.1.2)) s

/-- The target's tiles have settled, and no array operation is in flight on its accumulators (R76). -/
def State.saveReady (s : State) (c i : Nat) : Bool :=
  (List.range 32).all (fun j => decide (atOwner (s.tile c j).attr ≠ i) || s.settled c j)
    && (s.savedAccs c i).all (fun a => !s.accBusy c a)

/-- Count the 32 stall cycles of each accumulator's array (R76, R77). -/
def State.accStalls (s : State) (c : Nat) (accs : List Nat) : State :=
  accs.foldl (fun s a => s.arrCount c (a / 2) 1 32) s

/-- The target that RA names: a thread index of the same core, HALTED (R75). -/
def State.saveTarget (s : State) (t : Nat) (v : Word) : Option Nat :=
  let u := coreOf t * 16 + v.toNat
  if v.toNat < 16 ∧ (s.thr u).st = .halted then some u else none

/-- Form R of CSAVE and CLOAD: no rule excludes a value of RD or SF, which they do not use (R81). -/
def Body.okSave (f : Body) : Bool := decide (f.resR = 0)

/-- The checks that CSAVE and CLOAD share: privilege, target, alignment (R75, R117). -/
def State.saveChecks (s : State) (t : Nat) (f : Body) : Except Exc Nat :=
  let th := s.thr t
  if stPriv th.sr.st = 0 then .error (excOf exPriv)
  else
    match s.saveTarget t (th.rg f.ra) with
    | none => .error (excOf exIllOpnd)
    | some u => if (th.rg f.rb).toNat % 256 ≠ 0 then .error (excOf exIllOpnd) else .ok u

/-- What CSAVE does at issue; it holds TILE until the target's tiles have settled (R177). -/
def State.csaveAct (s : State) (t : Nat) (f : Body) : Act :=
  match s.saveChecks t f with
  | .error e => .exc s e
  | .ok u =>
    let img := s.saveImage u
    let r := s.areaXlat t .write ((s.thr t).rg f.rb) (linesOf img.length)
    match areaLines r.1 with
    | .error e => .exc r.2 e
    | .ok lines =>
      if !r.2.saveReady (coreOf u) (idxOf u) then .hold r.2
      else .retire ((r.2.saveAll t lines img).accStalls (coreOf u) (s.savedAccs (coreOf u) (idxOf u)))

/-- CSAVE (R75, R76, R146). -/
def execCsave (t : ThreadId) (cond : BitVec 4) (f : BitVec 52) (s : State) : Res :=
  .next (s.issue t.val cond (Body.okSave f) (fun s => s.csaveAct t.val f))

/-! ### Restoring -/

/-- Granule `i` of an area as it is read: value and poison. -/
def State.loadGran (s : State) (t : Nat) (lines : List (Nat × Word)) (i : Nat) : SGran :=
  let a := granAt lines i
  (s.word a.1 32, s.bad (a.1 / 32) (s.acsOf t a.2).tag)

/-- Word `i` of an area. -/
def State.loadWord (s : State) (t : Nat) (lines : List (Nat × Word)) (i : Nat) : Word :=
  BitVec.ofNat 64 ((s.loadGran t lines (i / 4)).1 / 2 ^ (64 * (i % 4)))

/-- Read the granules of an area: what the near store checks and reports (R315). -/
def State.touchArea (s : State) (t : Nat) (lines : List (Nat × Word)) (n : Nat) : State :=
  (List.range n).foldl (fun s i => let a := granAt lines i; s.touch a.1 32 (s.acsOf t a.2)) s

/-- Numbers of the set bits below `n`. -/
def bitsOf (v n : Nat) : List Nat := (List.range n).filter (fun j => decide (v / 2 ^ j % 2 = 1))

/-- Bits of the attribute word that a restore keeps: OWNER, STATE and the format attributes. -/
def attrKeep : Word := 0xFFFF0E1F#64

/-- The rows that granules from number `i` on hold. -/
def State.loadRows (s : State) (t : Nat) (lines : List (Nat × Word)) (i : Nat) : KMap Row :=
  (List.range 32).foldl (fun m r =>
    let g (k : Nat) : SGran := s.loadGran t lines (i + 4 * r + k)
    kset {} m r {
      data := BitVec.ofNat 1024 ((g 0).1 + 2 ^ 256 * (g 1).1 + 2 ^ 512 * (g 2).1 + 2 ^ 768 * (g 3).1)
      poison := BitVec.ofNat 4 (b2n (g 0).2 + 2 * b2n (g 1).2 + 4 * b2n (g 2).2 + 8 * b2n (g 3).2) }) []

/-- Bits of XCAUSE and SCAUSE that are not reserved. -/
def causeMask : Word := 0xC000000000FF03FF#64

/-- Restore special register `sn` other than ST; XCAUSE and SCAUSE, which no MTS writes, come back too (Table CORE-6). -/
def SRegs.load (r : SRegs) (sn : Nat) (v : Word) : SRegs :=
  match sn with
  | 11 => { r with xcause := v &&& causeMask }
  | 15 => { r with scause := v &&& causeMask }
  | _ => r.write sn v

/-- The target's registers from the area; it stays HALTED with its pass tag, and THR_AFLAGS and THR_ATRAP stay (R77,
R130, R146). -/
def State.loadRegs (s : State) (t : Nat) (lines : List (Nat × Word)) (th : Thread) : Thread :=
  let w (i : Nat) : Word := s.loadWord t lines i
  let th1 := (List.range 32).foldl (fun (h : Thread) r => h.wg r (w (8 + r))) th.leave
  let sr := (List.range 20).foldl (fun (r : SRegs) k => r.load k (w (41 + k))) th1.sr
  let th2 : Thread := { th1 with pc := w 40 &&& ~~~7#64, sr := { sr with st := stReturn (w 41) }, pend := [] }
  let th3 := (List.range 8).foldl (fun (h : Thread) p =>
    let g := s.loadGran t lines (16 + p)
    h.wp p { bits := BitVec.ofNat 256 g.1, poison := if g.2 then 0xFF#8 else 0 }) th2
  (List.range 32).foldl (fun (h : Thread) v =>
    let g (k : Nat) : SGran := s.loadGran t lines (24 + 8 * v + k)
    h.wv v {
      data := BitVec.ofNat 2048 (((List.range 8).map (fun k => (g k).1 * 2 ^ (256 * k))).sum)
      poison := BitVec.ofNat 8 (((List.range 8).map (fun k => b2n (g k).2 * 2 ^ k)).sum) }) th3

/-- The saved tile `j` in READY with its saved attributes, owned by the target, not lent (R77, R200). -/
def State.loadTile (s : State) (t u : Nat) (lines : List (Nat × Word)) (j i : Nat) : State :=
  let a := putFld (s.loadWord t lines ((9216 - 256) / 8 + j) &&& attrKeep) 4 0 (idxOf u)
  (s.setTile (coreOf u) j { rows := s.loadRows t lines i, attr := atWith a tReady }).unlatch (coreOf u) j

/-- The first poisoned granule of those that hold the header, the scalar registers and the attribute words. -/
def State.scalarBad (s : State) (t : Nat) (lines : List (Nat × Word)) : Option Nat :=
  ((List.range 16) ++ (List.range 8).map (· + 280)).find? (fun i => (s.loadGran t lines i).2)

/-- CLOAD's restore, once every check has passed (R77). -/
def State.loadAll (s : State) (t u : Nat) (lines : List (Nat × Word)) (tiles accs : List Nat) : State :=
  let c := coreOf u
  let s1 := s.updThr u (s.loadRegs t lines)
  let s2 := (tiles.zipIdx).foldl (fun s x => s.loadTile t u lines x.1 (288 + 128 * x.2)) s1
  let s3 := (accs.zipIdx).foldl (fun s x =>
    s.setAcc c x.1 { s.acc c x.1 with rows := s.loadRows t lines (288 + 128 * (tiles.length + x.2)) }) s2
  s3.accStalls c accs

/-- The last checks of a restore over the translated lines, its waits, and the restore (R77). -/
def State.cloadInto (s : State) (t u : Nat) (lines : List (Nat × Word)) (tiles accs : List Nat) : Act :=
  let c := coreOf u
  let n := 288 + 128 * (tiles.length + accs.length)
  let mine (j : Nat) : Bool := decide (s.tileSt c j = tEmpty) || decide (atOwner (s.tile c j).attr = idxOf u)
  if !(tiles.all mine && accs.all (fun a => decide ((s.acc c a).owner = idxOf u))) then
    .exc (s.touchArea t lines n) (excOf exTileOwner)
  else
    match tiles.find? (fun j => !s.bankOn c j) with
    | some j => .hold (s.wakeBank c j)
    | none =>
      if !(tiles.all (s.settled c) && accs.all (fun a => !s.accBusy c a)) then .hold s
      else .retire ((s.touchArea t lines n).loadAll t u lines tiles accs)

/-- The restore from an area at `va` whose first 9,216 bytes stand at `base` (R77). Where the bitmaps are readable, a failed
translation of a later line comes before the poison of a scalar granule (R119). -/
def State.cloadFrom (s : State) (t u : Nat) (va : Word) (base : List (Nat × Word)) : Act :=
  if (s.loadGran t base 0).2 then .exc (s.touchArea t base 288) (dataErr va)
  else
    let map := s.loadWord t base 1
    let tiles := bitsOf (fld map 31 0) 32
    let accs := bitsOf (fld map 35 32) 4
    let r := s.areaXlat t .read va (linesOf (288 + 128 * (tiles.length + accs.length)))
    match areaLines r.1 with
    | .error e => .exc r.2 e
    | .ok lines =>
      match s.scalarBad t base with
      | some i => .exc (r.2.touchArea t base 288) (dataErr (va + BitVec.ofNat 64 (32 * i)))
      | none => r.2.cloadInto t u lines tiles accs

/-- The area's first line, which can be read, does not hold the format word 1: ILL_OPND comes before a failed translation of
any other line (R77, R119). -/
def State.badFormat (s : State) (t : Nat) (va : Word) : Option State :=
  match s.ownNear t .read va with
  | (.ok x, s1) => if fld (s1.loadWord t [x] 0) 15 0 ≠ 1 then some (s1.touchArea t [x] 1) else none
  | _ => none

/-- What CLOAD does once its target is known: the first 36 lines must translate. -/
def State.cloadTo (s : State) (t u : Nat) (va : Word) : Act :=
  match s.badFormat t va with
  | some s1 => .exc s1 (excOf exIllOpnd)
  | none =>
    let r := s.areaXlat t .read va 36
    match areaLines r.1 with
    | .error e => .exc r.2 e
    | .ok base => r.2.cloadFrom t u va base

/-- What CLOAD does at issue. -/
def State.cloadAct (s : State) (t : Nat) (f : Body) : Act :=
  match s.saveChecks t f with
  | .error e => .exc s e
  | .ok u => s.cloadTo t u ((s.thr t).rg f.rb)

/-- CLOAD (R75, R77, R146). -/
def execCload (t : ThreadId) (cond : BitVec 4) (f : BitVec 52) (s : State) : Res :=
  .next (s.issue t.val cond (Body.okSave f) (fun s => s.cloadAct t.val f))

end Sys2Proof.Machine
end

