-- ==== Sys2Proof/Machine/Events.lean ====
section
/-! DEFINITION. The event collector and its rings (R479 to R486, R511), and snapshots of the cycle counters (R488). -/

namespace Sys2Proof.Machine

/-! ### Rings -/

/-- Place of a unit in the collector's fixed order of queues (log 48). -/
def EUnit.order : EUnit → Nat
  | .core c => c
  | .engine e => 288 + e
  | .mcg g => 324 + g
  | .port p => 340 + p
  | .pel e => 348 + e
  | .cadence => 356
  | .pcie => 357
  | .sem d => 358 + d
  | .seqTab d => 362 + d
  | .clk => 367
  | .sc => 368
  | .hub => 369

/-- Ring `r`. -/
def State.ring (s : State) (r : Nat) : Ring := kget {} s.events.rings r
def State.setRing (s : State) (r : Nat) (x : Ring) : State := { s with events := { s.events with rings := kset {} s.events.rings r x } }

/-- Slots of a ring (EVR_CFGr.SIZE). -/
def Ring.slots (x : Ring) : Nat := 2 ^ (min x.size 14 + 6)

/-- Records that the ring still has room for (R482). -/
def Ring.room (x : Ring) : Nat := x.slots - (x.tail - x.head).toNat

/-- Address of slot TAIL. -/
def Ring.slot (x : Ring) : Nat := fld x.base 63 12 * 2 ^ 12 + x.tail.toNat % x.slots * 32

/-- The ring can be written (R482). -/
def State.ringOk (s : State) (x : Ring) : Bool :=
  x.en && (if x.space then s.gear.memReady && s.isMem x.slot
    else s.host.bme && decide (s.host.winBase.toNat ≤ x.slot) && decide (x.slot < s.host.winBase.toNat + 2 ^ 42))

/-- The 32 bytes of a record (Table ERR-2). -/
def Event.bytes (e : Event) (seq : BitVec 32) : List Byte :=
  toBytes 8 (e.code + e.cls * 2 ^ 16 + e.domain * 2 ^ 20 + seq.toNat * 2 ^ 32) ++ toBytes 8 e.counter.toNat
    ++ toBytes 8 e.location.toNat ++ toBytes 8 e.detail.toNat

/-- A record is written at slot TAIL with the next SEQ; ARM sends its message and clears (R482, R484). -/
def State.ringPut (s : State) (r : Nat) (e : Event) : State :=
  let x := s.ring r
  let bs := e.bytes x.seq
  let s1 := if x.space then s.store x.slot bs { cls := .bulk } else s.hostStore (x.slot - s.host.winBase.toNat) bs
  let s2 := s1.setRing r { x with tail := x.tail + 1, seq := x.seq + 1, arm := false }
  if x.arm then s2.msix x.vec else s2

/-- The record of EVT_LOST (R483). -/
def State.lostEvent (s : State) (r : Nat) : Event :=
  { code := 0x0001, cls := evConfig, domain := 0x40, counter := s.count 0x40, location := BitVec.ofNat 64 r
    detail := BitVec.ofNat 64 (s.ring r).since }

/-- A record is lost: its SEQ is used and LOST counts it, saturating (R482, R483). -/
def State.ringLose (s : State) (r : Nat) : State :=
  let x := s.ring r
  s.setRing r { x with seq := x.seq + 1, since := x.since + 1, lost := if x.lost = BitVec.allOnes 32 then x.lost else x.lost + 1 }

/-- A record goes to slot TAIL, or is lost (R482). -/
def State.ringStore (s : State) (r : Nat) (e : Event) : State :=
  if s.ringOk (s.ring r) && decide ((s.ring r).room ≠ 0) then s.ringPut r e else s.ringLose r

/-- A record reaches its ring: written, after EVT_LOST where records were lost and two fit, or lost (R482, R483). -/
def State.ringWrite (s : State) (r : Nat) (e : Event) : State :=
  let x := s.ring r
  if s.ringOk x && decide (x.since ≠ 0) && decide (2 ≤ x.room) then
    let s1 := s.ringPut r (s.lostEvent r)
    (s1.setRing r { s1.ring r with since := 0 }).ringStore r e
  else s.ringStore r e

/-- The first FATAL record after a re-arm is latched (R485). -/
def State.latchFatal (s : State) (e : Event) : State :=
  if e.cls = evFatal ∧ s.events.fatalValid = false then
    { s with events := { s.events with fatalValid := true, fatalCode := e.code, fatalDomain := e.domain, fatalLoc := e.location } }
  else s

/-- The ring of a class (EVR_MAP). -/
def Events.ringFor (v : Events) (cls : Nat) : Nat := fld v.ringOf (3 * cls + 2) (3 * cls)

/-- A record that has been taken: latched, then suppressed by DIS or brought to its ring (R481, R485). -/
def State.record (s : State) (e : Event) : State :=
  let s1 := s.latchFatal e
  if e.cls ≠ evFatal ∧ bit s.events.dis e.cls = true then s1 else s1.ringWrite (s.events.ringFor e.cls) e

/-! ### Collection (R511) -/

/-- Rank of a queue in the round-robin: those at or after the place of the last one taken come first. -/
def rrRank (start o : Nat) : Nat := if start ≤ o then o - start else o + 1000 - start

/-- The better of two candidate queues, with their head records. -/
def better (start : Nat) (a b : EUnit × Event) : EUnit × Event :=
  let fa := decide (a.2.cls = evFatal)
  let fb := decide (b.2.cls = evFatal)
  if fa ≠ fb then (if fa then a else b)
  else if rrRank start b.1.order < rrRank start a.1.order then b else a

/-- The queue that the collector takes, with its head record. -/
def Events.choice (v : Events) : Option (EUnit × Event) :=
  v.queues.foldl (fun m q =>
    match q.2, m with
    | [], _ => m
    | e :: _, none => some (q.1, e)
    | e :: _, some a => some (better v.lastTaken a (q.1, e))) none

/-- Take the head record of a unit's queue. -/
def evPop (q : List (EUnit × List Event)) (u : EUnit) : List (EUnit × List Event) :=
  q.filterMap (fun p => if p.1 = u then (if p.2.tail = [] then none else some (p.1, p.2.tail)) else some p)

/-- EVENT_COLLECTION (R511): one record is taken while the hub fabric runs. -/
def execEventCollection (s : State) : Host.Outcome State Fault Refusal :=
  .next (if s.clkOff.contains 0x40 then s
    else
      match s.events.choice with
      | none => s
      | some (u, e) =>
        ({ s with events := { s.events with queues := evPop s.events.queues u, lastTaken := u.order + 1 } } : State).record e)

/-- A FATAL record that the SC writes itself while the hub fabric is off: to its ring when that has SPACE 0, else it stays in the
queue and is lost when the fabric returns (R485, R486). -/
def State.scFatal (s : State) (code loc det : Nat) : State :=
  let e : Event := { code := code, cls := evFatal, domain := 0x80, counter := s.count 0x80, location := BitVec.ofNat 64 loc
                     detail := BitVec.ofNat 64 det }
  let r := s.events.ringFor evFatal
  let s1 := s.latchFatal e
  if (s.ring r).space then s1.raise .sc 0x80 code evFatal loc det else s1.ringWrite r e

/-- Records that a trip or a rail fault left in the queues are lost and counted at the rings they were for (R486), in `s1`. -/
def State.loseQueued (s s1 : State) : State :=
  (s.events.queues.flatMap (·.2)).foldl (fun x e =>
    if e.cls ≠ evFatal ∧ bit s.events.dis e.cls = true then x else x.ringLose (s.events.ringFor e.cls)) s1

/-- EVR_CFG_WRITE (EVR_CFGr): a change of EN from 0 to 1 sets HEAD and TAIL to 0, and LOST, which
counts since enable. Records that were lost before stay to be reported by EVT_LOST (R483). -/
def execEvrCfgWrite (r : Fin 8) (v : Word) (s : State) : Host.Outcome State Fault Refusal :=
  let x := s.ring r.val
  let y : Ring := { x with en := bit v 63, space := bit v 62, arm := bit v 61, vec := fld v 46 36, size := fld v 3 0 }
  .next (s.byReg (s.setRing r.val (if bit v 63 && !x.en then { y with head := 0, tail := 0, lost := 0 } else y)))

/-- EVT_FATAL0_WRITE (R485, R12): the fields take the value written; VALID 0 re-arms. -/
def execEvtFatal0Write (v : Word) (s : State) : Host.Outcome State Fault Refusal :=
  .next (s.byReg { s with events := { s.events with fatalCode := fld v 63 48, fatalDomain := fld v 47 36, fatalValid := bit v 0 } })

/-! ### Snapshots (R488) -/

/-- The domains that a snapshot latches along a path. -/
def snapDomains : List Nat :=
  [0, 1, 2, 3, 0x10, 0x11, 0x12, 0x13] ++ (List.range 16).map (0x20 + ·) ++ (List.range 8).map (0x50 + ·) ++ [0x60, 0x70, 0x80]

/-- GO of CLK_SNAP_CTL: HCLK latches now; ignored while a snapshot is in progress. -/
def State.snapGo (s : State) : State :=
  if s.snapBusy then s
  else { s with snapBusy := true, snapDone := false, snapWait := snapDomains, snap := kset 0 s.snap 0x40 (s.count 0x40) }

/-- CLK_SNAP (R488). -/
def execClkSnap (s : State) : Host.Outcome State Fault Refusal := .next (s.byReg s.snapGo)

/-- SNAPSHOT_LATCH (R488): the request is visible in a domain; DONE follows the last latch. -/
def execSnapshotLatch (id : BitVec 12) (s : State) : Host.Outcome State Fault Refusal :=
  let n := id.toNat
  .next (if s.snapBusy && s.snapWait.contains n then
      let left := s.snapWait.erase n
      { s with snap := kset 0 s.snap n (s.count n), snapWait := left, snapBusy := !left.isEmpty, snapDone := left.isEmpty }
    else s)

end Sys2Proof.Machine
end

