-- ==== Sys2Proof/Machine/Image.lean ====
section
/-! DEFINITION. The gearing image (16): its header, directory and sections, and its validation: form, signatures, versions,
tandem approval, fields and conflicts, in the order of R412. -/

namespace Sys2Proof.Machine

/-! ### Words of an image (R409) -/

/-- The 8-byte word at byte offset `o`. -/
def imgWord (i : Image) (o : Nat) : Word := kget 0 i.words (o / 8)

/-- Bytes `[0, 8 * n)` of an image. -/
def imgBytes (i : Image) (n : Nat) : List Byte := (List.range n).flatMap (fun k => toBytes 8 (imgWord i (8 * k)).toNat)

/-- A directory entry (Table GEAR-1). -/
structure DirEnt where
  sid : Nat
  off : Nat
  len : Nat
  deriving DecidableEq, Repr

/-- NSEC. -/
def imgNsec (i : Image) : Nat := fld (imgWord i 0x08) 39 32

/-- Offset of directory entry `k`. -/
def dirAt (k : Nat) : Nat := 0x40 + k * 16

/-- Directory entry `k`. -/
def dirEnt (i : Image) (k : Nat) : DirEnt :=
  { sid := fld (imgWord i (dirAt k)) 7 0, off := fld (imgWord i (dirAt k)) 63 32, len := fld (imgWord i (dirAt k + 8)) 31 0 }

/-- The entries in use. -/
def imgDir (i : Image) : List DirEnt := (List.range (min (imgNsec i) 12)).map (dirEnt i)

/-- The entry of a section. -/
def imgSec (i : Image) (sid : Nat) : Option DirEnt := (imgDir i).find? (fun e => decide (e.sid = sid))

/-- The image carries the section. -/
def imgHas (i : Image) (sid : Nat) : Bool := (imgSec i sid).isSome

/-- Image offset of a section, 0 when it is absent. -/
def secOff (i : Image) (sid : Nat) : Nat :=
  match imgSec i sid with
  | some e => e.off
  | none => 0

/-- The word that stands for an absent section (Table GEAR-2, SE_CFG). -/
def absentWord (sid rel : Nat) : Word :=
  if sid = 4 ∧ rel < 0x240 then (if rel % 16 = 8 then 0x1000#64 else if rel < 0x200 then 512#64 else 0)
  else if sid = 8 ∧ 0x2D40 ≤ rel ∧ rel < 0x2D60 then 0x100#64
  else 0

/-- The word at offset `rel` of a section. -/
def secWord (i : Image) (sid rel : Nat) : Word :=
  match imgSec i sid with
  | some e => imgWord i (e.off + rel)
  | none => absentWord sid rel

/-- Byte `rel` of a section. -/
def secByte (i : Image) (sid rel : Nat) : Nat := fld (secWord i sid (rel / 8 * 8)) (rel % 8 * 8 + 7) (rel % 8 * 8)

/-! ### What the sections say (Table GEAR-3) -/

/-- Control word and range `k` of partition `p`. -/
def imgPartEn (i : Image) (p : Nat) : Bool := bit (secWord i 1 (p * 0x100)) 0
def imgRanges (i : Image) (p : Nat) : List PRange :=
  (List.range (min (fld (secWord i 1 (p * 0x100)) 4 1) 12)).map (fun k =>
    let w := secWord i 1 (p * 0x100 + 0x40 + k * 16)
    { base := fld w 47 16 * 2 ^ 16, limit := fld (secWord i 1 (p * 0x100 + 0x48 + k * 16)) 47 16 * 2 ^ 16, share := bit w 0 })

/-- The count word of a core; a number above 287 names no core. -/
def imgCoreWord (i : Image) (c : Nat) : Word := if c < 288 then secWord i 2 (c * 0x40) else 0
/-- Threads of the six pass tags, in the order of R42. -/
def imgCounts (i : Image) (c : Nat) : List Nat := (List.range 6).map (fun k => fld (imgCoreWord i c) (5 * k + 4) (5 * k))
def imgThreads (i : Image) (c : Nat) : Nat := (imgCounts i c).sum
def imgCorePart (i : Image) (c : Nat) : Nat := fld (imgCoreWord i c) 33 32
/-- ITHR and PRI of a core (BELL). -/
def imgIthr (i : Image) (c : Nat) : Nat := secByte i 8 c % 16
def imgPri (i : Image) (c n : Nat) : Nat := secByte i 8 (0x140 + c * 0x20 + n / 2) / 16 ^ (n % 2) % 16

/-- Offset of MEM_BKTg_c of group `g` = die * 4 + group. -/
def bktAt (g c : Nat) : Nat := 0x80 + g * 0x20 + c * 8
/-- Offset of a context's word. -/
def ctxAt (x : Nat) : Nat := 0x240 + x * 8

/-- CODE of a pass tag's class. -/
def tagClass (k : Nat) : Nat := if k = 0 then 3 else if k = 1 then 0 else if k = 5 then 2 else 1

/-- Classes with an allotted thread on a core. -/
def coreClasses (i : Image) (c : Nat) : List Nat :=
  (List.range 4).filter (fun x => (List.range 6).any (fun k => decide (tagClass k = x) && decide ((imgCounts i c).getD k 0 ≠ 0)))

/-- Contexts that the SE section allots. -/
def imgCtxs (i : Image) : List Nat := (List.range 10752).filter (fun x => bit (secWord i 4 (ctxAt x)) 0)

/-- Classes with an allotted thread or context. -/
def imgClasses (i : Image) : List Nat :=
  (List.range 4).filter (fun x => (List.range 288).any (fun c => (coreClasses i c).contains x)
    || (imgCtxs i).any (fun y => decide (fld (secWord i 4 (ctxAt y)) 2 1 = x)))

/-- Enabled ports, trees, channels and pools. -/
def imgPorts (i : Image) : List Nat := (List.range 8).filter (fun p => bit (secWord i 5 (8 + p * 8)) 0)
def imgTrees (i : Image) : List Nat := (List.range 8).filter (fun t => bit (secWord i 6 (t * 0x20)) 0)
def imgChans (i : Image) : List Nat := (List.range 4).filter (fun c => bit (secWord i 7 (0x10 + c * 16)) 63)
def imgPools (i : Image) : List Nat := (List.range 16).filter (fun p => bit (secWord i 7 (0x80 + p * 16)) 63)
def imgCadEn (i : Image) : Bool := bit (secWord i 7 0) 63

/-- Domain `d` is ON. -/
def imgOn (i : Image) (d : Nat) : Bool := decide (secByte i 9 (8 + d) = 1)

/-- A cadence channel of the image. -/
def imgChan (i : Image) (c : Nat) : Chan :=
  let w := secWord i 7 (0x10 + c * 16)
  { en := bit w 63, fmt := fld w 62 60, nslot := fld w 54 48, actw := fld w 47 32
    ring := fld (secWord i 7 (0x18 + c * 16)) 47 12 * 2 ^ 12 }

/-- A pool of the image. -/
def imgPool (i : Image) (p : Nat) : Pool :=
  let w := secWord i 7 (0x80 + p * 16)
  let v := secWord i 7 (0x88 + p * 16)
  { en := bit w 63, part := fld w 59 58, clast := fld w 57 49, cfirst := fld w 48 40, nthr := fld w 39 36
    qdepth := fld w 35 32, rsig := BitVec.ofNat 32 (fld w 31 0), gosem := fld v 49 36, mrate := fld v 35 25
    nctx := fld v 23 14, ctxfirst := fld v 13 0 }

/-- The cores of a pool. -/
def poolCores (x : Pool) : List Nat := (List.range (x.clast + 1 - x.cfirst)).map (x.cfirst + ·)
/-- The contexts of a pool. -/
def poolCtxs (x : Pool) : List Nat := (List.range x.nctx).map (x.ctxfirst + ·)

/-! ### Reports (R413)

Where a conflict is between more than two fields, the latest is named, and OFF2 is the earliest (DESIGN CHOICE, log 62). -/

/-- A field: section, offset in it, lowest bit. -/
structure Spot where
  sid : Nat
  rel : Nat
  bit : Nat
  deriving DecidableEq, Repr

/-- A rejection: code, section, image offset, bit, and the offset of the other field. -/
structure Rej where
  code : Nat
  sid : Nat := 0
  off : Nat := 0
  bit : Nat := 0
  off2 : Nat := 0
  deriving DecidableEq, Repr

/-- Image offset of a field's word. -/
def Spot.off (i : Image) (x : Spot) : Nat := secOff i x.sid + x.rel / 8 * 8

/-- The report of a field. -/
def rejAt (i : Image) (code : Nat) (x : Spot) : Rej := { code := code, sid := x.sid, off := x.off i, bit := x.bit }

/-- The report of a conflict names the field of the higher section, or the later field; OFF2 is the other (R413). -/
def rejPair (i : Image) (code : Nat) (x y : Spot) : Rej :=
  let later := decide (x.sid > y.sid) || (decide (x.sid = y.sid) && (decide (x.rel > y.rel) || (decide (x.rel = y.rel) && decide (x.bit ≥ y.bit))))
  let a := if later then x else y
  let b := if later then y else x
  { rejAt i code a with off2 := if imgHas i b.sid then b.off i else 0 }

/-- The field of byte `rel` of a section, from bit `b` of the byte. -/
def byteSpot (sid rel b : Nat) : Spot := { sid := sid, rel := rel / 8 * 8, bit := rel % 8 * 8 + b }

/-! ### Step 1: the form -/

/-- Sizes of Table GEAR-2; SIG has 0x40 + NSIG * 0x60. -/
def secSize : Nat → Nat
  | 1 => 0x400
  | 2 => 0x4800
  | 3 => 0x280
  | 4 => 0x15240
  | 5 => 0xA200
  | 6 => 0x100
  | 7 => 0x180
  | 8 => 0x2D80
  | 9 => 0x80
  | 10 => 0x440
  | _ => 0

/-- NSIG of the SIG section at an offset. -/
def nsigAt (i : Image) (o : Nat) : Nat := fld (imgWord i o) 2 0

/-- The size that an entry must give; none when NSIG is out of range. -/
def sizeOf (i : Image) (e : DirEnt) : Option Nat :=
  if e.sid = 11 then
    (if 1 ≤ nsigAt i e.off ∧ nsigAt i e.off ≤ 4 then some (0x40 + nsigAt i e.off * 0x60) else none)
  else some (secSize e.sid)

/-- The failure of directory entry `k`, `prev` the entry before it. -/
def entryFail (i : Image) (k : Nat) (prev : Option DirEnt) : Option Rej :=
  let e := dirEnt i k
  let lo := match prev with
    | some p => p.sid
    | none => 0
  let from_ := match prev with
    | some p => p.off + p.len
    | none => 0x100
  if fld (imgWord i (dirAt k)) 15 8 ≠ 1 then some { code := 0x02, off := dirAt k, bit := 8 }
  else if e.sid ≤ lo ∨ 11 < e.sid then some { code := 0x04, off := dirAt k }
  else if e.off % 64 ≠ 0 ∨ e.off < from_ then some { code := 0x04, off := dirAt k, bit := 32 }
  else if sizeOf i e ≠ some e.len ∨ i.bytes < e.off + e.len then some { code := 0x04, off := dirAt k + 8 }
  else none

/-- The first failing directory entry from `k` on. -/
def dirFail (i : Image) : Nat → Nat → Option DirEnt → Option Rej
  | 0, _, _ => none
  | n + 1, k, prev =>
    match entryFail i k prev with
    | some r => some r
    | none => dirFail i n (k + 1) (some (dirEnt i k))

/-- Step 1 of R412: codes 0x01 to 0x05. `len` is the loaded length. -/
def formFail (i : Image) (len : Nat) : Option Rej :=
  let h := imgWord i 0
  if fld h 31 0 ≠ 0x52474C4F then some { code := 0x01 }
  else if fld h 47 32 ≠ 1 then some { code := 0x02, bit := 32 }
  else if fld h 63 48 ≠ 0x100 then some { code := 0x02, bit := 48 }
  else if fld (imgWord i 8) 31 0 > 2 ^ 24 ∨ fld (imgWord i 8) 31 0 ≠ len then some { code := 0x03, off := 8 }
  else if imgNsec i < 5 ∨ 11 < imgNsec i then some { code := 0x04, off := 8, bit := 32 }
  else
    match dirFail i (imgNsec i) 0 none with
    | some r => some r
    | none =>
      match [1, 2, 3, 9, 11].find? (fun s => !imgHas i s) with
      | some s => some { code := 0x05, sid := s }
      | none =>
        if secOff i 11 + (0x40 + nsigAt i (secOff i 11) * 0x60) ≠ i.bytes then some { code := 0x04, off := dirAt (imgNsec i - 1) }
        else none

/-! ### Step 2: signatures (R412, R454) -/

/-- KEYID of a public key: the first 8 bytes of its SHA-512 digest (R454). -/
def keyId (k : BitVec 256) : Word := BitVec.ofNat 64 (Config.sha512 (toBytes 32 k.toNat)).toNat

/-- Offset of signature `k`. -/
def sigAt (i : Image) (k : Nat) : Nat := secOff i 11 + 0x40 + k * 0x60

/-- The bytes that signatures cover. -/
def imgSigned (i : Image) : List Byte := imgBytes i (secOff i 11 / 8)

/-- The enrolled key that signature `k` names in its ROLE. -/
def sigKey (keys : List Key) (i : Image) (k : Nat) : Option Key :=
  let role := fld (imgWord i (sigAt i k + 8)) 7 0
  keys.find? (fun x => decide (keyId x.key = imgWord i (sigAt i k))
    && (match x.role with
        | .owner => decide (role = 1)
        | .operator => decide (role = 2)))

/-- Signature bytes of entry `k`. -/
def sigValue (i : Image) (k : Nat) : BitVec 512 :=
  BitVec.ofNat 512 (ofBytes ((List.range 8).flatMap (fun j => toBytes 8 (imgWord i (sigAt i k + 16 + 8 * j)).toNat)))

/-- Failure of signature `k`. -/
def sigFail (keys : List Key) (i : Image) (k : Nat) : Option Rej :=
  match sigKey keys i k with
  | none => some { code := 0x06, sid := 11, off := sigAt i k }
  | some x =>
    if Config.ed25519Verify x.key (imgSigned i) (sigValue i k) then none
    else some { code := 0x06, sid := 11, off := sigAt i k + 16 }

/-- The first failure of a list of checks. -/
def firstFail (l : List (Option Rej)) : Option Rej :=
  match l with
  | [] => none
  | some r :: _ => some r
  | none :: t => firstFail t

def sigsFail (keys : List Key) (i : Image) : Option Rej :=
  firstFail ((List.range (nsigAt i (secOff i 11))).map (sigFail keys i))

/-! ### Step 4: tandem approval (R420, R421) -/

/-- The word of the PROT in effect at an offset from 0x10 on. -/
def State.protWord (s : State) (rel : Nat) : Word :=
  if rel = 0x10 then BitVec.ofNat 64 s.gear.dbg
  else if rel < 0x40 then 0
  else
    let x : Prot := kget {} s.prots ((rel - 0x40) / 0x20)
    match (rel - 0x40) % 0x20 / 8 with
    | 0 => BitVec.ofNat 64 x.base
    | 1 => BitVec.ofNat 64 x.limit
    | 2 => BitVec.ofNat 64 (b2n x.en + b2n x.sconly * 2 + x.nopart.toNat * 4 + b2n x.nohost * 64 + b2n x.nolink * 128)
    | _ => 0

/-- The image's PROT section differs from the PROT in effect at an offset. -/
def State.protDiffers (s : State) (i : Image) (rel : Nat) : Bool := decide (secWord i 10 rel ≠ s.protWord rel)

/-- The image needs tandem approval (R420). -/
def State.needsTandem (s : State) (i : Image) : Bool :=
  imgHas i 10 &&
    ((List.range (0x430 / 8 - 1)).any (fun k => s.protDiffers i (0x18 + 8 * k))
      || (s.protDiffers i 0x10 && !decide ((secWord i 10 0x10).toNat < s.gear.dbg)))

/-- Step 4 of R412 (R421). -/
def State.tandemFail (s : State) (i : Image) : Option Rej :=
  if !s.needsTandem i then none
  else
    let roles := (List.range 2).map (fun k => fld (imgWord i (sigAt i k + 8)) 7 0)
    if nsigAt i (secOff i 11) ≠ 2 ∨ imgWord i (sigAt i 0) = imgWord i (sigAt i 1) ∨ (roles ≠ [1, 2] ∧ roles ≠ [2, 1]) then
      some { code := 0x09, sid := 11, off := secOff i 11 }
    else if secWord i 10 0 ≠ BitVec.ofNat 64 s.gear.chal.toNat then some { code := 0x0A, sid := 10, off := secOff i 10 }
    else if secWord i 10 8 ≠ BitVec.ofNat 64 (s.gear.chal.toNat / 2 ^ 64) then
      some { code := 0x0A, sid := 10, off := secOff i 10 + 8 }
    else none

/-! ### Step 5: fields (R410) -/

/-- The whole word must be 0. -/
def allZero : List (Nat × Nat) := [(63, 0)]

/-- Fields that must be 0 in the word at an offset of a section: reserved fields and those without a gear value (R410). -/
def zeroFields (i : Image) (sid rel : Nat) : List (Nat × Nat) :=
  match sid with
  | 1 =>
    let r := rel % 0x100
    if r = 0 then [(63, 5)] else if r = 8 then [(12, 0), (63, 48)] else if r < 0x40 then allZero
    else if r % 16 = 0 then [(15, 1), (63, 48)] else [(15, 0), (63, 48)]
  | 2 =>
    let r := rel % 0x40
    if r = 0 then [(31, 30), (63, 34)] else if r = 8 then [(63, 18)] else if r < 0x30 then [(63, 48)]
    else if r = 0x30 then [(3, 2), (7, 4), (63, 8)] else allZero
  | 3 =>
    if rel = 0 then [(3, 2), (4, 4), (63, 5)] else if rel < 0x10 then allZero
    else if rel < 0x30 then [(1, 1), (15, 6), (31, 29), (63, 45)] else if rel < 0x50 then [(63, 16)]
    else if rel < 0x80 then allZero else [(18, 11), (43, 32), (63, 44)]
  | 4 =>
    if rel < 0x240 then (if rel % 16 = 0 then [(31, 10), (63, 42)] else [(63, 18)]) else [(63, 16)]
  | 5 =>
    if rel = 0 then [(15, 10)] else if rel < 0x48 then [(15, 4), (63, 26)] else if rel < 0x80 then allZero
    else if rel < 0x180 then (if rel % 16 = 0 then [(15, 10), (59, 48)] else [(15, 0), (63, 48)])
    else if rel < 0x200 then allZero else if rel < 0x2200 then [(3, 3), (5, 5), (63, 8)]
    else [(14, 12), (31, 16), (46, 44), (63, 48)]
  | 6 =>
    if rel % 0x20 = 0 then [(7, 5), (31, 10), (47, 43)] else if rel % 0x20 = 0x18 then allZero else []
  | 7 =>
    if rel = 0 then [(3, 0)] else if rel = 8 then []
    else if rel < 0x50 then (if rel % 16 = 0 then [(31, 0), (59, 55)] else [(11, 0), (63, 48)])
    else if rel < 0x80 then allZero
    else if rel % 16 = 0 then [(62, 60)] else [(24, 24), (63, 50)]
  | 8 =>
    if rel < 0x120 then (List.range 8).map (fun k => (8 * k + 7, 8 * k + 4)) else if rel < 0x140 then allZero
    else if rel < 0x2540 then []
    else if rel < 0x2D40 then
      let t := fld (secWord i 8 rel) 31 30
      [(5, 4), (6, 6), (7, 7), (15, 8)] ++ (if t = 1 then [(20, 20)] else if t = 2 then [(29, 27)] else [(29, 16)]) ++ [(63, 32)]
    else if rel < 0x2D60 then [(0, 0), (7, 2), (63, 19)] else if rel = 0x2D60 then [(63, 16)] else allZero
  | 9 => if rel = 0 then [(63, 16)] else if rel < 0x58 then [] else allZero
  | 10 =>
    if rel < 0x10 then [] else if rel = 0x10 then [(63, 2)] else if rel < 0x40 then allZero
    else
      let r := rel % 0x20
      if r < 0x10 then [(15, 0), (63, 48)] else if r = 0x10 then [(63, 8)] else allZero
  | 11 =>
    if rel = 0 then [(63, 3)] else if rel < 0x40 then allZero
    else
      let r := (rel - 0x40) % 0x60
      if r = 8 then [(63, 8)] else if r < 0x50 then [] else allZero
  | _ => []

/-- Lowest bits of the fields of a word whose value the owning chapter excludes (code RANGE). -/
def rangeFails (i : Image) (sid rel : Nat) : List Nat :=
  let w := secWord i sid rel
  let no (b : Nat) (ok : Bool) : List Nat := if ok then [] else [b]
  match sid with
  | 1 => if rel % 0x100 = 0 then no 1 (decide (fld w 4 1 ≤ 12)) else []
  | 3 =>
    if rel = 0 then no 0 (decide (fld w 1 0 ≤ 2))
    else if rel < 0x80 then []
    else no 0 (decide (fld w 10 0 ≤ 1024)) ++ no 20 (decide (1 ≤ fld w 31 20))
  | 4 => if rel < 0x200 ∧ rel % 16 = 0 then no 0 (decide (fld w 9 0 = 512)) else []
  | 5 => if 8 ≤ rel ∧ rel < 0x48 then no 1 (decide (fld w 2 1 ≠ 3)) else []
  | 6 => if rel % 0x20 = 0 ∧ bit w 0 = true then no 32 (decide (1 ≤ fld w 42 32) && decide (fld w 42 32 ≤ 1024)) else []
  | 7 =>
    if rel = 0 then no 48 (decide (825 ≤ fld w 59 48) && decide (fld w 59 48 ≤ 3300)) ++ no 60 (decide (fld w 62 60 ≤ 4))
    else if 0x80 ≤ rel ∧ rel % 16 = 0 ∧ bit w 63 = true then no 32 (decide (1 ≤ fld w 35 32) && decide (fld w 35 32 ≤ 8))
    else []
  | 8 =>
    if 0x2540 ≤ rel ∧ rel < 0x2D40 ∧ fld w 31 30 = 1 then no 16 (decide (fld w 29 21 < 288))
    else if 0x2D40 ≤ rel ∧ rel < 0x2D60 then no 8 (decide (1 ≤ fld w 15 8))
    else if rel = 0x2D60 then (List.range 8).flatMap (fun f => no (2 * f) (decide (fld w (2 * f + 1) (2 * f) ≠ 3)))
    else []
  | 9 =>
    if rel = 0 then no 0 (decide (1200 ≤ fld w 15 0) && decide (fld w 15 0 ≤ 4400))
    else if rel < 0x58 then
      (List.range 8).flatMap (fun k =>
        let d := rel - 8 + k
        let off := decide (d < 72) && decide (d % 18 < 12) || [74, 75, 76, 77, 79].contains d
        no (8 * k) (decide (fld w (8 * k + 7) (8 * k) = 1) || (decide (fld w (8 * k + 7) (8 * k) = 0) && off)))
    else []
  | 10 => if rel = 0x10 then no 0 (decide (fld w 1 0 ≤ 2)) else []
  | _ => []

/-- The failing field of a word with the lowest bit, RESERVED before RANGE on equal bits. -/
def wordFail (i : Image) (sid rel : Nat) : Option Rej :=
  let w := secWord i sid rel
  let z := ((zeroFields i sid rel).filter (fun f => decide (fld w f.1 f.2 ≠ 0))).map (fun f => (f.2, 0x10))
  let r := (rangeFails i sid rel).map (fun b => (b, 0x11))
  ((z ++ r).foldl (fun (m : Option (Nat × Nat)) x =>
    match m with
    | some y => if x.1 < y.1 then some x else m
    | none => some x) none).map (fun x => rejAt i x.2 { sid := sid, rel := rel, bit := x.1 })

/-- Reserved fields of the header and directory. -/
def headFail (i : Image) : Option Rej :=
  let z (o hi lo : Nat) : Option Rej := if fld (imgWord i o) hi lo = 0 then none else some { code := 0x10, off := o, bit := lo }
  firstFail ([z 8 63 48, z 0x10 63 32] ++ (List.range 4).map (fun k => z (0x20 + 8 * k) 63 0)
    ++ (List.range 12).flatMap (fun k =>
      if k < imgNsec i then [z (dirAt k) 31 16, z (dirAt k + 8) 63 32] else [z (dirAt k) 63 0, z (dirAt k + 8) 63 0]))

/-- A nonzero word between two sections, reported with the section before it. -/
def gapFail (i : Image) (sid lo hi : Nat) : Option Rej :=
  firstFail ((List.range ((hi - lo) / 8)).map (fun k =>
    if imgWord i (lo + 8 * k) = 0 then none else some { code := 0x10, sid := sid, off := lo + 8 * k }))

/-- Step 5 of R412. -/
def fieldsFail (i : Image) : Option Rej :=
  let d := imgDir i
  let first := match d.head? with
    | some e => e.off
    | none => 0x100
  match headFail i with
  | some r => some r
  | none =>
    match gapFail i 0 0x100 first with
    | some r => some r
    | none =>
      firstFail ((List.range d.length).flatMap (fun k =>
        match d[k]? with
        | none => []
        | some e =>
          let next := match d[k + 1]? with
            | some n => n.off
            | none => e.off + e.len
          (List.range (e.len / 8)).map (fun j => wordFail i e.sid (8 * j)) ++ [gapFail i e.sid (e.off + e.len) next]))

/-! ### Step 6: conflicts (Table GEAR-4) -/

/-- The partition a field names has EN 0 (code 0x38). -/
def partRef (i : Image) (p : Nat) (x : Spot) : Option Rej :=
  if imgPartEn i p then none else some (rejPair i 0x38 x ⟨1, p * 0x100, 0⟩)

/-- A floor word with FLOOR_BULK 0 or a sum above 63 (R54, R271). -/
def floorFail (i : Image) (code sid rel : Nat) : Option Rej :=
  let w := secWord i sid rel
  if fld w 17 12 = 0 then some (rejAt i code ⟨sid, rel, 12⟩)
  else if fld w 17 12 + fld w 11 6 + fld w 5 0 > 63 then some (rejPair i code ⟨sid, rel, 12⟩ ⟨sid, rel, 0⟩)
  else none

def threadsFail (i : Image) (c : Nat) : Option Rej :=
  if imgThreads i c ≤ 16 then none else some (rejPair i 0x20 ⟨2, c * 0x40, 25⟩ ⟨2, c * 0x40, 0⟩)

/-- The interrupt thread is UNALLOTTED; ITHR 0 of a core without threads names none (R42). -/
def ithrFail (i : Image) (c : Nat) : Option Rej :=
  if imgIthr i c = 0 ∨ imgIthr i c < imgThreads i c then none
  else some (rejPair i 0x21 (byteSpot 8 c 0) ⟨2, c * 0x40, 0⟩)

def maskFail (i : Image) (c : Nat) : Option Rej :=
  firstFail ((coreClasses i c).map (fun x =>
    if fld (secWord i 2 (c * 0x40 + 0x10 + x * 8)) 47 0 ≠ 0 then none
    else some (rejPair i 0x24 ⟨2, c * 0x40 + 0x10 + x * 8, 0⟩ ⟨2, c * 0x40, 0⟩)))

/-- The regions do not tile the populated range, of `top` units of 384 MiB (R293); `pos` is the end of those before. -/
def regionFail (i : Image) (top : Nat) : Nat → Nat → Nat → Nat → Option Rej
  | 0, _, pos, last => if pos = top then none else some (rejAt i 0x25 ⟨3, 0x10 + last * 8, 32⟩)
  | n + 1, r, pos, last =>
    let w := secWord i 3 (0x10 + r * 8)
    if fld w 5 3 > 4 then some (rejAt i 0x25 ⟨3, 0x10 + r * 8, 3⟩)
    else if !bit w 0 then regionFail i top n (r + 1) pos last
    else if fld w 28 16 ≠ pos then
      some (if pos = 0 then rejAt i 0x25 ⟨3, 0x10 + r * 8, 16⟩ else rejPair i 0x25 ⟨3, 0x10 + r * 8, 16⟩ ⟨3, 0x10 + last * 8, 32⟩)
    else if fld w 44 32 = 0 then some (rejAt i 0x25 ⟨3, 0x10 + r * 8, 32⟩)
    else regionFail i top n (r + 1) (pos + fld w 44 32) r

def slicesFail (i : Image) (d : Nat) : Option Rej :=
  let w := secWord i 3 (0x30 + d * 8)
  let n := (List.range 16).countP (fun k => !bit w k)
  if [0, 1, 2, 4, 8, 16].contains n then none else some (rejAt i 0x26 ⟨3, 0x30 + d * 8, 0⟩)

def rateFail (i : Image) (g : Nat) : Option Rej :=
  if ((List.range 4).map (fun c => fld (secWord i 3 (bktAt g c)) 10 0)).sum ≤ 1024 then none
  else some (rejPair i 0x27 ⟨3, bktAt g 3, 0⟩ ⟨3, bktAt g 0, 0⟩)

def starveFail (i : Image) (g : Nat) : Option Rej :=
  firstFail ((imgClasses i).map (fun c =>
    let w := secWord i 3 (bktAt g c)
    if fld w 10 0 = 0 ∧ bit w 19 = false then some (rejPair i 0x28 ⟨3, bktAt g c, 19⟩ ⟨3, bktAt g c, 0⟩) else none))

def rsvFail (i : Image) (e : Nat) : Option Rej :=
  if fld (secWord i 4 (e * 16)) 41 32 ≤ 512 then none else some (rejAt i 0x29 ⟨4, e * 16, 32⟩)

/-- Freewheel allotments of an engine's contexts, in 4 KiB units. -/
def imgFwb (i : Image) (e : Nat) : Nat :=
  (((imgCtxs i).filter (fun x => decide (engineOf x = e))).map (fun x => fld (secWord i 4 (ctxAt x)) 15 6)).sum

/-- Freewheel allotments of a C-die engine above its FWTOTAL. -/
def fwFail (i : Image) (e : Nat) : Option Rej :=
  let l := (imgCtxs i).filter (fun x => decide (engineOf x = e))
  if imgFwb i e ≤ fld (secWord i 4 (e * 16)) 9 0 then none
  else some (rejPair i 0x2A ⟨4, ctxAt (l.getLast?.getD 0), 6⟩ ⟨4, e * 16, 0⟩)

/-- Hub freewheel allotments, in 4 KiB units, and staging of the trees, in MiB, above 256 MiB (R339); the allotments of a hub
engine above its share are refused with them (log 61). -/
def stagingFail (i : Image) : Option Rej :=
  let fw := ((List.range 4).map (fun e => imgFwb i (32 + e))).sum * 2 ^ 12
  let st := ((imgTrees i).map (fun t => fld (secWord i 6 (t * 0x20)) 63 48)).sum * 2 ^ 20
  let held := (imgCtxs i).filter (fun x => decide (32 ≤ engineOf x) && decide (fld (secWord i 4 (ctxAt x)) 15 6 ≠ 0))
  let fwSpot (x : Option Nat) : Spot := ⟨4, ctxAt (x.getD 0), 6⟩
  let stSpot (t : Option Nat) : Spot := ⟨6, t.getD 0 * 0x20, 48⟩
  let hub (e : Nat) : Option Rej :=
    if imgFwb i (32 + e) ≤ fld (secWord i 4 ((32 + e) * 16)) 9 0 then none
    else some (rejPair i 0x2B (fwSpot (held.filter (fun x => decide (engineOf x = 32 + e))).getLast?) ⟨4, (32 + e) * 16, 0⟩)
  if 2 ^ 28 < fw + st then
    some (if st = 0 then rejPair i 0x2B (fwSpot held.getLast?) (fwSpot held.head?)
      else rejPair i 0x2B (stSpot (imgTrees i).getLast?) (if fw = 0 then stSpot (imgTrees i).head? else fwSpot held.getLast?))
  else firstFail ((List.range 4).map hub)

def treeFail (i : Image) (t : Nat) : Option Rej :=
  let w := secWord i 6 (t * 0x20)
  if bit w 0 && bit w 1 && decide (fld w 42 32 ≠ 4) then some (rejPair i 0x2C ⟨6, t * 0x20, 32⟩ ⟨6, t * 0x20, 1⟩) else none

def routeFail (i : Image) (d : Nat) : Option Rej :=
  let w := secWord i 5 (0x200 + d * 8)
  if fld w 7 6 = 3 then some (rejAt i 0x2D ⟨5, 0x200 + d * 8, 6⟩)
  else if bit w 4 && !(imgPorts i).contains (fld w 2 0) then
    some (rejPair i 0x2D ⟨5, 0x200 + d * 8, 0⟩ ⟨5, 8 + fld w 2 0 * 8, 0⟩)
  else none

def tmoFail (i : Image) : Option Rej :=
  match (imgPorts i).getLast? with
  | none => none
  | some p => if fld (secWord i 5 0) 63 32 = 0 then some (rejPair i 0x2E ⟨5, 8 + p * 8, 0⟩ ⟨5, 0, 32⟩) else none

/-- The cadence port is enabled with port 7 declared ×8 (R27). -/
def port7Fail (i : Image) : Option Rej :=
  let w := secWord i 5 0x40
  if imgCadEn i && bit w 0 && decide (fld w 2 1 = 0) then some (rejPair i 0x2F ⟨7, 0, 63⟩ ⟨5, 0x40, 1⟩) else none

/-- The raster and channel cases of R389. -/
def rasterFail (i : Image) : Option Rej :=
  let w := secWord i 7 8
  if fld w 63 48 % 8 ≠ 0 then some (rejAt i 0x30 ⟨7, 8, 48⟩)
  else if fld w 47 32 + fld w 63 48 > fld w 31 16 then some (rejPair i 0x30 ⟨7, 8, 48⟩ ⟨7, 8, 16⟩)
  else
    firstFail ((imgChans i).map (fun c =>
      let x := imgChan i c
      if x.actw = 0 then some (rejAt i 0x30 ⟨7, 0x10 + c * 16, 32⟩)
      else if x.fmt = 1 ∧ x.actw % 2 = 1 then some (rejPair i 0x30 ⟨7, 0x10 + c * 16, 60⟩ ⟨7, 0x10 + c * 16, 32⟩)
      else if x.fmt > 3 then some (rejAt i 0x30 ⟨7, 0x10 + c * 16, 60⟩) else none))

/-- The bytes of one slice of every enabled channel, with their headers (R389). -/
def sliceBytes (i : Image) : Nat := ((imgChans i).map (fun c => (imgChan i c).slb + 32)).sum

/-- The rate cases of R389, of an image that carries CAD. The slice bytes stand in FMT and ACTW of the enabled channels: their
latest field is FMT of the last one. -/
def cadRateFail (i : Image) : Option Rej :=
  let h := fld (secWord i 7 8) 15 0
  let lead := fld (secWord i 7 0) 47 28
  let size : Spot := ⟨7, 0x10 + (imgChans i).getLast?.getD 0 * 16, 60⟩
  if !imgHas i 7 then none
  else if sliceBytes i > 320 * 8 * h then some (rejPair i 0x31 size ⟨7, 8, 0⟩)
  else if lead < (sliceBytes i + 319) / 320 + 64 then
    some (if (imgChans i).isEmpty then rejAt i 0x31 ⟨7, 0, 28⟩ else rejPair i 0x31 size ⟨7, 0, 28⟩)
  else if 8 * h < lead then some (rejPair i 0x31 ⟨7, 8, 0⟩ ⟨7, 0, 28⟩)
  else none

/-- `[a, a + n)` lies whole in populated LPDDR6 of `top` bytes or in pool scratch of the image (R389). -/
def placedIn (i : Image) (top a n : Nat) : Bool :=
  decide (a + n ≤ top)
    || (decide (0x21000000000 ≤ a) && decide (a + n ≤ 0x21020000000)
      && (List.range ((a + n - 1 - 0x21000000000) / 0x800000 - (a - 0x21000000000) / 0x800000 + 1)).all (fun k =>
        let sl := (a - 0x21000000000) / 0x800000 + k
        bit (secWord i 3 (0x30 + sl / 16 * 8)) (sl % 16) && imgOn i (sl / 16 * 18 + 8 + sl % 16 / 4)))

/-- The ring cases of R389. -/
def ringFail (i : Image) (top : Nat) : Option Rej :=
  firstFail ((imgChans i).map (fun c =>
    let x := imgChan i c
    let sum := ((imgChans i).filter (fun k => decide (k ≤ c))).foldl (fun n k => n + (imgChan i k).nslot * (imgChan i k).slb) 0
    if ([2, 4, 8, 16, 32, 64].contains x.nslot) = false then some (rejAt i 0x32 ⟨7, 0x10 + c * 16, 48⟩)
    else if sum > 2 ^ 24 then some (rejPair i 0x32 ⟨7, 0x10 + c * 16, 60⟩ ⟨7, 0x10 + (imgChans i).head?.getD 0 * 16, 32⟩)
    else if !placedIn i top x.ring (x.nslot * x.sls) then some (rejAt i 0x32 ⟨7, 0x18 + c * 16, 12⟩)
    else none))

/-- The rules of R402 for pool `p`. -/
def poolFail (i : Image) (p : Nat) : Option Rej :=
  let x := imgPool i p
  let w := 0x80 + p * 16
  let below := (imgPools i).filter (fun q => decide (q < p))
  let both := below.find? (fun q => (poolCores x).any (fun c => (poolCores (imgPool i q)).contains c))
  let thr := (poolCores x).find? (fun c => decide (x.nthr > (imgCounts i c).getD 1 0))
  let same := below.find? (fun q => (poolCtxs x).any (fun c => (poolCtxs (imgPool i q)).contains c))
  let odd := (poolCtxs x).find? (fun c =>
    let v := if c < 10752 then secWord i 4 (ctxAt c) else 0
    !bit v 0 || decide (fld v 2 1 ≠ 0) || decide (fld v 4 3 ≠ x.part))
  match both, thr, same, odd with
  | some q, _, _, _ => some (rejPair i 0x33 ⟨7, w, 40⟩ ⟨7, 0x80 + q * 16, 40⟩)
  | none, some c, _, _ => some (rejPair i 0x33 ⟨7, w, 36⟩ ⟨2, c * 0x40, 5⟩)
  | none, none, some q, _ => some (rejPair i 0x33 ⟨7, w + 8, 0⟩ ⟨7, 0x88 + q * 16, 0⟩)
  | none, none, none, some c => some (rejPair i 0x33 ⟨7, w + 8, 0⟩ ⟨4, ctxAt c, 0⟩)
  | none, none, none, none => none

/-- Pools with a core on a die. -/
def poolsOn (i : Image) (d : Nat) : List Nat :=
  (imgPools i).filter (fun p => (poolCores (imgPool i p)).any (fun c => decide (dieOf c = d)))

/-- The MRATE values of a die's pools exceed the CAD RATE of a group of that die (R402). -/
def mrateFail (i : Image) (g : Nat) : Option Rej :=
  let l := poolsOn i (g / 4)
  if (l.map (fun p => (imgPool i p).mrate)).sum ≤ fld (secWord i 3 (bktAt g 0)) 10 0 then none
  else some (rejPair i 0x33 ⟨7, 0x88 + l.getLast?.getD 0 * 16, 25⟩ ⟨3, bktAt g 0, 0⟩)

/-- A hub source routed to a core input whose PRI is 0 (R139). -/
def bellFail (i : Image) (n : Nat) : Option Rej :=
  let w := secWord i 8 (0x2540 + n * 8)
  let c := fld w 29 21
  let k := 48 + fld w 19 16
  if fld w 31 30 = 1 ∧ imgPri i c k = 0 then
    some (rejPair i 0x34 ⟨8, 0x2540 + n * 8, 16⟩ (byteSpot 8 (0x140 + c * 0x20 + k / 2) (k % 2 * 4)))
  else none

/-- Two inputs of one divider with different DIV (R142). -/
def divFail (i : Image) (m : Nat) : Option Rej :=
  if fld (secWord i 8 (0x2D40 + m * 16)) 18 16 = fld (secWord i 8 (0x2D48 + m * 16)) 18 16 then none
  else some (rejPair i 0x35 ⟨8, 0x2D48 + m * 16, 16⟩ ⟨8, 0x2D40 + m * 16, 16⟩)

/-- One EVT_OUT pin with two functions. -/
def outFail (i : Image) (f : Nat) : Option Rej :=
  let w := secWord i 8 0x2D60
  let v := fld w (2 * f + 1) (2 * f)
  match (List.range f).find? (fun g => decide (v ≠ 0) && decide (fld w (2 * g + 1) (2 * g) = v)) with
  | some g => some (rejPair i 0x36 ⟨8, 0x2D60, 2 * f⟩ ⟨8, 0x2D60, 2 * g⟩)
  | none => none

/-- Ranges of two partitions overlap where either lacks SHARE. -/
def overlapFail (i : Image) : Option Rej :=
  let l := ((List.range 4).filter (imgPartEn i)).flatMap (fun p =>
    (List.range (imgRanges i p).length).filterMap (fun k => (imgRanges i p)[k]?.map (fun r => (p, k, r))))
  firstFail (l.flatMap (fun b => l.map (fun a =>
    if a.1 < b.1 ∧ a.2.2.base < b.2.2.limit ∧ b.2.2.base < a.2.2.limit ∧ (a.2.2.share && b.2.2.share) = false then
      some (rejPair i 0x37 ⟨1, b.1 * 0x100 + 0x40 + b.2.1 * 16, 16⟩ ⟨1, a.1 * 0x100 + 0x40 + a.2.1 * 16, 16⟩)
    else none)))

/-- Users of a partition with EN 0. -/
def refsFail (i : Image) : Option Rej :=
  firstFail (((List.range 288).filter (fun c => decide (imgThreads i c ≠ 0))).map (fun c =>
      partRef i (imgCorePart i c) ⟨2, c * 0x40, 32⟩)
    ++ (imgCtxs i).map (fun x => partRef i (fld (secWord i 4 (ctxAt x)) 4 3) ⟨4, ctxAt x, 3⟩)
    ++ (imgTrees i).map (fun t => partRef i (fld (secWord i 6 (t * 0x20)) 9 8) ⟨6, t * 0x20, 8⟩)
    ++ (imgPools i).map (fun p => partRef i (imgPool i p).part ⟨7, 0x80 + p * 16, 58⟩))

/-- What an OFF domain `d` may not leave behind: the first field that uses it (R464). -/
def depOf (i : Image) (d : Nat) : Option Spot :=
  if d < 72 then
    let die := d / 18
    let k := d % 18
    if k < 8 then
      let cs := (List.range 9).map (fun j => die * 72 + k * 9 + j)
      match cs.find? (fun c => decide (imgThreads i c ≠ 0)) with
      | some c => some ⟨2, c * 0x40, 0⟩
      | none =>
        match (imgPools i).find? (fun p => cs.any (fun c => (poolCores (imgPool i p)).contains c)) with
        | some p => some ⟨7, 0x80 + p * 16, 40⟩
        | none =>
          match (List.range 256).find? (fun n =>
            let w := secWord i 8 (0x2540 + n * 8)
            decide (fld w 31 30 = 1) && cs.contains (fld w 29 21)) with
          | some n => some ⟨8, 0x2540 + n * 8, 16⟩
          | none => none
    else if k < 12 then
      (if (List.range 4).any (fun j => !bit (secWord i 3 (0x30 + die * 8)) ((k - 8) * 4 + j)) then some ⟨3, 0x30 + die * 8, 0⟩ else none)
    else none
  else
    match d with
    | 74 => ((imgPorts i).find? (fun p => decide (p < 4))).map (fun p => ⟨5, 8 + p * 8, 0⟩)
    | 75 =>
      match (imgPorts i).find? (fun p => decide (4 ≤ p)) with
      | some p => some ⟨5, 8 + p * 8, 0⟩
      | none => if imgCadEn i then some ⟨7, 0, 63⟩ else if imgOn i 77 then some (byteSpot 9 (8 + 77) 0) else none
    | 76 => (imgTrees i).head?.map (fun t => ⟨6, t * 0x20, 0⟩)
    | 77 => if imgCadEn i then some ⟨7, 0, 63⟩ else none
    | 79 =>
      match (imgCtxs i).find? (fun x => decide (10240 ≤ x)) with
      | some x => some ⟨4, ctxAt x, 0⟩
      | none => if imgOn i 76 then some (byteSpot 9 (8 + 76) 0) else none
    | _ => none

def powerFail (i : Image) (d : Nat) : Option Rej :=
  if imgOn i d then none
  else
    match depOf i d with
    | some x => some (rejPair i 0x39 (byteSpot 9 (8 + d) 0) x)
    | none => none

/-- PROT region `k` of the image. -/
def imgProt (i : Image) (k : Nat) : Prot :=
  let o := 0x40 + k * 0x20
  let a := secWord i 10 (o + 0x10)
  { base := fld (secWord i 10 o) 47 16 * 2 ^ 16, limit := fld (secWord i 10 (o + 8)) 47 16 * 2 ^ 16, en := bit a 0
    sconly := bit a 1, nopart := BitVec.ofNat 4 (fld a 5 2), nohost := bit a 6, nolink := bit a 7 }

/-- An enabled region without addresses, or two that overlap. -/
def protFail (i : Image) (k : Nat) : Option Rej :=
  let x := imgProt i k
  let o := 0x40 + k * 0x20
  if !x.en then none
  else if x.limit ≤ x.base then some (rejPair i 0x3A ⟨10, o + 8, 16⟩ ⟨10, o, 16⟩)
  else
    match (List.range k).find? (fun j => (imgProt i j).en && decide ((imgProt i j).base < x.limit) && decide (x.base < (imgProt i j).limit)) with
    | some j => some (rejPair i 0x3A ⟨10, o, 16⟩ ⟨10, 0x40 + j * 0x20, 16⟩)
    | none => none

/-- Step 6 of R412, in ascending code; `top` is the populated LPDDR6 in bytes. -/
def conflictFail (i : Image) (top : Nat) : Option Rej :=
  let cores := List.range 288
  let groups := List.range 16
  let all (l : List Nat) (f : Nat → Option Rej) : Option Rej := firstFail (l.map f)
  firstFail [
    all cores (threadsFail i), all cores (ithrFail i), all cores (fun c => floorFail i 0x22 2 (c * 0x40 + 8)),
    all (List.range 36) (fun e => floorFail i 0x23 4 (e * 16 + 8)), all cores (maskFail i),
    regionFail i (top / (384 * 2 ^ 20)) 4 0 0 0, all (List.range 4) (slicesFail i), all groups (rateFail i),
    all groups (starveFail i), all (List.range 36) (rsvFail i), all (List.range 32) (fwFail i), stagingFail i,
    all (List.range 8) (treeFail i), all (List.range 1024) (routeFail i), tmoFail i, port7Fail i, rasterFail i,
    cadRateFail i, ringFail i top, all (imgPools i) (poolFail i), all groups (mrateFail i),
    all (List.range 256) (bellFail i), all (List.range 2) (divFail i), all (List.range 8) (outFail i), overlapFail i,
    refsFail i, all (List.range 80) (powerFail i), if imgHas i 10 then all (List.range 32) (protFail i) else none]

/-- Populated LPDDR6 in bytes of the module (R4). -/
def capTop (am : Bool) : Nat := if am then 0xC000000000 else 0x18000000000

/-- Steps 1 to 6 of R412; `tandem` says whether step 4 is made, `len` is the loaded length. -/
def State.imageFail (s : State) (i : Image) (len : Nat) (tandem : Bool) : Option Rej :=
  match formFail i len with
  | some r => some r
  | none =>
    match sigsFail s.sec.keys i with
    | some r => some r
    | none =>
      let order := fld (imgWord i 8) 47 40
      if fld (imgWord i 0x10) 31 0 < s.sec.gearSvn.toNat then some { code := 0x07, off := 0x10 }
      else if order ≠ 0 ∧ order ≠ (if s.capAM then 2 else 1) then some { code := 0x08, off := 8, bit := 40 }
      else
        match if tandem then s.tandemFail i else none with
        | some r => some r
        | none =>
          match fieldsFail i with
          | some r => some r
          | none => conflictFail i (capTop s.capAM)

end Sys2Proof.Machine
end

