-- ==== Sys2Proof/Machine/MemSys.lean ====
section
/-! DEFINITION. The memory system behind an access (11): pool-cache lookups, admission, banks, refresh, invalidation of
translations, training and package temperature. -/

namespace Sys2Proof.Machine

abbrev MRes := Host.Outcome State Fault Refusal

/-! ### Pool cache (R297 to R299) -/

/-- Cache slices of a die (R297). -/
def State.cacheSlices (s : State) (d : Nat) : List Nat :=
  (List.range 16).filter (fun i => !bit (kget 0 s.poolCfg d) i)

/-- The hash of a block number (R298). -/
def poolHash (bn : Nat) : Nat := Nat.xor (Nat.xor bn (bn / 2 ^ 19)) (bn / 2 ^ 38) % 2 ^ 19

/-- Key of the set of a block: die, slice among the die's cache slices, set (R298). -/
def poolKey (d n bn : Nat) : Nat := (d * 16 + poolHash bn % n) * 8192 + poolHash bn / n % 8192

/-- Queue a request at its memory-controller group. -/
def State.toGroup (s : State) (r : MemReq) : State :=
  let g := (s.chip (r.block * 64)).group
  { s with front := kset [] s.front g (kget [] s.front g ++ [r]) }

/-- Report what the checks of a read find, in the counters of group `m` (R315). -/
def State.checkReq (s : State) (m : Nat) (r : MemReq) : State :=
  r.checks.foldl (fun s c =>
    let s1 := if c.2.1 then s.reportIn m (r.block * 2) c.1 else s
    if c.2.2 then s1.reportIn m (r.block * 2 + 1) c.1 else s1) s

/-- Put a line last in its set, the most recently used place; a set holds 16 lines. -/
def State.setLines (s : State) (k : Nat) (l : List PLine) : State := { s with poolLines := kset [] s.poolLines k l }

/-- A lookup in a set (R298, R299): a hit serves the request, a miss allocates unless NP, and the least recently used line
makes room, written back when dirty for the class of the request. A hit's findings count in the die's group 0 (R315). -/
def State.lookupSet (s : State) (k : Nat) (r : MemReq) : State :=
  let l := kget [] s.poolLines k
  match l.find? (fun p => decide (p.block = r.block)) with
  | some p =>
    (s.setLines k (l.filter (fun q => decide (q.block ≠ r.block)) ++ [{ p with dirty := p.dirty || r.write }])).checkReq
      ((s.chip (r.block * 64)).die * 4) r
  | none =>
    if r.np then s.toGroup r
    else
      let out := if l.length < 16 then none else l.head?
      let kept := if l.length < 16 then l else l.tail
      let s1 := match out with
        | some v => if v.dirty then s.toGroup { block := v.block, write := true, cls := r.cls, np := false, eng := r.eng, held := r.held } else s
        | none => s
      let s2 := s1.setLines k (kept ++ [{ block := r.block, dirty := r.write }])
      if !r.write then s2.toGroup r
      else if r.part then s2.toGroup { block := r.block, write := false, cls := r.cls, np := false, eng := r.eng, held := r.held }
      else s2

/-- The bank of an LPDDR6 address. -/
def State.bankOf (s : State) (a : Nat) : Nat :=
  let ch := s.chip a
  (ch.die * 24 + ch.ch) * 16 + ch.bank

/-- A slot of an engine in use: the bank its request goes to, if one, and whether it is a CAD request. -/
abbrev BankSlot := Option Nat × Bool

/-- Slots of engine `e` that requests behind their units hold: reads until they are served, writes until their bank accepts
them (R58, R59). -/
def State.memSlots (s : State) (e : Nat) : List BankSlot :=
  let slot (r : MemReq) : Option BankSlot :=
    if r.eng = e then some (some (s.bankOf (r.block * 64)), decide (r.cls = .cad)) else none
  ((s.lookupQ.flatMap (·.2)).filter (·.held)).filterMap slot ++ (s.front.flatMap (·.2)).filterMap slot ++ (s.banks.flatMap (fun b => b.2.queue.filter (!·.write))).filterMap slot

/-- The engine has a slot that a request may use beside those held: 1,024 in all, those of RSV_CAD for CAD alone, and 64 to
one bank (R56, R269, R270). -/
def State.slotFits (s : State) (e : Nat) (held : List BankSlot) (r : BankSlot) : Bool :=
  decide (held.length < 1024)
    && (r.2 || decide ((held.filter (!·.2)).length < 1024 - (s.engine e).rsvCad))
    && (r.1.isNone || decide ((held.filter (fun h => decide (h.1 = r.1))).length < 64))

/-! ### Admission (R307, R308) -/

/-- The classes in the order of R308. -/
def classes : List Cls := [.cad, .step, .eval, .bulk]

/-- Bucket of class `c` in group `g`. -/
def State.bkt (s : State) (g : Nat) (c : Cls) : Bucket := kget {} s.bkts (g * 4 + c.code)
def State.setBkt (s : State) (g : Nat) (c : Cls) (b : Bucket) : State := { s with bkts := kset {} s.bkts (g * 4 + c.code) b }

/-- A request joins the queue of its bank, merging as R311 gives. -/
def joinBank (q : List MemReq) (r : MemReq) : List MemReq :=
  match q with
  | [] => [r]
  | p :: l =>
    if p.block = r.block ∧ p.write = r.write then { p with checks := p.checks ++ r.checks } :: l
    else p :: joinBank l r

/-- The queue to which a request of the bank belongs: reads merge with older reads and writes with older writes of the
same block, but not across a request of the other kind (R311). -/
def bankAdd (q : List MemReq) (r : MemReq) : List MemReq :=
  let same := q.filter (fun p => decide (p.block = r.block))
  match same.getLast? with
  | some p => if p.write = r.write then (joinBank q.reverse r).reverse else q ++ [r]
  | none => q ++ [r]

/-- Admit the oldest waiting request of class `c` of group `g`. -/
def State.admitOne (s : State) (g : Nat) (c : Cls) : Option State :=
  let q := kget [] s.front g
  match q.find? (fun r => decide (r.cls = c)) with
  | none => none
  | some r =>
    let k := s.bankOf (r.block * 64)
    let b := s.bank k
    some (({ s with front := kset [] s.front g (q.erase r) } : State).setBank k { b with queue := bankAdd b.queue r })

/-- One visit of the classes: `pay` takes a token, else BORROW is asked; `n` places remain (R308). -/
def State.visit (s : State) (g : Nat) (pay : Bool) (n : Nat) : State × Nat :=
  classes.foldl (fun (a : State × Nat) c =>
    let b := a.1.bkt g c
    if a.2 = 0 ∨ (if pay then decide (b.level < 256) else !b.borrow) = true then a
    else
      match a.1.admitOne g c with
      | none => a
      | some s1 => (if pay then s1.setBkt g c { b with level := b.level - 256 } else s1, a.2 - 1)) (s, n)

/-- MEMORY_ADMISSION (R308): at most four requests, first by tokens, then by BORROW. -/
def execMemoryAdmission (g : Fin 16) (s : State) : MRes :=
  let a := (List.range 4).foldl (fun (a : State × Nat) _ => a.1.visit g.val true a.2) (s, 4)
  .next ((List.range 4).foldl (fun (a : State × Nat) _ => a.1.visit g.val false a.2) a).1

/-- One MCLK cycle of a group: its buckets fill (R307). -/
def State.fillBuckets (s : State) (g : Nat) : State :=
  classes.foldl (fun s c =>
    let b := s.bkt g c
    s.setBkt g c { b with level := min (b.level + b.rate) (b.depth * 256) }) s

/-! ### Banks (R310, R311) -/

/-- The request of a queue that is served next (R310). -/
def Bank.choice (b : Bank) (row : Nat → Nat) : Option MemReq :=
  match b.queue with
  | [] => none
  | r :: _ =>
    if r.passed ≥ 8 then some r
    else
      match b.open_ with
      | none => some r
      | some w => match b.queue.find? (fun q => decide (row q.block = w)) with
        | some q => some q
        | none => some r

/-- Add a difference to a granule's CRC. -/
def State.upset (s : State) (g : Nat) (syn : BitVec 24) : State :=
  if syn = 0 then s
  else { s with gran := kset {} s.gran g { s.granule g with syn := (s.granule g).syn ^^^ syn } }

/-- Granule `g` fails its CRC in the burst that serves it: loads that wait for it get it poisoned (R315). -/
def State.burst (s : State) (g : Nat) (syn : BitVec 24) : State :=
  if syn = 0 then s
  else
    let s1 := s.upset g syn
    if (s1.granule g).syn = 0 then s1 else s1.threads.foldl (fun s p => s.poisonLoads p.1 g) s1

/-- BANK_SERVE (R310, R315): the bank serves its next request; a read's granules are checked. `syn` holds, for granules 0
and 1 of the block, the difference of the CRC that the burst delivers from the right one, 0 for a good burst. -/
def execBankServe (ch : Fin 96) (bank : Fin 16) (syn : BitVec 48) (s : State) : MRes :=
  let k := ch.val * 16 + bank.val
  let b := s.bank k
  let row (blk : Nat) : Nat := (s.chip (blk * 64)).row
  .next (match b.choice row with
    | none => s
    | some r =>
      let q1 := b.queue.erase r
      let q2 := match b.queue, q1 with
        | o :: _, p :: l => if decide (r ≠ o) then { p with passed := p.passed + 1 } :: l else q1
        | _, _ => q1
      let s1 := s.setBank k { open_ := some (row r.block), queue := q2 }
      if r.write then s1
      else
        let s2 := (s1.burst (r.block * 2) (BitVec.ofNat 24 (fld syn 23 0))).burst (r.block * 2 + 1)
          (BitVec.ofNat 24 (fld syn 47 24))
        s2.checkReq (s.chip (r.block * 64)).group r)

/-! ### Refresh (R312) -/

/-- T_refi of the data rate (Table CORE-5). -/
def State.trefi (s : State) : Nat := if s.memRate = 2 then 3510 else if s.memRate = 1 then 3120 else 2600

/-- REFRESH (R312): in its cycle, the channel refreshes and every row of it closes. -/
def execRefresh (ch : Fin 96) (s : State) : MRes :=
  let c := ch.val % 24
  let now := (s.count (0x20 + ch.val / 24 * 4 + c / 6)).toNat
  .next (if now % s.trefi = s.trefi * (c % 6) / 6 then
      (List.range 16).foldl (fun s i =>
        let k := ch.val * 16 + i
        s.setBank k { s.bank k with open_ := none }) s
    else s)

/-! ### Invalidation of translations (R305) -/

/-- A cached translation matches (R305). -/
def XEnt.matchesInv (e : XEnt) (x : XInv) : Bool :=
  decide (e.part = x.goPart) && (x.goAll || decide (e.vpn = x.goVpn.toNat * 2 ^ 16 / 2 ^ pageBits e.level))

/-- Remove every match from the units that copy `u` covers: cores and engines of a die, or the hub's engines and
Peloton. -/
def State.invalidate (s : State) (u : Nat) (x : XInv) : State :=
  let keep (l : List XEnt) : List XEnt := l.filter (fun e => !e.matchesInv x)
  if u < 4 then
    let s1 := (List.range 72).foldl (fun s i =>
      let c := u * 72 + i
      s.updCore c (fun k => { k with xlat := keep k.xlat })) s
    (List.range 8).foldl (fun s i => s.updEngine (u * 8 + i) (fun k => { k with xlat := keep k.xlat })) s1
  else
    let s1 := (List.range 4).foldl (fun s i => s.updEngine (32 + i) (fun k => { k with xlat := keep k.xlat })) s
    { s1 with pelXlat := keep s1.pelXlat }

/-- The cached translations of the units that copy `u` covers. -/
def State.xlatsOf (s : State) (u : Nat) : List XEnt :=
  if u < 4 then
    (List.range 72).flatMap (fun i => (s.core (u * 72 + i)).xlat) ++ (List.range 8).flatMap (fun i => (s.engine (u * 8 + i)).xlat)
  else (List.range 4).flatMap (fun i => (s.engine (32 + i)).xlat) ++ s.pelXlat

/-- The address lies in the page of a translation. -/
def XEnt.covers (e : XEnt) (pa : Nat) : Bool := decide (pa / 2 ^ pageBits e.level = leafPa e.leaf e.level 0 / 2 ^ pageBits e.level)

/-- LPDDR6 blocks with a request that has not completed: a write until its bank has accepted it, a read until it is
served. -/
def State.openBlocks (s : State) : List Nat :=
  ((s.lookupQ.flatMap (·.2)) ++ (s.front.flatMap (·.2)) ++ (s.banks.flatMap (fun b => b.2.queue.filter (!·.write)))).map (·.block)

/-- Lines that a scalar cache of a core awaits: misses that wait for an entry, and fills in flight. -/
def State.openFills (s : State) : List (Nat × Bool × Nat) :=
  s.cores.flatMap (fun q => [false, true].flatMap (fun data =>
    ((q.2.misses data).map (·.la) ++ ((q.2.cache data).entries.filter (·.2.inflight)).map (·.2.la)).map (fun la => (q.1, data, la))))

/-- The accesses through the entries that match now and have not completed, by the pages they go to, join those of the removal. -/
def State.invMark (s : State) (u : Nat) (x : XInv) : XInv :=
  let gone := (s.xlatsOf u).filter (·.matchesInv x)
  let hits (pa : Nat) : Bool := gone.any (·.covers pa)
  let own (a : Nat) : Nat := s.lnkId.toNat * 2 ^ 48 + a
  { x with
    links := x.links ++ (s.remotes.filter (fun r => hits r.2.addr)).map (·.1)
    hosts := x.hosts ++ (s.host.reads.filter (fun r => hits (own (0x40000000000 + r.addr)))).map (·.tag)
    blocks := x.blocks ++ s.openBlocks.filter (fun b => hits (own (b * 64)))
    fills := x.fills ++ s.openFills.filter (fun f => hits (f.2.2 * 256)) }

/-- Removal begins: the fields of GO are kept, with the open accesses through the entries that go. -/
def State.invBegin (s : State) (u : Nat) (x : XInv) : XInv :=
  s.invMark u { x with
    busy := true, goVpn := x.vpn, goPart := x.part, goAll := x.all, links := [], hosts := [], blocks := [], fills := [] }

/-- Accesses through the removed entries have not all completed. -/
def State.invOpen (s : State) (x : XInv) : Bool :=
  s.remotes.any (fun r => x.links.contains r.1) || s.host.reads.any (fun r => x.hosts.contains r.tag)
    || s.openBlocks.any (fun b => x.blocks.contains b) || s.openFills.any (fun f => x.fills.contains f)

def State.xinvOf (s : State) (u : Nat) : XInv := kget {} s.xinv u
def State.setXinv (s : State) (u : Nat) (x : XInv) : State := { s with xinv := kset {} s.xinv u x }

/-- XLAT_INV (R305): a write of the register; GO is ignored while BUSY, else removal begins. -/
def execXlatInv (u : Fin 5) (v : Word) (s : State) : MRes :=
  let o := s.xinvOf u.val
  let x : XInv := { o with vpn := BitVec.ofNat 36 (fld v 51 16), part := fld v 3 2, all := bit v 1 }
  .next (s.byReg (if bit v 0 && !o.busy then
      (s.setXinv u.val (s.invBegin u.val x)).invalidate u.val (s.invBegin u.val x)
    else s.setXinv u.val x))

/-- XLAT_INV_COMPLETE (R305): entries that match and were cached since GO go too, and BUSY clears once every access through a
removed entry has completed. -/
def execXlatInvComplete (u : Fin 5) (s : State) : MRes :=
  let x := s.invMark u.val (s.xinvOf u.val)
  .next (if (s.xinvOf u.val).busy then (s.invalidate u.val x).setXinv u.val { x with busy := s.invOpen x } else s)

/-! ### Training and temperature (R288, R472) -/

/-- LPDDR6_TRAINING_DONE (R288): every channel has trained, or one has failed, and then MEM_READY is never set; the firmware trains
them (R460). -/
def execLpddr6TrainingDone (failed : Option (Fin 96)) (s : State) : MRes :=
  .next (if !s.power.training || !s.ref25 || decide (s.sec.phase ≠ .running) then s
    else
      match failed with
      | none => { s with power := { s.power with training := false, trained := true } }
      | some c =>
        let m := c.val / 24 * 4 + c.val % 24 / 6
        ({ s with power := { s.power with training := false, trained := false } } : State).raise (.mcg m) (0x20 + m)
          0x0501 evFatal (c.val / 24 + c.val % 24 * 4) 0)

/-- PACKAGE_OVER_TEMPERATURE (R312, R472): above 85 °C, MEMHOT and the event, while the always-on domain is powered; with the hub
fabric off the SC writes the record itself (R486). -/
def execPackageOverTemperature (pkg : Fin 24) (temp : Nat) (s : State) : MRes :=
  .next (if temp ≤ 85 ∨ bit s.power.on 72 = false then s
    else
      let s1 : State := { s with power := { s.power with memhot := true, memT := max s.power.memT temp } }
      let loc := pkg.val / 6 + pkg.val % 6 * 4
      if s.power.down then s1.scFatal 0x0504 loc temp else s1.raise .sc 0x80 0x0504 evFatal loc temp)

end Sys2Proof.Machine
end

