-- ==== Sys2Proof/Machine/Streams.lean ====
section
/-! DEFINITION. Stream Engines (10): contexts, descriptors, reads and writes, takes and signals, faults, completion
records and cancels. -/

namespace Sys2Proof.Machine

/-! ### Descriptor fields (Table SE-1) -/

/-- Word at byte offset `o`. -/
def DescRun.w (d : DescRun) (o : Nat) : Word := d.words.getD (o / 8) 0
def DescRun.cls (d : DescRun) : Nat := fld (d.w 0) 63 62
def DescRun.op (d : DescRun) : Nat := fld (d.w 0) 61 59
def DescRun.ezCode (d : DescRun) : Nat := fld (d.w 0) 58 56
def DescRun.ixw (d : DescRun) : Bool := bit (d.w 0) 55
def DescRun.srcTile (d : DescRun) : Bool := bit (d.w 0) 54
def DescRun.dstTile (d : DescRun) : Bool := bit (d.w 0) 53
def DescRun.te (d : DescRun) : Bool := bit (d.w 0) 52
def DescRun.bmk (d : DescRun) : Bool := bit (d.w 0) 51
def DescRun.fence (d : DescRun) : Bool := bit (d.w 0) 50
def DescRun.nen (d : DescRun) : Bool := bit (d.w 0) 48
def DescRun.ncore (d : DescRun) : Nat := fld (d.w 0) 47 39
def DescRun.nsrc (d : DescRun) : Nat := fld (d.w 0) 38 34
def DescRun.fcap (d : DescRun) : Nat := fld (d.w 0) 33 26
def DescRun.src (d : DescRun) : Nat := (d.w 8).toNat
def DescRun.dst (d : DescRun) : Nat := (d.w 0x10).toNat
def DescRun.outFull (d : DescRun) : Nat := fld (d.w 0x18) 13 0
def DescRun.outEmpty (d : DescRun) : Nat := fld (d.w 0x18) 27 14
def DescRun.inFull (d : DescRun) : Nat := fld (d.w 0x18) 41 28
def DescRun.inEmpty (d : DescRun) : Nat := fld (d.w 0x18) 55 42
def DescRun.outEn (d : DescRun) : Bool := bit (d.w 0x18) 56
def DescRun.inEn (d : DescRun) : Bool := bit (d.w 0x18) 57
def DescRun.ulvl (d : DescRun) : Nat := fld (d.w 0x18) 60 58
/-- Length of dimension `i`. -/
def DescRun.len (d : DescRun) (i : Nat) : Nat := fld (d.w (0x20 + i / 2 * 8)) (i % 2 * 32 + 31) (i % 2 * 32)
def DescRun.lead (d : DescRun) : Nat := fld (d.w 0x30) 47 32
def DescRun.ss (d : DescRun) (i : Nat) : Int := (d.w (0x38 + 8 * i)).toInt
def DescRun.ds (d : DescRun) (i : Nat) : Int := (d.w (0x60 + 8 * i)).toInt
def DescRun.idx (d : DescRun) : Nat := (d.w 0x88).toNat
def DescRun.rlo (d : DescRun) : Nat := (d.w 0x90).toNat
def DescRun.rhi (d : DescRun) : Nat := (d.w 0x98).toNat
def DescRun.next (d : DescRun) : Word := d.w 0xA0
def DescRun.crec (d : DescRun) : Nat := (d.w 0xA8).toNat
def DescRun.aux (d : DescRun) : Nat := (d.w 0xB0).toNat
def DescRun.estr (d : DescRun) : Int := (d.w 0xB8).toInt
def DescRun.nexp (d : DescRun) : Nat := fld (d.w 0xC0) 7 0
def DescRun.k (d : DescRun) : Nat := fld (d.w 0xC0) 11 8
def DescRun.cap (d : DescRun) : Nat := fld (d.w 0xC0) 63 32
def DescRun.mw (d : DescRun) : Nat := fld (d.w 0xC0) 15 0
def DescRun.due (d : DescRun) : Nat := fld (d.w 0xC8) 31 0
/-- Element size in bytes. -/
def DescRun.esz (d : DescRun) : Nat := 2 ^ d.ezCode
/-- Elements of the descriptor (R261), of a unit, and units (R263). -/
def DescRun.total (d : DescRun) : Nat := d.len 0 * d.len 1 * d.len 2 * d.len 3 * d.len 4
def DescRun.unitSize (d : DescRun) : Nat := ((List.range (d.ulvl + 1)).map d.len).foldl (· * ·) 1
def DescRun.units (d : DescRun) : Nat := d.total / d.unitSize
/-- Coordinate `j` of element `e` (R261). -/
def DescRun.coord (d : DescRun) (e j : Nat) : Nat :=
  e / (((List.range j).map d.len).foldl (· * ·) 1) % d.len j
/-- Tile, core and first byte of a tile reference (R266). -/
def refTile (a : Nat) : Nat := a % 32
def refCore (a : Nat) : Nat := a / 32 % 512
def refByte (a : Nat) : Nat := a / 2 ^ 14 % 32 * 128
/-- Base of the source and destination addresses. -/
def DescRun.srcBase (d : DescRun) : Int := if d.srcTile then refByte d.src else d.src
def DescRun.dstBase (d : DescRun) : Int := if d.dstTile then refByte d.dst else d.dst

/-! ### Checks (R260, R266, R267, R509) -/

/-- GATHER or SCATTER; DISPATCH or COMBINE. -/
def DescRun.isIndexed (d : DescRun) : Bool := decide (d.op = 1) || decide (d.op = 2)
def DescRun.isExpert (d : DescRun) : Bool := decide (d.op = 3) || decide (d.op = 4)

/-- A reserved field, NEXT [7:0] or an unused field is not 0 (R260, R509). Bits of PARAM that no table names for the operation,
[31:12] of DISPATCH and COMBINE and [63:16] under BMK, count as reserved (DESIGN CHOICE, log 62). -/
def DescRun.badFields (d : DescRun) : Bool :=
  let nz (b : Bool) (n : Nat) : Bool := b && decide (n ≠ 0)
  let strides (f : Nat → Nat) : Bool := decide (f 2 ≠ 0) || decide (f 3 ≠ 0) || decide (f 4 ≠ 0)
  bit (d.w 0) 49 || decide (fld (d.w 0) 25 0 ≠ 0) || decide (fld (d.w 0x18) 63 61 ≠ 0) || decide (fld (d.w 0x30) 63 48 ≠ 0)
    || decide (fld (d.w 0xC8) 63 32 ≠ 0) || (List.range 6).any (fun i => decide (d.w (0xD0 + 8 * i) ≠ 0))
    || decide (d.next.toNat % 256 ≠ 0)
    || nz (!d.outEn) (d.outFull + d.outEmpty + d.lead) || nz (!d.inEn) (d.inFull + d.inEmpty)
    || nz (decide (d.lead = 0)) (d.rlo + d.rhi) || (!d.dstTile && d.te) || (!d.isIndexed && d.ixw)
    || nz (decide (d.op = 0)) d.idx || nz (!d.isExpert && !d.bmk) d.aux || (!d.isExpert && decide (d.estr ≠ 0))
    || nz (!d.isExpert) (fld (d.w 0xC0) 63 16) || nz (!d.isExpert && !d.bmk) d.mw || nz d.isExpert (fld (d.w 0xC0) 31 12)
    || ((decide (d.op = 1) || d.isExpert) && strides (fun i => (d.ss i).natAbs))
    || ((decide (d.op = 2) || d.isExpert) && strides (fun i => (d.ds i).natAbs))

/-- The descriptor's NEN, NCORE or NSRC field is bad (R260, R279, R509). -/
def State.badNotify (s : State) (e : Nat) (d : DescRun) : Bool :=
  if !d.nen then decide (d.ncore ≠ 0) || decide (d.nsrc ≠ 0)
  else if e ≥ 32 then decide (d.ncore ≠ 0) || decide (d.nsrc ≥ 16)
  else decide (d.ncore ≥ 288) || decide (d.ncore / 72 ≠ engineDie e) || !s.coreOn d.ncore

/-- The tile side stays inside its tile for its lengths, strides and bounded terms (R266). -/
def tileSpan (esz : Nat) (base : Nat) (l : List (Nat × Int)) : Bool :=
  let ext (x : Nat × Int) : Int := ((x.1 - 1 : Nat) : Int) * x.2
  let lo : Int := (l.map (fun x => min 0 (ext x))).sum
  let hi : Int := (l.map (fun x => max 0 (ext x))).sum
  decide ((base : Int) + lo ≥ 0) && decide ((base : Int) + hi + esz ≤ 4096)

/-- A tile reference is good: its form, its core on the engine's die, its span and its owner (R266, R267). An OWNER that names an
UNALLOTTED thread of a core of the partition is accepted (DESIGN CHOICE, log 62). -/
def State.tileRefOk (s : State) (x : Nat) (d : DescRun) (ref : Nat) (l : List (Nat × Int)) : Bool :=
  let e := engineOf x
  let c := refCore ref
  decide (e < 32) && decide (ref < 2 ^ 19) && decide (c / 72 = engineDie e) && tileSpan d.esz (refByte ref) l
    && decide (atOwner (s.tile c (refTile ref)).attr < 16) && decide ((s.core c).part = (s.ctx x).part)

/-- Terms of the source side and of the destination side that are bounded when the descriptor is read (R266). -/
def DescRun.srcTerms (d : DescRun) : List (Nat × Int) :=
  match d.op with
  | 1 => [(d.len 0, d.ss 0)]
  | 3 => [(d.len 0, d.ss 0)]
  | 4 => [(d.len 0, d.ss 0), (d.nexp, d.estr), (max d.cap 1, d.ss 1)]
  | _ => (List.range 5).map (fun i => (d.len i, d.ss i))
def DescRun.dstTerms (d : DescRun) : List (Nat × Int) :=
  match d.op with
  | 2 => [(d.len 0, d.ds 0)]
  | 3 => [(d.len 0, d.ds 0), (d.nexp, d.estr), (max d.cap 1, d.ds 1)]
  | 4 => [(d.len 0, d.ds 0), (d.k, d.ds 1)]
  | _ => (List.range 5).map (fun i => (d.len i, d.ds i))

/-- The descriptor is BADDESC (R260). -/
def State.badDesc (s : State) (x : Nat) (d : DescRun) : Bool :=
  let odd (a : Int) : Bool := decide (a % (d.esz : Int) ≠ 0)
  d.badFields || decide (d.cls ≠ (s.ctx x).cls.code) || decide (d.op > 4) || decide (d.ezCode > 5) || decide (d.ulvl > 4)
    || (List.range 5).any (fun i => decide (d.len i = 0))
    || (!d.srcTile && odd d.src) || (!d.dstTile && odd d.dst) || odd d.estr
    || (List.range 5).any (fun i => odd (d.ss i) || odd (d.ds i))
    || (d.srcTile && !s.tileRefOk x d d.src d.srcTerms) || (d.dstTile && !s.tileRefOk x d d.dst d.dstTerms)
    || (d.bmk && d.isExpert)
    || (d.isExpert && (decide (d.len 2 ≠ 1) || decide (d.len 3 ≠ 1) || decide (d.len 4 ≠ 1) || decide (d.nexp = 0)
      || decide (d.k = 0) || decide (d.k > 8)))
    || s.badNotify (engineOf x) d

/-! ### Accesses of a context -/

def Ctx.pv (k : Ctx) : Nat := b2n k.priv
/-- Location word of form X (R486). -/
def locX (x seq : Nat) : Nat := x + seq % 2 ^ 16 * 2 ^ 16
def State.seEvent (s : State) (x seq code cls det : Nat) : State :=
  s.raiseEng (engineOf x) code cls (locX x seq) det

/-- Outcome of a read: wait for another module or the host, with the state that has asked, or bytes, poison and cause. -/
inductive Got where
  | wait (s : State)
  | got (bytes : List Byte) (poison : Bool) (cause : Nat) (s : State)

/-- How a read is made: for a descriptor, for the data of an element, or else for side data; `ask` sends a request outside the
module, `fresh` makes the walk's reads, `take` requests the memory blocks. -/
structure Fetching where
  desc : Bool := false
  data : Bool := false
  ask : Bool := true
  fresh : Bool := true
  take : Bool := true

/-- The read of a descriptor. -/
def descFetch : Fetching := { desc := true }

/-- A read outside the module's own memory: the answer when it is there, else the request, sent once. -/
def State.farGet (s : State) (x pa n : Nat) (h : Fetching) (acs : Acs) : Got :=
  let base := pa / 64 * 64
  let len := ((pa % 64 + n + 63) / 64) * 64
  match (s.ctx x).far.find? (fun f => decide (f.addr ≤ pa) && decide (pa + n ≤ f.addr + f.n) && decide (f.desc = h.desc)) with
  | some f =>
    match f.answer with
    | none => .wait s
    | some a =>
      let o := pa - f.addr
      let bad := (granules o n).any (fun g => a.2.1.getD g false)
      .got ((a.1.drop o).take n) (bad || decide (a.2.2 ≠ 0)) (if a.2.2 = 0 ∧ bad = true then (if s.isLocal pa then 2 else 3) else a.2.2) s
  | none =>
    let noBme := match s.place (localOf pa) with
      | .host off => if s.isLocal pa && !s.host.bme then some off else none
      | _ => none
    match noBme with
    | some off => .got [] true 2 (if h.ask then s.hostBme off else s)
    | none =>
    if !h.ask then .wait s
    else
      let s1 := s.updCtx x (fun k => { k with far := k.far ++ [{ addr := base, n := len, desc := h.desc, data := h.data }] })
      if s.isLocal pa then
        match s.place (localOf pa) with
        | .host off =>
          if hx : x < 10752 then .wait (s1.hostLoad (.ctx ⟨x, hx⟩) (off - pa % 64) len) else .wait s
        | _ => .wait s
      else .wait (s1.remoteRead (.seRead x) base len acs)

/-- A context's accesses carry its class and the slot that its engine holds for them (R59, Table CORE-6A). -/
def State.ctxAcs (s : State) (x : Nat) (leaf : Word := 0) : Acs :=
  { cls := (s.ctx x).cls, tag := leafTag leaf, np := leafNp leaf, eng := engineOf x, held := true }

/-- What a context's translation of an address leaves. -/
def State.ctxNote (s : State) (x : Nat) (k : Access) (va : Nat) : State :=
  s.xlatNote (.engine (engineOf x)) (s.ctx x).part (s.ctx x).pv k va (s.ctxAcs x)

/-- Read `n` bytes at a virtual address, inside one 256-byte block. -/
def State.fetchVa (s : State) (x va n : Nat) (h : Fetching) : Got :=
  let k := s.ctx x
  let o : XOwner := .engine (engineOf x)
  let s1 := if h.fresh then s.ctxNote x .read va else s
  match s.xlat o k.part k.pv .read va with
  | .fail _ _ => .got [] false 1 s1
  | .ok leaf _ pa =>
    let acs := s.ctxAcs x leaf
    let a := localOf pa
    if !s.isLocal pa then s1.farGet x pa n h acs
    else if s.isMem a then
      let bad := s.anyBad a n acs.tag
      .got (s.bytes a n) bad (if bad then 2 else 0) (if h.take then s1.touch a n acs else s1)
    else
      match s.place a with
      | .regs _ => .got [] false 8 s1
      | .host _ => s1.farGet x pa n h acs
      | _ => .got [] false 1 s1

/-- Cause of a side read from the cause of a data read (Table SE-3): its failed translation is IDX_XLAT; poison, a host-window
read that fails, and an error response of another module, which the table does not name for it, are IDX_POISON (DESIGN CHOICE,
log 62). -/
def sideCause (c : Nat) (poison : Bool) : Nat :=
  match c with
  | 0 => if poison then 7 else 0
  | 1 => 6
  | 8 => 6
  | _ => 7

/-- Read an index entry, routing entry, map word or mask word: its value, and cause 6 or 7 (Table SE-3). -/
def State.side (s : State) (x va n : Nat) : Except State (Nat × Nat × State) :=
  let k := min n (256 - va % 256)
  match s.fetchVa x (va % 2 ^ 64) k {} with
  | .wait s1 => .error s1
  | .got b p c s1 =>
    if k = n ∨ sideCause c p ≠ 0 then .ok (ofBytes b, sideCause c p, s1)
    else
      match s1.fetchVa x ((va + k) % 2 ^ 64) (n - k) {} with
      | .wait s2 => .error s2
      | .got b2 p2 c2 s2 => .ok (ofBytes (b ++ b2), sideCause c2 p2, s2)

/-- Answered reads are used up; reads under way and descriptor reads stay. -/
def State.farDrop (s : State) (x : Nat) : State :=
  if (s.ctx x).far.isEmpty then s
  else s.updCtx x (fun k => { k with far := k.far.filter (fun f => f.desc || f.answer.isNone) })

/-- A write of bytes at a virtual address succeeds in translation and is not register space. -/
def State.writable (s : State) (x va : Nat) : Bool :=
  let k := s.ctx x
  match s.xlat (.engine (engineOf x)) k.part k.pv .write (va % 2 ^ 64) with
  | .fail _ _ => false
  | .ok _ _ pa => !s.isLocal pa || (match s.place (localOf pa) with
      | .regs _ => false
      | .none => false
      | _ => true)

/-- Write bytes at a virtual address, piece by piece of 256-byte blocks; a piece that fails is not written. -/
def State.putVa (s : State) (x va : Nat) (bs : List Byte) : State :=
  let k := s.ctx x
  let n := min bs.length (256 - va % 256)
  let piece (s : State) (va : Nat) (b : List Byte) : State :=
    let s1 := s.ctxNote x .write va
    match s.xlat (.engine (engineOf x)) k.part k.pv .write va with
    | .fail _ _ => s1
    | .ok leaf _ pa => s1.put (.seMap x) pa b (s.ctxAcs x leaf)
  let s1 := piece s (va % 2 ^ 64) (bs.take n)
  if n = bs.length then s1 else piece s1 ((va + n) % 2 ^ 64) (bs.drop n)

/-- Map words and records of the context, and writes of any kind, to other modules that await their acknowledgment. -/
def State.seMaps (s : State) (x : Nat) : Bool := s.remotes.any (fun p => decide (p.2.kind = .seMap x))
def State.seWrites (s : State) (x : Nat) : Bool := s.remotes.any (fun p => decide (p.2.kind = .seWrite x)) || s.seMaps x

/-- Signals of the context that are not yet visible. -/
def State.seSignalled (s : State) (x : Nat) : Bool := s.semQ.any (fun r => decide (r.who = 0x8000 + x))

/-! ### Completion records (R278, R279, Table SE-4) -/

/-- The 32-byte fault record of a run. -/
def DescRun.faultRec (d : DescRun) (r : Run) : List Byte :=
  ((List.range 5).flatMap (fun j => toBytes 4 (d.coord r.first j))) ++ toBytes 4 r.count
    ++ toBytes 8 (r.cause + d.seq % 2 ^ 16 * 2 ^ 16)

/-- Words 0x08 to 0x3F of the record. -/
def DescRun.recBody (d : DescRun) (heldOut heldIn lastSeq yield : Nat) : List Byte :=
  let cap32 (n : Nat) : Nat := min n (2 ^ 32 - 1)
  toBytes 8 d.delivered
    ++ (List.range 5).flatMap (fun j => toBytes 4 (match d.last with
      | some e => d.coord e j
      | none => 2 ^ 32 - 1))
    ++ toBytes 4 d.outSig ++ toBytes 2 (min heldOut 65535) ++ toBytes 2 (min heldIn 65535) ++ toBytes 4 (cap32 d.overrun)
    ++ toBytes 4 (cap32 d.dropped) ++ toBytes 4 (cap32 d.malformed) ++ toBytes 4 yield ++ toBytes 4 (lastSeq % 2 ^ 16)

/-- Word 0x00 of the record. -/
def DescRun.recWord (d : DescRun) (status : Nat) : List Byte :=
  let nf := min d.runs.length d.fcap
  toBytes 8 (1 + status * 2 + d.seq % 2 ^ 16 * 2 ^ 16 + nf * 2 ^ 32 + min (d.runs.length - nf) 65535 * 2 ^ 48)

/-- Write the fault records and the completion record of a descriptor, its first word last, and notify. YIELD counts
arbitration cycles, which the model leaves out: a free value (log 41). -/
def State.seRecord (s : State) (x : Nat) (d : DescRun) (status heldOut heldIn lastSeq : Nat) : State :=
  let cr := d.crec
  let y := s.drawn.toNat % 2 ^ 32
  let s0 := s.draw
  let s1 :=
    if cr = 0 ∨ cr % 64 ≠ 0 then s0
    else if !s0.writable x cr then s0.seEvent x d.seq 0x0406 evConfig cr
    else
      let s2 := ((d.runs.take d.fcap).zipIdx.foldl (fun s r => s.putVa x (cr + 0x40 + 0x20 * r.2) (d.faultRec r.1)) s0)
      (s2.putVa x (cr + 8) (d.recBody heldOut heldIn lastSeq y)).putVa x cr (d.recWord status)
  let s3 := s1.updCtx x (fun k => { k with
    done := BitVec.ofNat 64 d.delivered, seq := d.seq
    sumElems := k.sumElems + d.delivered
    sumFault := k.sumFault + min d.runs.length d.fcap
    sumOver := k.sumOver + d.overrun
    sumYield := min (k.sumYield + y) (2 ^ 64 - 1)
    sawBad := k.sawBad || decide (status = 2)
    sawCancel := k.sawCancel || decide (status = 1) })
  if d.nen && !d.nfBad then
    if engineOf x ≥ 32 then s3.hubRaise (0x40 + (engineOf x - 32) * 16 + d.nsrc % 16)
    else s3.bellRaise d.ncore (8 + d.nsrc)
  else s3

/-! ### The runs of a context -/

/-- Replace run `i` of a context. -/
def State.setRun (s : State) (x i : Nat) (d : DescRun) : State :=
  s.updCtx x (fun k => { k with runs := k.runs.set i d })

/-- The tiles that a run holds are READY again (Table TIL-3). -/
def State.leaveSrc (s : State) (d : DescRun) : State :=
  if d.srcHeld then s.tileTo (refCore d.src) (refTile d.src) tReady else s
def State.leaveDst (s : State) (d : DescRun) : State :=
  if d.dstHeld then s.tileTo (refCore d.dst) (refTile d.dst) tReady else s

/-- A unit is delivered (R283): a late one is an overrun. -/
def State.unitDone (s : State) (x : Nat) (d : DescRun) : State × DescRun :=
  let d1 := { d with outSig := d.outSig + 1, dueOn := false, dueCnt := 0 }
  if d.due ≠ 0 ∧ d.dueCnt > d.due then
    let s1 := s.updEngine (engineOf x) (fun e => { e with overrun := e.overrun + 1 })
    let s2 := if d.overrun = 0 then s1.seEvent x d.seq 0x0402 evDeadline d.outSig else s1
    ((s2.hubRaise 0x21).pulse 5, { d1 with overrun := d.overrun + 1 })
  else (s, d1)

/-- Signals that a descriptor may send: IN_EMPTY of units whose takes are held and whose reads have returned, OUT_FULL of units whose writes are
accepted, map words included; the signals of a unit follow those of the unit before it (R263, R264). -/
def State.seSignals (s : State) (x : Nat) (d : DescRun) : Nat → State × DescRun
  | 0 => (s, d)
  | n + 1 =>
    if d.inSig < d.units ∧ d.rd ≥ (d.inSig + 1) * d.unitSize ∧ (d.outEn = false ∨ (d.inSig ≤ d.outSig ∧ (d.inEn = false ∨ d.inSig < d.outTaken))) then
      let s1 := if d.inEn then s.signal (0x8000 + x) d.inEmpty 1 else s
      s1.seSignals x { d with inSig := d.inSig + 1 } n
    else if d.outSig < d.units ∧ d.wr ≥ (d.outSig + 1) * d.unitSize ∧ s.seMaps x = false then
      let s1 := if d.outEn then s.signal (0x8000 + x) d.outFull 1 else s
      let r := s1.unitDone x d
      r.1.seSignals x r.2 n
    else (s, d)

/-- Units without an OUT pair whose last write is accepted are complete, after a cancel too (R279, R280). -/
def State.closeUnits (s : State) (x : Nat) (d : DescRun) : Nat → State × DescRun
  | 0 => (s, d)
  | n + 1 =>
    if d.outEn = false ∧ d.outSig < d.units ∧ d.wr ≥ (d.outSig + 1) * d.unitSize then
      let r := s.unitDone x d
      r.1.closeUnits x r.2 n
    else (s, d)

/-- Signals of the runs in chain order: those of a descriptor follow all of the one before it (R263). -/
def State.signalRuns (s : State) (x i : Nat) : List DescRun → State
  | [] => s
  | d :: l =>
    if d.fail ≠ 0 then s
    else
      let r := s.seSignals x d (2 * d.units)
      let s1 := r.1.setRun x i r.2
      if r.2.outSig = r.2.units ∧ r.2.inSig = r.2.units then s1.signalRuns x (i + 1) l else s1

/-- Credits held by every descriptor of the context (R281). -/
def Ctx.heldOut (k : Ctx) : Nat := (k.runs.map (fun d => d.outTaken - d.outSig)).sum
def Ctx.heldIn (k : Ctx) : Nat := (k.runs.map (fun d => d.inTaken - d.inSig)).sum
/-- Runs that have begun, when `rd` counts the reads that have been issued: all earlier ones have issued their last read, and
FENCE waits for their records (R258). -/
def begunRuns : List DescRun → Nat
  | [] => 0
  | d :: l =>
    1 + (if d.rd = d.total ∧ d.fail = 0 then
      match l with
      | e :: l2 => if e.fail = 0 ∧ e.fence = false then
          1 + (match l2 with
            | f :: _ => if e.rd = e.total ∧ f.fail = 0 ∧ f.fence = false then 1 else 0
            | [] => 0)
        else 0
      | [] => 0
    else 0)

/-! ### Plans of rows (Table SE-2, R284 to R286) -/

/-- The row is not written: no address, with its cause, or skipped. -/
def planNone (cause : Nat) (skip : Bool) : RowPlan := { src := none, dst := none, cause := cause, skip := skip }

/-- Addresses of a row's first element from its outer coordinates (COPY). -/
def DescRun.rowSrc (d : DescRun) (r : Nat) : Int :=
  d.srcBase + ((List.range 4).map (fun j => (d.coord (r * d.len 0) (j + 1) : Int) * d.ss (j + 1))).sum
def DescRun.rowDst (d : DescRun) (r : Nat) : Int :=
  d.dstBase + ((List.range 4).map (fun j => (d.coord (r * d.len 0) (j + 1) : Int) * d.ds (j + 1))).sum

/-- The plan of a GATHER or SCATTER row (R261, Table SE-3). -/
def State.planIndexed (s : State) (x : Nat) (d : DescRun) (r : Nat) : Except State (RowPlan × State × DescRun) :=
  let n := if d.ixw then 8 else 4
  match s.side x (d.idx + r * n) n with
  | .error s1 => .error s1
  | .ok (v, c, s1) =>
    let xr := sxt (8 * n) v
    if d.op = 1 then
      if c ≠ 0 then .ok ({ src := none, dst := some (d.rowDst r), fill := 2, cause := c }, s1, d)
      else .ok ({ src := some (d.srcBase + xr * d.ss 1), dst := some (d.rowDst r) }, s1, d)
    else if c ≠ 0 then .ok (planNone c false, s1, d)
    else .ok ({ src := some (d.rowSrc r), dst := some (d.dstBase + xr * d.ds 1) }, s1, d)

/-- The plan of a COPY, GATHER or SCATTER row under a block mask (R245, R286); the code 0b11 is to be reported once for each pair
that is read (R246). -/
def State.planMasked (s : State) (x : Nat) (d : DescRun) (r : Nat) : Except State (RowPlan × State × DescRun) :=
  let plain (s : State) (d : DescRun) : Except State (RowPlan × State × DescRun) :=
    if d.op = 0 then .ok ({ src := some (d.rowSrc r), dst := some (d.rowDst r) }, s, d) else s.planIndexed x d r
  if !d.bmk then plain s d
  else
    let j := d.coord (r * d.len 0) 2
    let i := d.coord (r * d.len 0) 3
    let wa := (d.aux + 8 * (i * d.mw + j / 32)) % 2 ^ 64
    match s.side x wa 8 with
    | .error s1 => .error s1
    | .ok (v, c, s1) =>
      if c ≠ 0 then
        if d.op ≠ 2 then .ok ({ src := none, dst := some (d.rowDst r), fill := 2, cause := c }, s1, d)
        else
          match s1.planIndexed x d r with
          | .error s2 => .error s2
          | .ok (q, s2, d2) => .ok (if q.dst.isNone then q else { q with src := none, fill := 2, cause := c }, s2, d2)
      else
        match v / 4 ^ (j % 32) % 4 with
        | 0 => .ok (planNone 0 true, s1, d)
        | 3 =>
          match plain s1 d with
          | .error s2 => .error s2
          | .ok (q, s2, d2) => .ok (if d.coord (r * d.len 0) 1 = 0 then { q with mask := some wa } else q, s2, d2)
        | _ => plain s1 d

/-- Fields of a routing entry (R248). -/
def entRank (v : Nat) : Nat := v / 2 ^ 40 % 8
def entExpert (v : Nat) : Nat := v / 2 ^ 32 % 256
def entToken (v : Nat) : Nat := v % 2 ^ 32
/-- The entry is malformed (R248, R284). -/
def DescRun.badEntry (d : DescRun) (v : Nat) : Bool :=
  decide (v / 2 ^ 43 % 32 ≠ 0) || (decide (entExpert v ≥ d.nexp) && decide (entExpert v ≠ 255)) || decide (entRank v ≥ d.k)

/-- The plan of a DISPATCH row, with the map word that is written at the row's place in traversal order (R249, R250, R262,
R284). Where the map word cannot be written, IDX_XLAT comes first: the entry is neither MALFORMED nor DROPPED (DESIGN CHOICE,
log 62). -/
def State.planDispatch (s : State) (x : Nat) (d : DescRun) (r : Nat) : Except State (RowPlan × State × DescRun) :=
  let ma := (d.aux + 4 * r) % 2 ^ 64
  match s.side x (d.idx + 8 * r) 8 with
  | .error s1 => .error s1
  | .ok (v, c, s1) =>
    let e := entExpert v
    let rho := kget 0 d.rowsGiven e
    let map (n : Nat) (p : RowPlan) : RowPlan := { p with map := some (ma, n) }
    if c ≠ 0 then .ok (map 0xFFFFFFFE (planNone c false), s1, d)
    else if !s1.writable x ma then .ok (planNone 6 false, s1, d)
    else if d.badEntry v then .ok (map 0xFFFFFFFF (planNone 0 true), s1, { d with malformed := d.malformed + 1 })
    else if e = 255 then .ok (map 0xFFFFFFFF (planNone 0 true), s1, d)
    else if rho ≥ d.cap then .ok (map 0xFFFFFFFF (planNone 0 true), s1, { d with dropped := d.dropped + 1 })
    else .ok (map rho { src := some (d.srcBase + entToken v * d.ss 1), dst := some (d.dstBase + e * d.estr + rho * d.ds 1) },
      s1, { d with rowsGiven := kset 0 d.rowsGiven e (rho + 1) })

/-- The plan of a COMBINE row (R251, R285). -/
def State.planCombine (s : State) (x : Nat) (d : DescRun) (r : Nat) : Except State (RowPlan × State × DescRun) :=
  match s.side x (d.idx + 8 * r) 8 with
  | .error s1 => .error s1
  | .ok (v, c, s1) =>
    if c ≠ 0 then .ok ({ src := none, dst := some (d.dstBase + r * d.ds 1), fill := 2, cause := c }, s1, d)
    else if d.badEntry v then .ok (planNone 0 true, s1, { d with malformed := d.malformed + 1 })
    else
      let dst := d.dstBase + (entToken v * d.k + entRank v : Nat) * d.ds 1
      match s1.side x (d.aux + 4 * r) 4 with
      | .error s2 => .error s2
      | .ok (m, c2, s2) =>
        if c2 ≠ 0 then .ok ({ src := none, dst := some dst, fill := 2, cause := c2 }, s2, d)
        else if m = 0xFFFFFFFF then .ok ({ src := none, dst := some dst, fill := 1 }, s2, d)
        else if m = 0xFFFFFFFE then .ok ({ src := none, dst := some dst, fill := 2 }, s2, d)
        else .ok ({ src := some (d.srcBase + entExpert v * d.estr + m * d.ss 1), dst := some dst }, s2, d)

/-- The plan of row `r`: the one under way, or a new one. -/
def State.planRow (s : State) (x : Nat) (d : DescRun) (r : Nat) : Except State (RowPlan × State × DescRun) :=
  match d.row with
  | some (q, p) => if q = r then .ok (p, s, d) else fresh
  | none => fresh
where
  fresh : Except State (RowPlan × State × DescRun) :=
    let p := match d.op with
      | 3 => s.planDispatch x d r
      | 4 => s.planCombine x d r
      | _ => s.planMasked x d r
    match p with
    | .error e => .error e
    | .ok (p, s1, d1) => .ok (p, s1.farDrop x, { d1 with row := some (r, p) })

/-! ### Reads (R268, R269, R272, R273) -/

/-- Bytes of a tile at offset `o`, with the poison of their granule (R194). -/
def State.tileBytes (s : State) (ref o n : Nat) : List Byte × Bool :=
  let row := (s.tile (refCore ref) (refTile ref)).row (o / 128)
  (toBytes n (fld row.data (o % 128 * 8 + n * 8 - 1) (o % 128 * 8)), bit row.poison (o % 128 / 32))

/-- Bytes of an element that is delivered poisoned without data: free values (log 42). -/
def State.freeBytes (s : State) (n : Nat) : List Byte × State :=
  ((List.range n).map (fun i => BitVec.ofNat 8 ((Config.freeWord (s.fresh + i / 8)).toNat / 256 ^ (i % 8))),
    { s with fresh := s.fresh + (n + 7) / 8 })

/-- An element offset lies outside its tile (R266). -/
def DescRun.outside (d : DescRun) (o : Int) : Bool := decide (o < 0) || decide (o + d.esz > 4096)

/-- Buffered bytes read ahead of OUT_EMPTY (R272). -/
def DescRun.aheadBytes (d : DescRun) : Nat := (d.rd - max d.wr (d.outTaken * d.unitSize)) * d.esz

/-- Bytes `[a, a + n)` lie in the freewheel region; those of a tile by their offset in it (R273, log 61). -/
def DescRun.inRegion (d : DescRun) (a n : Nat) : Bool := decide (d.rlo ≤ a) && decide (a + n ≤ d.rhi)

/-- The side data of row `r`: addresses and sizes. -/
def DescRun.sideSpans (d : DescRun) (r : Nat) : List (Nat × Nat) :=
  let n := if d.ixw then 8 else 4
  let wa := d.aux + 8 * (d.coord (r * d.len 0) 3 * d.mw + d.coord (r * d.len 0) 2 / 32)
  match d.op with
  | 3 => [(d.idx + 8 * r, 8)]
  | 4 => [(d.idx + 8 * r, 8), (d.aux + 4 * r, 4)]
  | _ => (if d.bmk then [(wa, 8)] else []) ++ (if d.isIndexed then [(d.idx + r * n, n)] else [])

/-- A context's read at `a` can be made: it translates, to memory, the host window or another module. -/
def State.readable (s : State) (x va : Nat) : Bool :=
  let k := s.ctx x
  match s.xlat (.engine (engineOf x)) k.part k.pv .read va with
  | .ok _ _ pa => !s.isLocal pa || s.isMem (localOf pa) || (match s.place (localOf pa) with
      | .host _ => true
      | _ => false)
  | .fail _ _ => false

/-- The reads of unit `u` are demand reads: its credits are held (R263, R272). -/
def DescRun.demand (d : DescRun) (u : Nat) : Bool :=
  (!d.inEn || decide (u < d.inTaken)) && (!d.outEn || decide (u < d.outTaken))

/-- Freewheel bytes that the runs of a context other than run `i` hold. -/
def Ctx.aheadOther (k : Ctx) (i : Nat) : Nat :=
  ((k.runs.zipIdx.filter (fun r => decide (r.2 ≠ i) && r.1.outEn)).map (fun r => r.1.aheadBytes)).sum

/-- The reads of unit `u` of run `i` are permitted as freewheel reads: the context's allotment has room for one more element
(R272). -/
def State.ahead (s : State) (x i : Nat) (d : DescRun) (u : Nat) : Bool :=
  d.outEn && (!d.inEn || decide (u < d.inTaken)) && decide (u < d.outTaken + d.lead)
    && decide ((s.ctx x).aheadOther i + d.aheadBytes + d.esz ≤ (s.ctx x).fwb * 4096)

/-- A read request that is being formed: its block, and the bytes of memory that it reads so far. -/
structure ReqKey where
  blk : Int
  lo : Nat := 0
  hi : Nat := 0
  deriving DecidableEq, Repr

/-- Outcome of entering one element. -/
inductive Entered where
  /-- it is in the engine; the request that was formed, if one was -/
  | into (s : State) (d : DescRun) (key : Option ReqKey)
  /-- it is not read now -/
  | stop (s : State)

/-- A freewheel read that fails is dropped: what it leaves, its walk and its reads, is left once (R273, R306). -/
def State.dropAhead (s : State) (x i : Nat) (d : DescRun) (leave : State → State) : State :=
  if d.dropAt = some d.rd then s else (leave s).setRun x i { d with dropAt := some d.rd }

/-- The code 0b11 of a planned row is reported, once (R246, R480). -/
def State.noteMask (s : State) (x : Nat) (d : DescRun) (r : Nat) (p : RowPlan) : State × DescRun :=
  match p.mask with
  | none => (s, d)
  | some wa => (s.seEvent x d.seq 0x0405 evConfig wa, { d with row := some (r, { p with mask := none }) })

/-- Read element `d.rd`, a demand read or, with `fw`, a freewheel read; `key` is the request so far (R268, R510). -/
def State.readElem (s : State) (x i : Nat) (d : DescRun) (key : Option ReqKey) : Entered :=
  let e := d.rd
  let u := e / d.unitSize
  let r := e / d.len 0
  let i0 : Int := (e % d.len 0 : Nat)
  let fw := !d.demand u
  let fresh := match d.row with
    | some q => decide (q.1 ≠ r)
    | none => true
  if fw && !s.ahead x i d u then .stop s
  else if fw && fresh && !(d.sideSpans r).all (fun q => d.inRegion (q.1 % 2 ^ 64) q.2) then .stop s
  else
    match s.planRow x d r with
    | .error s1 => .stop s1
    | .ok (p, s0, d0) =>
      if fw && fresh && decide (p.cause ≠ 0) then .stop (s.dropAhead x i d (fun _ => s0))
      else
      let noted := s0.noteMask x d0 r p
      let s1 := noted.1
      let d1 := noted.2
      let put (s : State) (d : DescRun) (el : Elem) (key : Option ReqKey) : Entered :=
        .into s { d with rd := e + 1, buf := d.buf ++ [{ el with map := if i0 = 0 then p.map else none }] } key
      let saved := s1.setRun x i d1
      if p.skip then put s1 d1 { bytes := [], poison := false, cause := 0, act := 2, dst := 0 } key
      else
        match p.dst with
        | none => put s1 d1 { bytes := [], poison := false, cause := p.cause, act := 1, dst := 0 } key
        | some dst0 =>
          let dst := dst0 + i0 * d.ds 0
          let el (b : List Byte) (bad : Bool) (c : Nat) : Elem := { bytes := b, poison := bad, cause := c, act := 0, dst := dst }
          if d.dstTile && d.outside dst then
            put s1 d1 { bytes := [], poison := false, cause := if p.cause ≠ 0 then p.cause else 4, act := 1, dst := 0 } key
          else
            match p.src with
            | none =>
              if p.fill = 2 then
                let b := s1.freeBytes d.esz
                put b.2 d1 (el b.1 true p.cause) key
              else put s1 d1 (el (List.replicate d.esz 0) false p.cause) key
            | some src0 =>
              let a := src0 + i0 * d.ss 0
              let va := (a % 2 ^ 64).toNat
              if fw && !d.inRegion va d.esz then .stop saved
              else if d.srcTile then
                if d.outside a then
                  if fw then .stop saved
                  else
                    let b := s1.freeBytes d.esz
                    put b.2 d1 (el b.1 true (if p.cause ≠ 0 then p.cause else 1)) key
                else if !d.srcHeld && !decide (s1.tileSt (refCore d.src) (refTile d.src) = tReady) then .stop saved
                else
                  match key with
                  | some q =>
                    if q.blk = a / 512 then
                      let b := s1.tileBytes d.src a.toNat d.esz
                      put s1 d1 (el b.1 b.2 (if b.2 then 2 else 0)) key
                    else .stop saved
                  | none =>
                    let s2 := if d.srcHeld then s1 else s1.tileTo (refCore d.src) (refTile d.src) tInUse
                    let b := s2.tileBytes d.src a.toNat d.esz
                    put s2 { d1 with srcHeld := true } (el b.1 b.2 (if b.2 then 2 else 0)) (some { blk := a / 512 })
              else
                let blk : Int := (va / 64 : Nat)
                if (key.map (·.blk)).getD blk ≠ blk then .stop saved
                else if fw && !s1.readable x va then .stop (saved.dropAhead x i d1 (fun s => s.ctxNote x .read va))
                else
                  match (if key.isSome then s1 else saved).fetchVa x va d.esz { data := true, ask := key.isNone, fresh := key.isNone, take := false } with
                  | .wait s2 => .stop s2
                  | .got b p2 c s2 =>
                    let q := key.getD { blk := blk, lo := va, hi := va }
                    let k2 : ReqKey := { blk := blk, lo := min q.lo va, hi := max q.hi (va + d.esz) }
                    if b.length = d.esz then put s2 d1 (el b p2 c) (some k2)
                    else
                      let f := s2.freeBytes d.esz
                      put f.2 d1 (el f.1 true c) (some k2)

/-- Enter elements until the request's block, the permission or, from a tile, the unit ends; `got` says whether any has
entered. -/
def State.readLoop (s : State) (x i : Nat) (d : DescRun) (key : Option ReqKey) (got : Bool) :
    Nat → State × DescRun × Bool × Option ReqKey
  | 0 => (s, d, got, key)
  | n + 1 =>
    match s.readElem x i d key with
    | .stop s1 => if got then (s, d, true, key) else (s1, d, false, key)
    | .into s1 d1 k1 => s1.readLoop x i d1 k1 true n

/-- The run that reads next: the first begun one that has not read everything. -/
def State.reader (s : State) (x : Nat) : Option (DescRun × Nat) :=
  let k := s.ctx x
  ((k.runs.take (begunRuns k.runs)).zipIdx.find? (fun r => decide (r.1.fail = 0) && decide (r.1.rd < r.1.total)))

/-- Elements that a request may still take. -/
def DescRun.readRoom (d : DescRun) : Nat :=
  let n := if d.srcTile then d.unitSize - d.rd % d.unitSize else d.total - d.rd
  match d.rdLim with
  | some m => min n (m - d.rd)
  | none => n

/-- The local memory address that a context's address names, with its access. -/
def State.readPa (s : State) (x va : Nat) : Option (Nat × Acs) :=
  let k := s.ctx x
  match s.xlat (.engine (engineOf x)) k.part k.pv .read va with
  | .ok leaf _ pa => if s.isLocal pa && s.isMem (localOf pa) then some (localOf pa, s.ctxAcs x leaf) else none
  | .fail _ _ => none

/-- The memory read of a formed request: one request for the granules it takes (R268). -/
def State.takeReq (s : State) (x : Nat) (key : Option ReqKey) : State :=
  match key with
  | some q => if q.hi = 0 then s else
    match s.readPa x q.lo with
    | some (a, acs) => s.touch a (q.hi - q.lo) acs
    | none => s
  | none => s

/-- A slot for an access of the context at local address `a`: of its bank, or of none. -/
def State.slotAt (s : State) (x a : Nat) : BankSlot :=
  (match s.place a with
    | .lpddr => some (s.bankOf a)
    | _ => none, decide ((s.ctx x).cls = .cad))

/-- The slot of a read of this module's memory; reads outside it hold theirs as reads under way. -/
def State.readSlot (s : State) (x va : Nat) : List BankSlot :=
  match s.readPa x (va % 2 ^ 64) with
  | some (a, _) => [s.slotAt x a]
  | none => []

/-- The slots of the side data of row `r`. -/
def State.sideSlots (s : State) (x : Nat) (d : DescRun) (r : Nat) : List BankSlot :=
  (d.sideSpans r).flatMap (fun q =>
    let n := 256 - q.1 % 256
    s.readSlot x q.1 ++ (if n < q.2 then s.readSlot x (q.1 + n) else []))

/-- The slots that a read request holds until it returns (R269): that of its data, and those of the side data of the rows that
begin with it; `d` is the run before it and `n` the elements that it reads. -/
def State.reqSlots (s : State) (x : Nat) (d : DescRun) (n : Nat) (key : Option ReqKey) : List BankSlot :=
  let data : List BankSlot := match key with
    | some q => if q.hi = 0 then [(none, decide ((s.ctx x).cls = .cad))] else s.readSlot x q.lo
    | none => []
  let r0 := d.rd / d.len 0
  let rows := (List.range ((d.rd + n - 1) / d.len 0 + 1 - r0)).map (· + r0)
  data ++ (rows.filter (fun r => decide (d.row.map (·.1) ≠ some r))).flatMap (s.sideSlots x d)

/-- The next read request of a context and its return, with its slots; `none` while none is permitted. -/
def State.readNext (s : State) (x : Nat) : Option (State × List BankSlot) × State :=
  match s.reader x with
  | none => (none, s)
  | some (d, i) =>
    let r := s.readLoop x i d none false d.readRoom
    if !r.2.2.1 then (none, r.1)
    else
      let d1 := r.2.1
      let s1 := if d1.rd = d1.total then r.1.leaveSrc d1 else r.1
      let d2 : DescRun := if d1.rd = d1.total then { d1 with srcHeld := false, row := none } else d1
      (some (((s1.takeReq x r.2.2.2).setRun x i d2).farDrop x, s.reqSlots x d (d1.rd - d.rd) r.2.2.2), s)

/-! ### Writes (R262, R263, R275 to R278) -/

/-- Elements with their index, destination address and poison that one write request holds. -/
structure Batch where
  /-- elements leaving the buffer -/
  n : Nat
  /-- written elements: destination, bytes, poison -/
  put : List (Int × List Byte × Bool)
  /-- the request is complete and may be issued -/
  closed : Bool
  deriving DecidableEq, Repr

/-- Consecutive elements from the front of the buffer that one request writes: one destination block of `size` bytes, up to
the next map word when the destination is memory. A tile's group leaves once it is closed: by an element in another block,
or by the end of the unit, where `last` (R510). -/
def batchOf (size : Nat) (last first : Bool) : Nat → List Elem → Option Int → Batch
  | 0, _, key => ⟨0, [], last || key.isNone⟩
  | _, [], key => ⟨0, [], decide (size = 64) || key.isNone⟩
  | n + 1, e :: l, key =>
    if !first && decide (size = 64) && e.map.isSome then ⟨0, [], true⟩
    else if e.act ≠ 0 then
      let b := batchOf size last false n l key
      ⟨b.n + 1, b.put, b.closed⟩
    else if key.isSome && decide (key ≠ some (e.dst / size)) then ⟨0, [], true⟩
    else
      let b := batchOf size last false n l (some (e.dst / size))
      ⟨b.n + 1, (e.dst, e.bytes, e.poison) :: b.put, b.closed⟩

/-- The destination tile permits the first write (Table TIL-3, R267). -/
def State.tileFree (s : State) (d : DescRun) : Bool :=
  let c := refCore d.dst
  let j := refTile d.dst
  d.dstHeld || (if d.te then decide (s.tileSt c j = tEmpty) else s.settled c j)

/-- The descriptor may write CAD_COMMIT (R276). -/
def DescRun.commits (d : DescRun) : Bool := decide (d.op = 0) && decide (d.ezCode = 3) && decide (d.total = 1)

/-- Elements of the head's next write request, 0 when it has none (R263, R268, R510). A group of a tile ends where its next
element lies in another block, though that element itself may not be written any more. -/
def State.nextBatch (s : State) (d : DescRun) : Batch :=
  let top := if d.outEn then min d.total (d.outTaken * d.unitSize) else d.total
  let unit := (d.wr / d.unitSize + 1) * d.unitSize
  let lim := if d.dstTile then min top unit else min (d.wrLim.getD top) top
  if d.dstTile && (!s.tileFree d) then ⟨0, [], false⟩
  else
    let b := batchOf (if d.dstTile then 512 else 64) (decide (lim = unit)) true (lim - d.wr) d.buf none
    if b.closed && decide (d.wr + b.n ≤ d.wrLim.getD (d.wr + b.n)) then b else ⟨0, [], false⟩

/-- The run that writes next: the first that has not written everything, behind no failed one (R258, R262). -/
def writerOf : List DescRun → Option (DescRun × Nat)
  | [] => none
  | d :: l => if d.fail ≠ 0 then none else if d.wr < d.total then some (d, 0) else (writerOf l).map (fun r => (r.1, r.2 + 1))

/-- Write of a map word that the run makes next (R284). -/
def DescRun.mapNext (d : DescRun) : Option (Nat × Nat) :=
  let top := if d.outEn then min d.total (d.outTaken * d.unitSize) else d.total
  match d.buf with
  | e :: _ => if d.wr < d.wrLim.getD top then e.map else none
  | [] => none

/-- The map word has been written. -/
def DescRun.mapDone (d : DescRun) : DescRun :=
  match d.buf with
  | e :: l => { d with buf := { e with map := none } :: l }
  | [] => d

/-! ### What has been issued (R258, R269, R270, log 43): every request that is permitted has been issued -/

/-- The context is ACTIVE and its engine's clock runs. -/
def State.ctxLive (s : State) (x : Nat) : Bool :=
  decide ((s.ctx x).st = .active) && !s.clkOff.contains (engineDomain (engineOf x))

/-- The context is live and its engine may choose it for new requests (R271, R328). -/
def State.ctxMay (s : State) (x : Nat) : Bool := s.ctxLive x && !s.gatedCls (s.ctx x).cls

/-- Reads outside the module that are under way count as issued: what follows them is issued as if they had returned (R258). -/
def State.passFar (s : State) (x : Nat) : State :=
  s.updCtx x (fun k => { k with far := k.far.map (fun f =>
    if f.data && f.answer.isNone then { f with answer := some ([], [], 0) } else f) })

/-- The slots fit one after the other. -/
def State.slotsFit (s : State) (e : Nat) (held : List BankSlot) : List BankSlot → Bool
  | [] => true
  | r :: l => s.slotFits e held r && s.slotsFit e (r :: held) l

/-- Read requests issued for a context, at most `n`, given the engine's slots held: the slots then held, those of the requests,
their number, and the runs as the issued ones leave them. A request without a slot is passed over; later ones to other banks
go on (R56). -/
def State.issueReads (s : State) (x : Nat) :
    Nat → List BankSlot → List BankSlot → Nat → Option (List DescRun) → List BankSlot × List BankSlot × Nat × List DescRun
  | 0, held, mine, k, front => (held, mine, k, front.getD (s.ctx x).runs)
  | n + 1, held, mine, k, front =>
    match (s.readNext x).1 with
    | none => (held, mine, k, front.getD (s.ctx x).runs)
    | some (s1, l) =>
      if s.slotsFit (engineOf x) held l then s1.issueReads x n (l ++ held) (l ++ mine) (k + 1) front
      else s1.issueReads x n held mine k (some (front.getD (s.ctx x).runs))

/-- The slot of a write of the context at a virtual address. -/
def State.writeSlot (s : State) (x va : Nat) : BankSlot :=
  let k := s.ctx x
  match s.xlat (.engine (engineOf x)) k.part k.pv .write (va % 2 ^ 64) with
  | .ok _ _ pa => if s.isLocal pa then s.slotAt x (localOf pa) else (none, decide (k.cls = .cad))
  | .fail _ _ => (none, decide (k.cls = .cad))

/-- The slots of the write of a batch: its own, if it writes, and those of the map words that go with it (R284). -/
def State.batchSlots (s : State) (x : Nat) (d : DescRun) (b : Batch) : List BankSlot :=
  (match b.put with
    | [] => []
    | p :: _ => if d.dstTile then [(none, decide ((s.ctx x).cls = .cad))] else [s.writeSlot x (p.1 % 2 ^ 64).toNat])
    ++ (d.buf.take b.n).filterMap (fun e => e.map.map (fun m => s.writeSlot x m.1))

/-- Write requests issued for a run, at most `n`: the slots then held, how many there are, and the run behind them. They leave in
traversal order (R262), each with its slots (R269, R270). -/
def State.issueWrites (s : State) (x : Nat) (held : List BankSlot) (d : DescRun) : Nat → List BankSlot × Nat × DescRun
  | 0 => (held, 0, d)
  | n + 1 =>
    match d.mapNext with
    | some m =>
      let r := s.writeSlot x m.1
      if s.slotFits (engineOf x) held r then
        let q := s.issueWrites x (r :: held) d.mapDone n
        (q.1, q.2.1 + 1, q.2.2)
      else (held, 0, d)
    | none =>
      let b := s.nextBatch d
      let l := s.batchSlots x d b
      if b.n = 0 ∨ s.slotsFit (engineOf x) held l = false then (held, 0, d)
      else
        let q := s.issueWrites x (l ++ held) { d with wr := d.wr + b.n, buf := d.buf.drop b.n } n
        (q.1, q.2.1 + 1, q.2.2)

/-- The slots behind the writes that have been issued of the runs, in chain order, how many there are, and the runs behind them:
a run's writes follow the last of the one before it (R262). -/
def State.runsWritten (s : State) (x : Nat) (held : List BankSlot) : List DescRun → List BankSlot × Nat × List DescRun
  | [] => (held, 0, [])
  | d :: l =>
    if d.fail ≠ 0 then (held, 0, d :: l)
    else
      let r := s.issueWrites x held d (2 * d.buf.length)
      if r.2.2.wr = r.2.2.total then
        let q := s.runsWritten x r.1 l
        (q.1, r.2.1 + q.2.1, r.2.2 :: q.2.2)
      else (r.1, r.2.1, r.2.2 :: l)

/-- Slots of a context's reads outside the module, of those that return into the sink, and of a write to another module that
is under way (R269). -/
def Ctx.fixedSlots (k : Ctx) : List BankSlot :=
  let cad := decide (k.cls = .cad)
  (k.far.filter (fun f => f.answer.isNone)).map (fun _ => (none, cad)) ++ k.sink.map (fun b => (b, cad))
    ++ (if k.farW = 0 then [] else [(none, cad)])

/-- The slots of the read of the next descriptor that the context may make (R257); a read outside the module is one under way
once it has been sent. -/
def State.descSlots (s : State) (x : Nat) : List BankSlot :=
  let k := s.ctx x
  if s.ctxMay x && decide (k.next ≠ 0) && decide (k.runs.length ≤ 2) && !k.far.any (·.desc) then s.readSlot x k.next.toNat else []

/-- What an engine has issued for one of its contexts. -/
structure Issued where
  x : Nat
  /-- the descriptor's read has its slot -/
  desc : Bool
  /-- reads under way, their slots, and the runs as they leave them -/
  n : Nat
  slots : List BankSlot
  runs : List DescRun
  /-- writes under way, and the runs as they leave them -/
  writes : Nat
  written : List DescRun

/-- What context `x` has issued beside the slots held: the descriptor's read, then the writes, then the reads (log 43). -/
def State.issueCtx (s : State) (x : Nat) (held : List BankSlot) : List BankSlot × Issued :=
  let k := s.ctx x
  let l := s.descSlots x
  let fits := s.slotsFit (engineOf x) held l
  let h1 := if fits then l ++ held else held
  let w := if k.farW = 0 ∧ (s.ctxLive x = true ∨ k.st = .cancelling) then s.runsWritten x h1 k.runs else (h1, 0, k.runs)
  let r := if s.ctxLive x then (s.passFar x).issueReads x 1024 w.1 [] 0 none else (w.1, [], 0, k.runs)
  (r.1, { x := x, desc := fits, n := r.2.2.1, slots := r.2.1, runs := r.2.2.2, writes := w.2.1, written := w.2.2 })

/-- The slots of an engine in use (R59, R269), and what it has issued for each of its contexts: those that may issue nothing new
have what they had, and the others follow in context order. -/
def State.engineSlots (s : State) (e : Nat) : List BankSlot × List Issued :=
  let mine := (s.ctxs.filter (fun q => decide (engineOf q.1 = e))).map (·.1)
  let fixed := mine.flatMap (fun x => (s.ctx x).fixedSlots)
  ((mine.filter (fun x => !s.ctxMay x)) ++ mine.filter s.ctxMay).foldl (fun a x =>
    let r := s.issueCtx x a.1
    (r.1, a.2 ++ [r.2])) (fixed ++ s.memSlots e, [])

/-- What context `x`'s engine has issued for it. -/
def State.issued (s : State) (x : Nat) : Issued :=
  ((s.engineSlots (engineOf x)).2.find? (fun r => decide (r.x = x))).getD
    { x := x, desc := false, n := 0, slots := [], runs := (s.ctx x).runs, writes := 0, written := (s.ctx x).runs }

/-- Runs of a context that have begun (R258). -/
def State.begun (s : State) (x : Nat) : Nat := begunRuns (s.issued x).runs

/-- Sequence number of the last descriptor whose reads have begun (R258, R281). -/
def State.lastSeq (s : State) (x : Nat) : Nat :=
  match (s.ctx x).runs[s.begun x - 1]? with
  | some d => d.seq
  | none => 0

/-- The context's next read, if it has one, has been issued: it is not held back for want of a slot (R56, R270). -/
def State.readIssued (s : State) (x : Nat) : Bool := (s.readNext x).1.isNone || decide ((s.issued x).n ≠ 0)

/-! ### What follows when a context has moved on -/

/-- A cancel is complete: the CANCELLED record, and HEAD at the cancelled descriptor (R280). `last` is the last descriptor whose
reads had begun. -/
def State.cancelled (s : State) (x : Nat) : State :=
  let k := s.ctx x
  match k.runs with
  | [] => s.updCtx x (fun k => { k with st := .idle, head := if k.next = 0 then k.head else k.next, next := 0, far := [] })
  | d :: _ =>
    let s1 := if d.fail = 0 ∨ d.fail = 1 then s.seRecord x d 1 k.heldOut k.heldIn k.lastBegun else s
    let s2 := k.runs.foldl (fun s d => (s.leaveSrc d).leaveDst d) s1
    s2.updCtx x (fun k => { k with
      st := .idle, head := BitVec.ofNat 64 d.addr, next := 0, runs := [], far := [], farW := 0, sink := [] })

/-- A descriptor has done everything: its units are signalled and its writes accepted. -/
def DescRun.ended (d : DescRun) : Bool := decide (d.fail = 0) && decide (d.outSig = d.units) && decide (d.inSig = d.units)

/-- What follows once a context has moved on: signals, records in chain order once the signals are visible, the end of the
chain (R257, R258, R260, R279), or the end of a cancel (R280). A window that excludes the context holds its records back
(R271, R328). -/
def State.seSettle (s : State) (x : Nat) : Nat → State
  | 0 => s
  | n + 1 =>
    let k := s.ctx x
    let quiet := !s.seWrites x && !s.seSignalled x && !s.gatedCls k.cls
    if k.st = .cancelling then
      match k.runs with
      | [] => if k.sink.isEmpty then s.cancelled x else s
      | d :: rest =>
        if d.ended then
          (if quiet then ((s.seRecord x d 0 0 0 d.seq).updCtx x (fun k => { k with runs := rest })).seSettle x n else s)
        else
          let r := s.closeUnits x d d.units
          let s1 := r.1.setRun x 0 r.2
          if k.sink.isEmpty && decide (k.farW = 0) && quiet && k.runs.all (fun d => decide (d.wrLim.getD 0 ≤ d.wr)) then
            s1.cancelled x
          else s1
    else if k.st ≠ .active then s
    else
      let s1 := s.signalRuns x 0 k.runs
      match (s1.ctx x).runs with
      | [] => if k.next = 0 then s.updCtx x (fun k => { k with st := .idle }) else s
      | d :: rest =>
        if d.fail ≥ 2 then s1.updCtx x (fun k => { k with st := .idle, err := d.fail, runs := [], next := 0, sawBad := true })
        else if s.gatedCls k.cls then s1
        else if d.fail = 1 then
          (s1.seRecord x d 2 0 0 d.seq).updCtx x (fun k => { k with st := .idle, err := 1, runs := [], next := 0 })
        else if d.ended && !s1.seWrites x && !s1.seSignalled x then
          ((s1.seRecord x d 0 0 0 d.seq).updCtx x (fun k => { k with runs := rest })).seSettle x n
        else s1

def State.seDone (s : State) (x : Nat) : State := s.seSettle x ((s.ctx x).runs.length + 1)

/-! ### GO and CANCEL (R256, R280) -/

/-- State code of a context. -/
def CtxState.code : CtxState → Nat
  | .unallotted => 0
  | .idle => 1
  | .active => 2
  | .cancelling => 3

/-- Sequence number that SE_CTX_STATUS shows: the executing descriptor's, else the last one's. -/
def Ctx.seqNow (k : Ctx) : Nat :=
  match k.runs with
  | d :: _ => d.seq
  | [] => k.seq

/-- GO (R256, R418). -/
def State.seGo (s : State) (x : Nat) : State :=
  let k := s.ctx x
  if k.st ≠ .unallotted ∧ bit s.gear.blocked k.part = true then s.seEvent x k.seqNow 0x0A03 evConfig 2
  else if k.st ≠ .idle ∨ k.head = 0 then s.seEvent x k.seqNow 0x0404 evConfig k.st.code
  else s.setCtx x { k with
    st := .active, next := k.head, count := 0, seq := 0, runs := [], far := [], farW := 0, sink := []
    done := 0, sumElems := 0, sumFault := 0, sumOver := 0, sumYield := 0, sawBad := false, sawCancel := false }

/-- SE_GO (R256). -/
def execSeGo (x : CtxId) (s : State) : Res := .next (s.byReg (s.seGo x.val))

/-! ### Reading descriptors (R257, R260) -/

/-- The run that a descriptor's bytes make, with its checks. -/
def State.newRun (s : State) (x addr : Nat) (words : List Word) : DescRun :=
  let d : DescRun := { addr := addr, words := words, seq := (s.ctx x).count }
  if s.badDesc x d then { d with fail := 1, nfBad := s.badNotify (engineOf x) d } else d

/-- Cut bytes into words. -/
def wordsOf : Nat → List Byte → List Word
  | 0, _ => []
  | n + 1, bs => BitVec.ofNat 64 (ofBytes (bs.take 8)) :: wordsOf n (bs.drop 8)

/-- The context's next descriptor is read when its OP is `op` or it is bad; the descriptor read waits for a free place
two ahead of the executing one (R257) and for a slot (R269). -/
def State.descRead (s : State) (x op : Nat) : State :=
  let k := s.ctx x
  let va := k.next.toNat
  if !s.ctxMay x || decide (va = 0) || decide (k.runs.length > 2) || !(s.issued x).desc then s
  else
    match s.fetchVa x va 256 descFetch with
    | .wait s1 => s1
    | .got bs p c s1 =>
      let add (s : State) (d : DescRun) : State :=
        (s.updCtx x (fun k => { k with
          runs := k.runs ++ [d], count := k.count + 1, far := k.far.filter (fun f => !f.desc)
          next := if d.fail = 0 then d.next else 0 })).seDone x
      if c = 1 ∨ c = 8 then add s1 { addr := va, words := [], seq := k.count, fail := 2 }
      else if p ∨ c ≠ 0 then add s1 { addr := va, words := [], seq := k.count, fail := 3 }
      else
        let d := s.newRun x va (wordsOf 32 bs)
        if d.op ≤ 4 ∧ d.op ≠ op then s
        else if d.fail = 1 then add (s1.seEvent x d.seq 0x0403 evConfig va) d
        else add s1 d

/-- COPY (R257, R260, R261): the next descriptor is a COPY and is read. -/
def execSeCopy (x : CtxId) (s : State) : Res := .next (s.descRead x.val 0)
/-- GATHER. -/
def execSeGather (x : CtxId) (s : State) : Res := .next (s.descRead x.val 1)
/-- SCATTER. -/
def execSeScatter (x : CtxId) (s : State) : Res := .next (s.descRead x.val 2)
/-- DISPATCH. -/
def execSeDispatch (x : CtxId) (s : State) : Res := .next (s.descRead x.val 3)
/-- COMBINE. -/
def execSeCombine (x : CtxId) (s : State) : Res := .next (s.descRead x.val 4)

/-! ### Takes (R263, R265) -/

/-- The run needs this take next: IN_FULL of the units up to LEAD beyond OUT_EMPTY's, OUT_EMPTY after IN_FULL (R263,
R272). -/
def DescRun.wants (d : DescRun) (out : Bool) : Bool :=
  decide (d.fail = 0) && (if out then
      d.outEn && decide (d.outTaken < d.units) && (!d.inEn || decide (d.outTaken < d.inTaken))
    else d.inEn && decide (d.inTaken < d.units) && (!d.outEn || decide (d.inTaken ≤ d.outTaken + d.lead)))

/-- SE_TAKE_GRANTED (R263): a take of the first begun descriptor that wants one succeeds. -/
def execSeTakeGranted (x : CtxId) (out : Bool) (s : State) : Res :=
  let k := s.ctx x.val
  .next (if !s.ctxLive x.val then s
    else
      match (k.runs.take (s.begun x.val)).zipIdx.find? (fun r => r.1.wants out) with
      | none => s
      | some (d, i) =>
        let sem := if out then d.outEmpty else d.inFull
        if s.semCount sem = 0 then s
        else
          (s.setSem sem (s.semCount sem - 1)).setRun x.val i
            (if out then { d with outTaken := d.outTaken + 1 } else { d with inTaken := d.inTaken + 1 }))

/-! ### SE_READ_RETURN -/

/-- SE_READ_RETURN (R268, R269, R280): the next request's data enters the engine, or the sink after a cancel. A read that a
window excludes goes on when it had been issued before (R328). -/
def execSeReadReturn (x : CtxId) (s : State) : Res :=
  let k := s.ctx x.val
  .next (if k.st = .cancelling then
      if k.sink.isEmpty then s
      else
        ((s.updCtx x.val (fun k => { k with sink := k.sink.tail })).updEngine (engineOf x.val) (fun e =>
          { e with cancelDropped := e.cancelDropped + 1 })).seDone x.val
    else if !s.ctxLive x.val || !s.readIssued x.val then s
    else
      match s.readNext x.val with
      | (none, s1) => s1
      | (some (s1, _), _) => s1.seDone x.val)

/-! ### The writes themselves (R275 to R278) -/

/-- The written bytes cover granule `g`. -/
def covers (l : List (Int × List Byte × Bool)) (g : Int) : Bool :=
  (List.range 32).all (fun i => l.any (fun p => decide (p.1 ≤ g * 32 + i) && decide (g * 32 + i < p.1 + p.2.1.length)))
/-- Some written element reaches granule `g`; some poisoned one does (R277). -/
def reaches (l : List (Int × List Byte × Bool)) (g : Int) : Bool := l.any (fun p => decide (p.1 / 32 = g))
def reachesBad (l : List (Int × List Byte × Bool)) (g : Int) : Bool := l.any (fun p => p.2.2 && decide (p.1 / 32 = g))

/-- Write elements of one block to memory at local address `base`, the address of the block (R268, R277, R316). -/
def State.storeBlock (s : State) (base : Nat) (l : List (Int × List Byte × Bool)) (acs : Acs) : State :=
  let l1 := l.map (fun p => ((base : Int) + p.1 % 64, p.2))
  let s1 := (List.range 2).foldl (fun s i =>
    let g := base / 32 + i
    if reaches l1 g then s.sealAs g (covers l1 g) acs (reachesBad l1 g) else s) s
  let s2 := l1.foldl (fun s p => s.poke p.1.toNat p.2.1) s1
  let gs := (List.range 2).filter (fun i => reaches l1 (base / 32 + i : Nat))
  let part := gs.any (fun i => !covers l1 (base / 32 + i : Nat))
  match s2.place base with
  | .lpddr => s2.sendReq { block := base / 64, write := true, part := part, cls := acs.cls, np := acs.np, eng := acs.eng, held := acs.held }
  | _ => s2

/-- Write elements of one group to a tile (R277, R510). -/
def State.storeTile (s : State) (ref : Nat) (l : List (Int × List Byte × Bool)) : State :=
  let c := refCore ref
  let j := refTile ref
  let x := s.tile c j
  let rows1 := l.foldl (fun m p =>
    let o := p.1.toNat
    let row : Row := kget {} m (o / 128)
    if p.2.1.length = 0 then m
    else kset {} m (o / 128) { row with
      data := putFld row.data (o % 128 * 8 + p.2.1.length * 8 - 1) (o % 128 * 8) (ofBytes p.2.1) }) x.rows
  let gs := (List.range 128).filter (fun g : Nat => reaches l (g : Int))
  let rows2 := gs.foldl (fun m g =>
    let row : Row := kget {} m (g / 4)
    kset {} m (g / 4) { row with
      poison := putBit row.poison (g % 4) (reachesBad l g || (!covers l g && bit row.poison (g % 4))) }) rows1
  s.setTile c j { x with rows := rows2 }

/-- Write elements of one block to another module (Table LNK-3). -/
def State.remoteElems (s : State) (x pa : Nat) (l : List (Int × List Byte × Bool)) (acs : Acs) : State :=
  let img := l.foldl (fun (m : List Byte) p =>
    let o := (p.1 % 64).toNat
    m.take o ++ p.2.1 ++ m.drop (o + p.2.1.length)) (List.replicate 64 0)
  let en := l.foldl (fun (w : Word) p => w ||| blockEnables (p.1 % 64).toNat p.2.1.length) 0
  let l1 := l.map (fun p => (p.1 % 64, p.2))
  s.request (.seWrite x) 2 (pa / 64 * 64) 2 acs en (cutGranules (fun g => reachesBad l1 g) 0 2 img)

/-- How the written elements of a batch end: the cause that withholds all of them (0 none), or only the poisoned ones. -/
structure WriteEnd where
  all : Nat := 0
  bad : Nat := 0
  commit : Bool := false
  deriving DecidableEq, Repr

/-- Extend the fault runs of a descriptor by element `e` (R278). -/
def addRun (l : List Run) (cause e : Nat) : List Run :=
  match l.getLast? with
  | some r => if r.cause = cause ∧ r.first + r.count = e then l.dropLast ++ [{ r with count := r.count + 1 }]
    else l ++ [⟨cause, e, 1⟩]
  | none => [⟨cause, e, 1⟩]

/-- One element leaves the engine: delivered, withheld or skipped, with its fault run. Where the element fails on both sides, the
destination's cause is recorded (DESIGN CHOICE, log 62). -/
def State.leaveElem (s : State) (x : Nat) (d : DescRun) (el : Elem) (w : WriteEnd) : State × DescRun :=
  let e := d.wr
  let held := decide (el.act ≠ 0) || decide (w.all ≠ 0) || (el.poison && (decide (w.bad ≠ 0) || w.commit))
  let cause := if el.act ≠ 0 then el.cause else if w.all ≠ 0 then w.all
    else if el.poison ∧ w.bad ≠ 0 then w.bad else el.cause
  let d1 : DescRun := { d with wr := e + 1 }
  let d2 : DescRun := if held then d1 else { d1 with delivered := d1.delivered + 1, last := some e }
  if cause = 0 then (s, d2)
  else
    let s1 := if d.runs.isEmpty then s.seEvent x d.seq 0x0401 evPoisoned (cause + e % 2 ^ 56 * 256) else s
    (s1, { d2 with runs := addRun d2.runs cause e })

/-- The batch leaves the buffer. -/
def State.leaveBatch (s : State) (x i : Nat) (d : DescRun) (n : Nat) (w : WriteEnd) : State :=
  let r := (d.buf.take n).foldl (fun (a : State × DescRun) el => a.1.leaveElem x a.2 el w) (s, d)
  let d1 : DescRun := { r.2 with buf := d.buf.drop n }
  let s1 := if d1.wr = d1.total then r.1.leaveDst d1 else r.1
  let d2 : DescRun := if d1.wr = d1.total then { d1 with dstHeld := false } else d1
  let s2 := s1.setRun x i d2
  (if i = 0 then s2.updCtx x (fun k => { k with done := BitVec.ofNat 64 d2.delivered }) else s2).seDone x

/-- The map words of a tile group's later rows are written with it (R262, R284). -/
def State.groupMaps (s : State) (x : Nat) (l : List Elem) : State :=
  l.foldl (fun s e => match e.map with
    | some m => s.putVa x m.1 (toBytes 4 m.2)
    | none => s) s

/-- Perform the write of a batch (R275 to R277). -/
def State.writeBatch (s : State) (x i : Nat) (d : DescRun) (b : Batch) : State :=
  let k := s.ctx x
  match b.put with
  | [] => (s.groupMaps x (d.buf.take b.n)).leaveBatch x i d b.n {}
  | p0 :: _ =>
    if d.dstTile then
      let c := refCore d.dst
      let j := refTile d.dst
      if !s.bankOn c j then s.wakeBank c j
      else
        let s1 := if d.dstHeld then s else s.tileOpen c j tLoading
        ((s1.groupMaps x (d.buf.take b.n)).storeTile d.dst b.put).leaveBatch x i { d with dstHeld := true } b.n {}
    else
      let va := (p0.1 % 2 ^ 64).toNat
      let o : XOwner := .engine (engineOf x)
      let s1 := s.ctxNote x .write va
      match s.xlat o k.part k.pv .write va with
      | .fail _ _ => s1.leaveBatch x i d b.n { all := 4 }
      | .ok leaf _ pa =>
        let acs := s.ctxAcs x leaf
        let a := localOf pa
        if !s.isLocal pa then
          (s1.updCtx x (fun k => { k with farW := b.n })).remoteElems x pa b.put acs
        else if s.isMem a then (s1.storeBlock (a / 64 * 64) b.put acs).leaveBatch x i d b.n {}
        else
          match s.place a with
          | .host off =>
            (b.put.foldl (fun s p =>
              if p.2.2 then s else s.hostStore (off / 64 * 64 + (p.1 % 64).toNat) p.2.1) s1).leaveBatch x i d b.n { bad := 5 }
          | .regs r =>
            if r = 0x500208 ∧ d.commits = true then
              if s.seWrites x then s
              else
                (if p0.2.2 then s1 else s1.commitSlice (BitVec.ofNat 64 (ofBytes p0.2.1))).leaveBatch x i d b.n { commit := true }
            else s1.leaveBatch x i d b.n { all := 8 }
          | _ => s1.leaveBatch x i d b.n { all := 4 }

/-- SE_WRITE_ACCEPTED (R262, R263): the context's next write is accepted at its target, a map word of its own or the next
elements; elements for another module are sent first and accepted with their acknowledgment (R379). -/
def execSeWriteAccepted (x : CtxId) (s : State) : Res :=
  let k := s.ctx x.val
  .next (match writerOf k.runs with
    | none => s
    | some (d, i) =>
      if k.farW ≠ 0 then
        if s.remotes.any (fun p => decide (p.2.kind = .seWrite x.val)) then s
        else (s.updCtx x.val (fun k => { k with farW := 0, farErr := false })).leaveBatch x.val i d k.farW
          { all := if k.farErr then 4 else 0 }
      else if (!s.ctxLive x.val && decide (k.st ≠ .cancelling)) || decide ((s.issued x.val).writes = 0) then s
      else
        match d.mapNext with
        | some m => ((s.putVa x.val m.1 (toBytes 4 m.2)).setRun x.val i d.mapDone).seDone x.val
        | none =>
          let b := s.nextBatch d
          if b.n = 0 then s else s.writeBatch x.val i d b)

/-! ### Cancel (R280, R281) and windows (R328) -/

/-- The elements below which what has been issued of the runs completes. -/
def limitRuns (runs read written : List DescRun) : List DescRun :=
  runs.zipIdx.map (fun r => { r.1 with
    rdLim := some ((read[r.2]?.map (·.rd)).getD r.1.rd), wrLim := some ((written[r.2]?.map (·.wr)).getD r.1.wr) })

/-- CANCEL: the requests already issued complete, and nothing else is issued (R280, log 43). -/
def State.seCancel (s : State) (x : Nat) : State :=
  let k := s.ctx x
  if k.st ≠ .active then s
  else
    let q := s.issued x
    let far := (k.far.filter (fun f => f.answer.isNone)).map (fun _ => none)
    (s.setCtx x { k with
      st := .cancelling, sink := far ++ q.slots.map (·.1), lastBegun := s.lastSeq x, runs := limitRuns k.runs q.runs q.written
      far := [] }).seDone x

/-- SE_CANCEL (R280). -/
def execSeCancel (x : CtxId) (s : State) : Res := .next (s.byReg (s.seCancel x.val))

/-- A window begins or ends to exclude the contexts of class `c` (R328, R330): what they have issued completes. -/
def State.excludeCtxs (s : State) (c : Cls) : State :=
  { s with ctxs := s.ctxs.map (fun q =>
      if q.2.cls = c ∧ q.2.st = .active then
        (q.1, { q.2 with runs := limitRuns q.2.runs (s.issued q.1).runs (s.issued q.1).written })
      else q) }

/-- The contexts of class `c` go on. -/
def State.admitCtxs (s : State) (c : Cls) : State :=
  { s with ctxs := s.ctxs.map (fun q =>
      if q.2.cls = c ∧ q.2.st = .active then
        (q.1, { q.2 with runs := q.2.runs.map (fun d => { d with rdLim := none, wrLim := none }) })
      else q) }

/-! ### Slots of the requests of other units (R59) -/

/-- A request may leave its unit: it needs no slot, has one since its issue, or its engine has one for it beside those of its
contexts (R59). -/
def State.mayLeave (s : State) (r : MemReq) : Bool :=
  decide (36 ≤ r.eng) || r.held || s.slotFits r.eng (s.engineSlots r.eng).1 (some (s.bankOf (r.block * 64)), decide (r.cls = .cad))

/-- POOL_CACHE_LOOKUP (R298): the die's oldest access that has a slot (R59) reaches its slice; with no cache slice it goes to
its group. -/
def execPoolCacheLookup (d : DieId) (s : State) : Res :=
  .next (match (kget [] s.lookupQ d.val).find? s.mayLeave with
    | none => s
    | some r =>
      let s1 : State := { s with lookupQ := kset [] s.lookupQ d.val ((kget [] s.lookupQ d.val).erase r) }
      let n := (s.cacheSlices d.val).length
      if n = 0 then s1.toGroup r else s1.lookupSet (poolKey d.val n r.block) r)

/-! ### Due clocks (R282) -/

/-- The unit under way of a begun descriptor is due. -/
def State.isDue (s : State) (d : DescRun) : Bool :=
  decide (d.fail = 0) && decide (d.outSig < d.units) && d.demand d.outSig && (!d.dstTile || s.tileFree d)

/-- One cycle of a context's engine passes: units count it from the first cycle in which they are due, except STEP units in a window (R282, R283, R331). -/
def State.dueTick (s : State) (x : Nat) : State :=
  let k := s.ctx x
  if k.st ≠ .active ∨ (k.cls = .step ∧ s.stepc.evalOpen = true) then s
  else
    let n := s.begun x
    s.setCtx x { k with runs := k.runs.zipIdx.map (fun r =>
      if r.2 < n ∧ (r.1.dueOn || s.isDue r.1) = true then { r.1 with dueOn := true, dueCnt := r.1.dueCnt + 1 } else r.1) }

/-- The only permitted candidates of engine `e` are held by R56: what has a slot has been issued, and the next read of some context
goes to a bank at which the engine holds 64, though it has a slot for other banks (SE_BANKHOLD, log 43). -/
def State.bankHeld (s : State) (e : Nat) : Bool :=
  let q := s.engineSlots e
  q.2.any (fun i =>
    match ((s.updCtx i.x (fun k => { k with runs := i.runs })).readNext i.x).1 with
    | some (_, l) => !s.slotsFit e q.1 l && s.slotsFit e q.1 (l.map (fun b => (none, b.2)))
    | none => false)

/-- One cycle of an engine: SE_BANKHOLD counts the ones in which R56 holds it. -/
def State.bankTick (s : State) (e : Nat) : State :=
  if s.bankHeld e then s.updEngine e (fun x => { x with bankhold := x.bankhold + 1 }) else s

end Sys2Proof.Machine
end

