-- ==== Sys2Proof/Machine/Links.lean ====
section
/-! DEFINITION. Krymas links (14): frames, replay and credits, the service of remote requests, answers at the requester, and
port states. -/

namespace Sys2Proof.Machine

/-! ### Port states (R382 to R385) -/

/-- Location word of form P (R486). -/
def locP (p vc h : Nat) : Nat := p + vc * 16 + h * 64
/-- An event of a port, in its LCLK domain. -/
def State.portEvent (s : State) (p code cls loc det : Nat) : State := s.raise (.port p) (0x50 + p) code cls loc det
/-- LNK_CNTp_k counts. -/
def State.linkCount (s : State) (p k : Nat) (n : Nat := 1) : State :=
  if n = 0 then s else s.updPort p (fun x => { x with cnt := bump x.cnt k n })

/-- The full credits of the eight buffer halves (Table LNK-4). -/
def fullCredit : KMap Nat := (List.range 8).map (fun k => (k, halfSlots (k / 2)))

/-- The domain of a port is ON (Table PWR-1). -/
def State.portOn (s : State) (p : Nat) : Bool := bit s.power.on (74 + p / 4)

/-- A port changes state: CHG is set and source 0x08 + p follows it (R382). LCLK runs while the port is trained and its domain
ON (R32). -/
def State.portTo (s : State) (p : Nat) (st : PortState) (reason : Nat) : State :=
  let x := s.port p
  if x.st = st then s
  else
    let up := s.portOn p && (decide (st = .up) || decide (st = .degraded))
    let off := if up then s.clkOff.filter (fun c => decide (c ≠ 0x50 + p)) else insertNat s.clkOff (0x50 + p)
    ({ s.setPort p { x with st := st, reason := reason, chg := true } with clkOff := off } : State).hubLine (0x08 + p) true

/-- What an answer means to a Stream Engine read. -/
def State.engineAnswer (s : State) (x addr : Nat) (a : Answer) : State :=
  s.updCtx x (fun k => { k with far := k.far.map (fun f =>
    if f.addr = addr ∧ f.answer.isNone = true then { f with answer := some a } else f) })

/-- The granules of a line under fill arrive (R507); an error delivers all of them poisoned. -/
def State.fillAnswer (s : State) (c : Nat) (data : Bool) (e : Nat) (a : Answer) : State :=
  let x := s.centry c data e
  if !x.inflight then s
  else s.setCentry c data e { x with remote := some ((List.range 8).map (fun i =>
    ((a.1.drop (32 * i)).take 32, a.bad (32 * i)))) }

/-- An outstanding request ends: its answer goes to its requester (R381, Table LNK-5). `err` is the code of an ERRRSP, 0
for data or an acknowledgment. -/
def State.answer (s : State) (xid err : Nat) (bytes : List Byte) (poison : List Bool) : State :=
  let r := kget {} s.remotes xid
  let s1 : State := { s with remotes := kerase s.remotes xid }
  let a : Answer := (bytes, poison, if err = 0 then 0 else 3)
  let lost (s : State) : State := if err = 0 then s else s.raiseHub 0x0707 evPoisoned r.addr err
  match r.kind with
  | .none => s
  | .load t => s1.threadAnswer t false xid (r.addr / 64 * 64) a
  | .fill c data e => s1.fillAnswer c data e a
  | .store _ => lost s1
  | .wback _ => lost s1
  | .seRead x => s1.engineAnswer x (r.addr / 64 * 64) a
  | .seMap x => s1.seDone x
  | .pelRead t => s1.pelAnswer t (r.addr / 64 * 64) a
  | .pelWrite _ => s1
  | .seWrite x =>
    let s2 := if err ≠ 0 ∧ (s1.ctx x).farW ≠ 0 then s1.updCtx x (fun k => { k with farErr := true }) else s1
    s2.seDone x

/-- Requests of this module among messages: their tags (R385). -/
def ownRequests (id : BitVec 10) (l : List LinkMsg) : List Nat :=
  (l.filter (fun m => decide (m.sid = id) && (decide (m.op = 1) || decide (m.op = 2)))).map (fun m => m.xid.toNat)

/-- Entry to DOWN (R385): the event, the answers to waiting requests, and what is discarded and counted; the module's own
Peloton messages are lost (R381). The link layer starts afresh (log 46). -/
def State.portDown (s : State) (p reason : Nat) : State :=
  let x := s.port p
  if x.st = .down ∨ x.st = .disabled then s
  else
    let all := x.queue.flatMap (·.2)
    let half := x.queue.map (fun q => match q.2 with
      | m :: _ => if m.sid ≠ s.lnkId then kget 0 x.part q.1 else 0
      | [] => 0)
    let own := ownRequests s.lnkId all
    let gone := all.filter (fun m => decide (m.sid ≠ s.lnkId))
    let keep := x.queue.map (fun q => (q.1, q.2.filter (fun m =>
      decide (m.sid = s.lnkId) && (decide (m.op = 3) || decide (m.op = 4) || decide (m.op = 5)))))
    let y : Port := { x with
      queue := keep.filter (fun q => !q.2.isEmpty), part := [], replay := [], txSeq := 0, rxSeq := 0xFFF#12
      credit := fullCredit, crSeen := [], crFreed := [], crNext := 0, stalled := [] }
    let s1 := ((s.setPort p y).portTo p .down reason).portEvent p 0x0701 evFatal (locP p 0 0) reason
    let s2 := (s1.pulse 4).linkCount p 4 ((gone.map LinkMsgSlots).sum - half.sum)
    own.foldl (fun s i => s.answer i 4 [] []) s2

/-- Width at which port `p` runs: with the cadence port on its lanes 4 to 7, port 7 is ×4 on lanes 0 to 3 (R27). -/
def runWidth (cad : Bool) (p width : Nat) : Nat := if cad && decide (p = 7) then 1 else width

/-- TRAINING_DONE (R382, R384): UP at the configured width with the expected partner, else DOWN with reason PEER. -/
def execTrainingDone (p : PortId) (peer : BitVec 10) (width : Fin 3) (s : State) : Res :=
  let x := s.port p.val
  .next (if x.st ≠ .training ∨ s.portOn p.val = false then s
    else
      let s1 := s.setPort p.val { x with peerId := peer.toNat, widthNow := width.val, lanef := 0 }
      if peer.toNat ≠ x.peer ∨ width.val ≠ runWidth s.cad.enabled p.val x.width then
        (s1.portEvent p.val 0x0703 evConfig (locP p.val 0 0) (peer.toNat + width.val * 2 ^ 12)).portDown p.val 4
      else (s1.portTo p.val .up x.reason).drainPort p.val)

/-- TRAINING_TIMEOUT (R382): DOWN with reason TRAIN. -/
def execTrainingTimeout (p : PortId) (s : State) : Res :=
  .next (if (s.port p.val).st = .training && s.portOn p.val then s.portDown p.val 2 else s)

/-- LNK_CTLp.DOWN (R385): DOWN with reason HOST. -/
def execLnkCtlDown (p : PortId) (s : State) : Res := .next (s.byReg (s.portDown p.val 5))

/-- LNK_CTLp.RETRAIN (R382): TRAINING at the configured width; ignored while DISABLED. -/
def State.portRetrain (s : State) (p : Nat) : State :=
  let x := s.port p
  if x.st = .disabled then s else (s.setPort p { x with widthNow := runWidth s.cad.enabled p x.width }).portTo p .training x.reason

/-- LNK_CTL_RETRAIN (R382). -/
def execLnkCtlRetrain (p : PortId) (s : State) : Res := .next (s.byReg (s.portRetrain p.val))

/-- A write of LNK_CTLp: DOWN wins over RETRAIN. -/
def State.lnkCtl (s : State) (p : Nat) (v : Word) : State :=
  if bit v 1 then s.portDown p 5 else if bit v 0 then s.portRetrain p else s

/-- Lanes in use at a width (R365). -/
def lanesOf (width : Nat) : BitVec 8 := if width = 0 then 0xFF#8 else if width = 1 then 0x0F#8 else 0xF0#8

/-- LANE_LOSS_OF_LOCK (R383): a ×8 port that may degrade goes on at ×4 on the half without a failed lane; else DOWN with
reason LOCK. -/
def execLaneLossOfLock (p : PortId) (lanes : BitVec 8) (s : State) : Res :=
  let x := s.port p.val
  let hit := lanes &&& lanesOf x.widthNow
  let s1 := s.setPort p.val { x with lanef := x.lanef ||| hit }
  .next (if !x.live || !s.portOn p.val || decide (hit = 0) then s
    else
      let bad := x.lanef ||| hit
      let w := if bad &&& 0x0F#8 = 0 then 1 else 2
      if x.widthNow = 0 ∧ x.degrade = true ∧ (bad &&& 0x0F#8 = 0 ∨ bad &&& 0xF0#8 = 0) then
        ((s1.updPort p.val (fun y => { y with widthNow := w })).portTo p.val .degraded x.reason).portEvent p.val
          0x0702 evCorrected (locP p.val 0 0) bad.toNat
      else s1.portDown p.val 1)

/-! ### Replay (R373, R374) -/

/-- Replay every unacknowledged flit, oldest first; when one has been replayed 8 times, the port goes DOWN (R374). -/
def State.replayPort (s : State) (p : Nat) : State :=
  let x := s.port p
  if x.replay.isEmpty then s
  else
    let l := x.replay.map (fun f => { f with tries := f.tries + 1 })
    let s1 := (s.setPort p { x with replay := l }).linkCount p 2 l.length
    let s2 := l.foldl (fun s f => s.frame p f false) s1
    if l.any (fun f => decide (8 ≤ f.tries)) then s2.portDown p 3 else s2

/-- ACK_TIMEOUT (R374). -/
def execAckTimeout (p : PortId) (s : State) : Res :=
  .next (if (s.port p.val).live && s.portOn p.val then s.replayPort p.val else s)

/-- An acknowledgment covers the flits up to its sequence number, when it names one that waits (R373). -/
def Port.acked (x : Port) (ack : BitVec 12) : Port :=
  match x.replay.findIdx? (fun f => decide (f.seq = ack)) with
  | none => x
  | some i => { x with replay := x.replay.drop (i + 1) }

/-- A credit report: the slots freed since the last one (R369). -/
def Port.credited (x : Port) (k : Nat) (crn : BitVec 10) : Port :=
  let d := (crn.toNat + 1024 - kget 0 x.crSeen k % 1024) % 1024
  { x with
    credit := kset 0 x.credit k (min (halfSlots (k / 2)) (kget 0 x.credit k + d))
    crSeen := kset 0 x.crSeen k crn.toNat
    stalled := if d = 0 then x.stalled else x.stalled.filter (fun i => decide (i ≠ k)) }

/-! ### Frames (R368 to R375) -/

/-- Forward a message that is not for this module; without a usable route it is discarded and its slots counted
(R375, R385). -/
def State.forward (s : State) (p h : Nat) (m : LinkMsg) : State :=
  let r := kget {} s.routes m.did.toNat
  if s.reachable m.did.toNat then s.route m h
  else s.linkCount (if r.en then r.port else p) 4 (LinkMsgSlots m)

/-- A sequenced flit that is next in order: it is acknowledged, its slots are freed, and its messages for other modules go
on. Messages for this module arrive as the commands of their names (log 46). -/
def State.acceptFlit (s : State) (p : Nat) (f : Frame) : State :=
  let k := f.vc.val * 2 + b2n f.half
  let n := ((List.range 8).filter (fun i => f.usemap.getLsbD i)).length
  let x := s.port p
  let y : Port := { x with
    rxSeq := f.seq, crFreed := kset 0 x.crFreed k ((kget 0 x.crFreed k + n) % 1024) }
  (f.msgs.filter (fun m => decide (m.did ≠ s.lnkId))).foldl (fun s m => s.forward p (b2n f.half) m)
    ((s.setPort p y).frame p ctlFlit false)

/-- Ask for a replay after the last good flit (R373). -/
def State.sendNak (s : State) (p : Nat) : State := s.frame p ctlFlit true

/-- FRAME_RECEIVED (R368 to R375): a bad frame is discarded and a replay asked for; a good one brings its acknowledgment,
credits and, when it is the next in order, its flit; a flit out of order is discarded. -/
def execFrameReceived (p : PortId) (f : Frame) (s : State) : Res :=
  let q := p.val
  .next (if !(s.port q).live || !s.portOn q then s
    else
      let s1 := (s.linkCount q 0 f.corrected).linkCount q 1 f.uncorrectable
      if !f.crcGood || decide (f.uncorrectable ≠ 0) then s1.sendNak q
      else
        let s2 := s1.updPort q (fun x => (x.acked f.ack).credited (f.crvc.val * 2 + b2n f.crh) f.crn)
        let s3 := if f.nak then s2.replayPort q else s2
        if !(s3.port q).live then s3
        else
          let s4 := if f.usemap = 0 then s3
            else if f.seq = (s3.port q).rxSeq + 1 then s3.acceptFlit q f else s3
          s4.drainPort q)

/-- CREDIT_STALL_EXPIRY (R377): one event while a buffer half waits for credits. -/
def execCreditStallExpiry (p : PortId) (vc : Fin 4) (h : Bool) (s : State) : Res :=
  let x := s.port p.val
  let k := vc.val * 2 + b2n h
  .next (if (kget [] x.queue k).isEmpty || x.stalled.contains k || !s.portOn p.val then s
    else (s.setPort p.val { x with stalled := x.stalled ++ [k] }).portEvent p.val 0x0704 evDeadline (locP p.val vc.val (b2n h)) 0)

/-! ### Remote access at the target (R378) -/

/-- A header field lies outside Table LNK-3. -/
def badHeader (m : LinkMsg) : Bool :=
  let n := m.nslot.toNat
  decide (n % 2 ≠ 0) || decide (8 < n) || decide (m.addr.toNat % 64 ≠ 0) || decide (m.addr.toNat % 256 + 32 * n > 256)
    || (decide (m.op = 2) && decide (m.data.length ≠ n))

/-- The blocks of a request lie in LPDDR6, a near store or pool scratch, populated or not (R378 point 1, Table MEM-1). -/
def memSpace (a : Nat) : Bool :=
  decide (a < 0x18000000000) || (decide (0x20000000000 ≤ a) && decide (a < 0x20090000000))
    || (decide (0x21000000000 ≤ a) && decide (a < 0x21020000000))

/-- An export window permits the access (R378 point 2). -/
def State.exported (s : State) (sid : Nat) (write : Bool) (a n : Nat) : Bool :=
  s.exports.any (fun e => e.2.en && (if write then e.2.w else e.2.r) && (e.2.any || decide (e.2.sid = sid))
    && decide (e.2.base ≤ a) && decide (a + n ≤ e.2.limit))

/-- The code of the first failed check, 0 when all pass (R378, Table LNK-6). -/
def State.remoteCheck (s : State) (m : LinkMsg) (write : Bool) : Nat :=
  let a := m.addr.toNat
  let n := max 1 (32 * m.nslot.toNat)
  if badHeader m then 6
  else if !memSpace a then 2
  else if !s.exported m.sid.toNat write a n then 2
  else if (blocks a n).all (fun b => s.isMem (b * 64)) then 0
  else 1

/-- An answer of this module to a request; one whose requester has no route is dropped (R375, log 58). -/
def State.respond (s : State) (m : LinkMsg) (op nslot : Nat) (arg : Word) (data : List Granule) : State :=
  let r : LinkMsg := {
    did := m.sid, sid := s.lnkId, op := BitVec.ofNat 4 op, nslot := BitVec.ofNat 4 nslot, cls := 0, xid := m.xid, addr := m.addr
    ctag := 0, arg := arg, data := data }
  if (kget ({} : Route) s.routes m.sid.toNat).en || decide (m.sid = s.lnkId) then s.route r 0 else s

/-- An ERRRSP, with LNK_DENIED when no window permits the access (R378). -/
def State.refuseRemote (s : State) (p : Nat) (m : LinkMsg) (code : Nat) : State :=
  let s1 := if code = 2 ∧ memSpace m.addr.toNat = true then s.portEvent p 0x0706 evSecurity m.addr.toNat m.sid.toNat else s
  s1.respond m 5 0 (BitVec.ofNat 64 code) []

/-- RD (R378): checked, then the granules with their poison marks. -/
def execLnkRd (p : PortId) (m : LinkMsg) (s : State) : Res :=
  let code := s.remoteCheck m false
  let a := m.addr.toNat
  .next (if m.did ≠ s.lnkId then s
    else if code ≠ 0 then s.refuseRemote p.val m code
    else
      let data := (List.range m.nslot.toNat).map (fun i =>
        ({ bytes := s.bytes (a + 32 * i) 32, poison := s.bad (a / 32 + i) m.ctag } : Granule))
      (s.touch a (32 * m.nslot.toNat) { cls := Cls.ofCode m.cls.toNat, tag := m.ctag, eng := 32 + p.val / 2 }).respond m 3 m.nslot.toNat 0 data)

/-- The bytes of a block write that are enabled, written granule by granule (Table LNK-3, R316). -/
def State.writeEnabled (s : State) (a : Nat) (en : Word) (data : List Granule) (x : Acs) : State :=
  let bs := data.flatMap (·.bytes)
  let s1 := (List.range 2).foldl (fun s i =>
    let m := fld en (32 * i + 31) (32 * i)
    if m = 0 then s
    else s.sealAs (a / 32 + i) (decide (m = 2 ^ 32 - 1)) x ((data[i]?.map (·.poison)).getD false)) s
  let s2 := (List.range 64).foldl (fun s j => if bit en j then s.poke (a + j) [bs.getD j 0] else s) s1
  match s2.place a with
  | .lpddr => s2.send a 64 true x
  | _ => s2

/-- WR (R378): checked, written as a local access, poisoned slots with P = 1, and acknowledged. -/
def execLnkWr (p : PortId) (m : LinkMsg) (s : State) : Res :=
  let code := s.remoteCheck m true
  let a := m.addr.toNat
  let x : Acs := { cls := Cls.ofCode m.cls.toNat, tag := m.ctag, eng := 32 + p.val / 2 }
  .next (if m.did ≠ s.lnkId then s
    else if code ≠ 0 then s.refuseRemote p.val m code
    else
      let s1 := if m.nslot = 2 then s.writeEnabled a m.arg m.data x
        else s.store a (m.data.flatMap (·.bytes)) x (fun g => (m.data[g - a / 32]?.map (·.poison)).getD false)
      s1.respond m 4 0 0 [])

/-! ### Answers at the requester (R379 to R381) -/

/-- A response to nothing outstanding is discarded and counted at the port of its sender's route (R380). -/
def State.lateResponse (s : State) (m : LinkMsg) : State := s.linkCount (kget ({} : Route) s.routes m.sid.toNat).port 3

/-- A response arrives: its request ends. -/
def State.response (s : State) (m : LinkMsg) (err : Nat) : State :=
  if m.did ≠ s.lnkId then s
  else if (kget {} s.remotes m.xid.toNat).kind = .none then s.lateResponse m
  else s.answer m.xid.toNat err (m.data.flatMap (·.bytes)) (m.data.map (·.poison))

/-- RDRSP (R381). -/
def execRdrsp (m : LinkMsg) (s : State) : Res := .next (s.response m 0)
/-- WRACK (R379). -/
def execWrack (m : LinkMsg) (s : State) : Res := .next (s.response m 0)
/-- ERRRSP (R381, Table LNK-6). -/
def execErrrsp (m : LinkMsg) (s : State) : Res := .next (s.response m (max 1 (fld m.arg 7 0)))

/-- The ERRRSPs UNREACH and PORTDOWN of requests that left no message reach their requesters (R375, R385). -/
def State.localAnswers (s : State) : State :=
  s.remotes.foldl (fun s q => if q.2.err = 0 then s else s.answer q.1 q.2.err [] []) s

/-- LOCAL_TIMEOUT (R380): a local ERRRSP TIMEOUT, the event and the count. -/
def execLocalTimeout (xid : BitVec 32) (s : State) : Res :=
  let r := kget {} s.remotes xid.toNat
  .next (if r.kind = .none ∨ r.err ≠ 0 then s
    else
      ((s.raiseHub 0x0705 evDeadline r.addr (devOf r.addr)).linkCount (kget ({} : Route) s.routes (devOf r.addr)).port 5).answer
        xid.toNat 5 [] [])

end Sys2Proof.Machine
end

