-- ==== Sys2Proof/Machine/Gear.lean ====
section
/-! DEFINITION. What applying a gearing image does (R419): power domains, memory layout, cores, engines, links, trees, the
cadence port, interrupt routing and protection; and the allotments that MEM_READY brings (R475). -/

namespace Sys2Proof.Machine

/-! ### Clocks (R31, R32) -/

/-- The clock of a domain runs: its power domain is ON, REF25 is there where its PLL needs it, and its own source has
lock. -/
def State.runs (s : State) (id : Nat) : Bool :=
  if id < 4 then s.ref25 && bit s.power.on (id * 18 + 16)
  else if id < 0x14 then s.ref25 && bit s.power.on ((id - 0x10) * 18 + 16)
  else if id < 0x30 then s.ref25 && bit s.power.on ((id - 0x20) / 4 * 18 + 12 + (id - 0x20) % 4)
  else if id = 0x40 then s.ref25 && bit s.power.on 78
  else if id < 0x58 then bit s.power.on (74 + (id - 0x50) / 4) && (s.port (id - 0x50)).live
  else if id = 0x60 then bit s.power.on 73
  else if id = 0x70 then bit s.power.on 77 && (s.cad.pll || decide (s.cad.gl = .holdover))
  else if id = 0x80 then bit s.power.on 72
  else s.ref25 && bit s.power.on 72

/-- The stopped clocks follow power, lock and REF25. -/
def State.reclock (s : State) : State :=
  { s with clkOff := (([0, 1, 2, 3, 0x10, 0x11, 0x12, 0x13] ++ (List.range 16).map (0x20 + ·) ++ [0x40]
      ++ (List.range 8).map (0x50 + ·) ++ [0x60, 0x70, 0x80, 0x90]).filter (fun id => !s.runs id)) }

/-! ### Memory that is filled or lost (R289, R296, R300, R465) -/

/-- Bytes `[a, a + n)` hold zeros with a valid code and tag 0: filled, or lost. -/
def State.zeroFill (s : State) (a n : Nat) : State :=
  { s with
    mem := s.mem.filter (fun p => decide (p.1 < a) || decide (a + n ≤ p.1))
    gran := s.gran.filter (fun p => decide (p.1 < a / 32) || decide ((a + n) / 32 ≤ p.1)) }

/-- Base address of a core's near store and of a pool slice (Table MEM-1). -/
def nearBase (c : Nat) : Nat := 0x20000000000 + c * 0x800000
def sliceBase (d sl : Nat) : Nat := 0x21000000000 + d * 0x8000000 + sl * 0x800000

/-- The pool-cache lines of a die leave; dirty ones are written back first (R300), as BULK requests that hold no engine's slot
(DESIGN CHOICE, log 62). -/
def State.flushPool (s : State) (d : Nat) : State :=
  let mine (p : Nat × List PLine) : Bool := decide (p.1 / (16 * 8192) = d)
  let out := (s.poolLines.filter mine).flatMap (fun p => p.2.filter (·.dirty))
  let s1 : State := { s with poolLines := s.poolLines.filter (fun p => !mine p) }
  out.foldl (fun s v => s.toGroup { block := v.block, write := true, cls := .bulk, np := false }) s1

/-! ### Power domains (R465, R466) -/

/-- The tiles and accumulators of a core take the values of R180. DESIGN CHOICE (log 60): the accumulators' words become 0,
and array operations and tile moves under way are dropped; the spec names neither. -/
def Core.freshTiles (k : Core) : Core := { k with tiles := [], accs := [], arrays := [], moves := [] }

/-- The tiles and accumulators of a core lose their rows, and keep their attributes and owners, which registers show. -/
def Core.emptyTiles (k : Core) : Core :=
  { k with
    tiles := k.tiles.foldl (fun m p => kset {} m p.1 { p.2 with rows := [] }) []
    accs := k.accs.foldl (fun m p => kset {} m p.1 { p.2 with rows := [] }) []
    arrays := [], moves := [] }

/-- A core group changes state: its near stores hold nothing, then zeros; its caches hold nothing, and keep their LFSRs
(R70); its tiles hold nothing, and are fresh when it turns ON. -/
def State.flipCore (s : State) (c : Nat) (on : Bool) : State :=
  (s.zeroFill (nearBase c) 0x800000).updCore c (fun k =>
    { (if on then k.freshTiles else k.emptyTiles) with
      icache := { lfsr := k.icache.lfsr }, dcache := { lfsr := k.dcache.lfsr }, imiss := [], dmiss := [] })

/-- The domains take new states. A die that turns ON starts at 3,300 MHz. -/
def State.setPower (s : State) (on : BitVec 80) : State :=
  let old := s.power.on
  let s1 : State := { s with power := { s.power with on := on } }
  let s2 := (List.range 288).foldl (fun s c =>
    let d := c / 72 * 18 + c % 72 / 9
    if bit old d = bit on d then s else s.flipCore c (bit on d)) s1
  let s3 := (List.range 64).foldl (fun s k =>
    let d := k / 16 * 18 + 8 + k % 16 / 4
    if bit old d = bit on d then s else (s.flushPool (k / 16)).zeroFill (sliceBase (k / 16) (k % 16)) 0x800000) s2
  let s4 := (List.range 4).foldl (fun (s : State) d =>
    if !bit old (d * 18 + 16) && bit on (d * 18 + 16) then
      { s with power := { s.power with
          ptgt := kset 3300 s.power.ptgt d 3300, ttgt := kset 3300 s.power.ttgt d 3300, cclk := kset 0 s.power.cclk d 3300 } }
    else s) s3
  s4.reclock

/-- The domains that the image sets ON. -/
def imgDomains (i : Image) : BitVec 80 := (List.range 80).foldl (fun m d => putBit m d (imgOn i d)) 0

/-! ### Sections -/

/-- PART. Cached translations change with a new image (R305). -/
def State.applyPart (s : State) (i : Image) : State :=
  { s with
    parts := (List.range 4).foldl (fun m p => kset {} m p
      { en := imgPartEn i p, root := fld (secWord i 1 (p * 0x100 + 8)) 47 13 * 2 ^ 13, ranges := imgRanges i p }) s.parts
    cores := (List.range 288).foldl (fun m c => kset {} m c { kget {} m c with xlat := [] }) s.cores
    engines := (List.range 36).foldl (fun m e => kset {} m e { kget {} m e with xlat := [] }) s.engines
    pelXlat := [] }

/-- A region of the MEM section. -/
def imgRegion (i : Image) (r : Nat) : Region :=
  let w := secWord i 3 (0x10 + r * 8)
  { en := bit w 0, mode := bit w 2, igc := fld w 5 3, base := fld w 28 16 * (384 * 2 ^ 20), size := fld w 44 32 * (384 * 2 ^ 20) }

/-- A bucket of the MEM section; its level stays, up to the new depth. -/
def imgBkt (i : Image) (g c : Nat) (old : Bucket) : Bucket :=
  let w := secWord i 3 (bktAt g c)
  { level := min old.level (fld w 31 20 * 256), depth := fld w 31 20, borrow := bit w 19, rate := fld w 10 0 }

/-- Pool slices of a die: cache slices that turn into scratch are written back and filled, scratch slices that turn into
cache lose their contents (R300). -/
def State.applyPool (s : State) (i : Image) (d : Nat) : State :=
  let old := kget 0 s.poolCfg d
  let new := BitVec.ofNat 16 (fld (secWord i 3 (0x30 + d * 8)) 15 0)
  if old = new then s
  else
    let s1 := (List.range 16).foldl (fun s sl => if bit old sl = bit new sl then s else s.zeroFill (sliceBase d sl) 0x800000)
      (s.flushPool d)
    { s1 with poolCfg := kset 0 s1.poolCfg d new }

/-- The pool caches hold nothing of the blocks in `[a, a + n)`. -/
def State.dropLines (s : State) (a n : Nat) : State :=
  s.poolLines.foldl (fun s p => s.setLines p.1 (p.2.filter (fun l => decide (l.block * 64 < a) || decide (a + n ≤ l.block * 64)))) s

/-- MEM: regions are refilled where they change (R296), with nothing left of them in the pool caches; a changed rate, or channels that have not trained, begin training,
and MEM_READY clears (R419). -/
def State.applyMem (s : State) (i : Image) : State :=
  let rate := fld (secWord i 3 0) 1 0
  let s1 := (List.range 4).foldl (fun s r =>
    let x := imgRegion i r
    let o := kget {} s.regions r
    if o = x then s
    else
      let s1 := if o.en then s.dropLines o.base o.size else s
      let s2 := if x.en then (s1.zeroFill x.base x.size).dropLines x.base x.size else s1
      { s2 with regions := kset {} s2.regions r x }) s
  let s2 := (List.range 4).foldl (fun s d => s.applyPool i d) s1
  let s3 : State := { s2 with
    memRate := rate
    bkts := (List.range 64).foldl (fun m k => kset {} m k (imgBkt i (k / 4) (k % 4) (kget {} m k))) s2.bkts }
  if s.memRate ≠ rate ∨ s.power.trained = false then
    { s3 with
      power := { s3.power with training := true, trained := false }
      gear := { s3.gear with memReady := false } }
  else s3

/-- CORE and the core part of BELL, allotments apart. -/
def State.applyCore (s : State) (i : Image) (c : Nat) : State :=
  s.updCore c (fun k => { k with
    floors := BitVec.ofNat 18 (fld (secWord i 2 (c * 0x40 + 8)) 17 0)
    masks := (List.range 4).foldl (fun m n => kset 0 m n (BitVec.ofNat 48 (fld (secWord i 2 (c * 0x40 + 0x10 + n * 8)) 47 0))) k.masks
    gate := bit (secWord i 2 (c * 0x40 + 0x30)) 1
    latch := bit (secWord i 2 (c * 0x40 + 0x30)) 0
    bell := { k.bell with
      ithr := imgIthr i c
      pri := (List.range 64).foldl (fun m n => kset 0 m n (imgPri i c n)) k.bell.pri } })

/-- SE, contexts apart. -/
def State.applyEngine (s : State) (i : Image) (e : Nat) : State :=
  s.updEngine e (fun x => { x with
    rsvCad := fld (secWord i 4 (e * 16)) 41 32, fwTotal := fld (secWord i 4 (e * 16)) 9 0
    floors := BitVec.ofNat 18 (fld (secWord i 4 (e * 16 + 8)) 17 0) })

/-- LNK_CFGp: a port whose word changes enters TRAINING, or DISABLED (R382, R419); so does port 7 when the cadence port moves
it to other lanes (R27). -/
def State.applyPort (s : State) (i : Image) (p : Nat) : State :=
  let w := secWord i 5 (8 + p * 8)
  let x := s.port p
  let width := runWidth (imgCadEn i) p (fld w 2 1)
  if x.en = bit w 0 ∧ x.width = fld w 2 1 ∧ x.degrade = bit w 3 ∧ x.peer = fld w 25 16
      ∧ runWidth (s.gear.image.any imgCadEn) p x.width = width then s
  else
    let y : Port := { x with en := bit w 0, width := fld w 2 1, degrade := bit w 3, peer := fld w 25 16, widthNow := width }
    if bit w 0 then
      let z : Port := if x.en then y else { y with
        credit := fullCredit, crSeen := [], crFreed := [], crNext := 0, queue := [], part := [], replay := [], txSeq := 0
        rxSeq := 0xFFF#12, stalled := [] }
      (s.setPort p z).portTo p .training x.reason
    else (s.setPort p { y with queue := [], part := [], replay := [] }).portTo p .disabled x.reason

/-- LINK. -/
def State.applyLink (s : State) (i : Image) : State :=
  let g := secWord i 5 0
  let s1 : State := { s with
    lnkTmo := BitVec.ofNat 32 (fld g 63 32), lnkStall := BitVec.ofNat 16 (fld g 31 16), lnkId := BitVec.ofNat 10 (fld g 9 0)
    routes := (List.range 1024).foldl (fun m d =>
      let w := secWord i 5 (0x200 + d * 8)
      kset {} m d { en := bit w 4, port := fld w 2 0, hset := fld w 7 6 }) s.routes
    exports := (List.range 16).foldl (fun m k =>
      let w := secWord i 5 (0x80 + k * 16)
      kset {} m k
        { en := bit w 63, w := bit w 62, r := bit w 61, any := bit w 60, base := fld w 47 16 * 2 ^ 16
          limit := fld (secWord i 5 (0x88 + k * 16)) 47 16 * 2 ^ 16, sid := fld w 9 0 }) s.exports }
  (List.range 8).foldl (fun s p => s.applyPort i p) s1

/-- The rank-map entry of rank `r` of tree `t`. -/
def imgRank (i : Image) (t r : Nat) : Nat :=
  let k := t * 1024 + r
  let w := secWord i 5 (0x2200 + k / 2 * 8)
  if k % 2 = 0 then fld w 31 0 else fld w 63 32

/-- Die of the rank-map entry times 1, its device times 4. -/
def rankHome (w : Nat) : Nat := w % 1024 * 4 + w / 1024 % 4

/-- Ranks of this module's dies in tree `t`, plus 1 (PEL_RANKt): from the rank map, and die r has rank r in a tree inside
the module. -/
def imgRanks (i : Image) (t : Nat) (id : Nat) : KMap Nat :=
  if bit (secWord i 6 (t * 0x20)) 1 then (List.range 4).map (fun d => (d, d + 1))
  else
    (List.range 1024).foldl (fun m r =>
      let w := imgRank i t r
      if w / 2 ^ 15 % 2 = 1 ∧ w % 1024 = id then kset 0 m (w / 1024 % 4) (r + 1) else m) []

/-- PEL: a tree whose words change starts afresh; its counters and the registers that software writes stay. -/
def State.applyTree (s : State) (i : Image) (t : Nat) : State :=
  let w := secWord i 6 (t * 0x20)
  let d1 := secWord i 6 (t * 0x20 + 8)
  let d2 := secWord i 6 (t * 0x20 + 16)
  let x := s.tree t
  let y : Tree := { x with
    en := bit w 0, intra := bit w 1, eng := fld w 4 2, part := fld w 9 8, n := fld w 42 32, stg := fld w 63 48
    ranks := if bit w 0 then imgRanks i t s.lnkId.toNat else []
    rankMap := if bit w 0 then (List.range 1024).foldl (fun m r => kset 0 m r (rankHome (imgRank i t r))) x.rankMap else []
    dlExp := BitVec.ofNat 32 (fld d1 31 0), dlData := BitVec.ofNat 32 (fld d1 63 32)
    dlRes := BitVec.ofNat 32 (fld d2 31 0), dlChk := BitVec.ofNat 32 (fld d2 63 32) }
  let same := decide (x.en = y.en) && decide (x.intra = y.intra) && decide (x.eng = y.eng) && decide (x.part = y.part)
    && decide (x.n = y.n) && decide (x.stg = y.stg) && decide (x.ranks = y.ranks) && decide (x.rankMap = y.rankMap)
  s.setTree t (if same then y else { y with nodes := [], applied := [], checks := [], early := [] })

/-- CAD: pools take their words, and keep BUSY and NEXT, which are no gear fields (R407, R419); a change of CAD_CFG, CAD_RASTER or a channel puts the port into ACQUIRE (R419), where the
raster of the previous state goes on until the lock (Table CAD-2). -/
def State.applyCad (s : State) (i : Image) : State :=
  let k := s.cad
  let cfg := secWord i 7 0
  let raster := secWord i 7 8
  let chans := (List.range 4).foldl (fun m c => kset {} m c (imgChan i c)) k.chans
  let pools := (List.range 16).foldl (fun m p =>
    let o := kget {} m p
    kset {} m p { imgPool i p with busy := o.busy, next := o.next }) k.pools
  if k.cfg = cfg ∧ k.raster = raster ∧ k.chans = chans then s.setCad { k with pools := pools }
  else
    let on := bit cfg 63
    let was := k.enabled
    let k1 : Cad := { k with
      cfg := cfg, raster := raster, chans := chans, pools := pools, slices := [], missed := [], edge := none
      rlpend := false, relock := k.relock && was && on, link := k.link && on
      lanesTrain := on && (k.lanesTrain || !was)
      held := if k.relock && was && on then some k.predicted else none
      pll := k.pll && was && on && decide (fld k.cfg 62 60 = fld cfg 62 60) }
    (s.setCad k1).genlock (if on then .acquire else .off)

/-- The hub part of BELL. -/
def State.applyBell (s : State) (i : Image) : State :=
  { s with hub := { s.hub with
      srcs := (List.range 256).foldl (fun m n =>
        let w := secWord i 8 (0x2540 + n * 8)
        kset {} m n { kget {} m n with dtype := fld w 31 30, tgt := fld w 29 16, pri := fld w 3 0 }) s.hub.srcs
      filters := (List.range 4).foldl (fun m k =>
        let w := secWord i 8 (0x2D40 + k * 8)
        kset {} m k { kget {} m k with n := fld w 15 8, pol := bit w 1 }) s.hub.filters
      div := (List.range 2).foldl (fun m k => kset 0 m k (fld (secWord i 8 (0x2D40 + k * 16)) 18 16)) s.hub.div
      outMap := BitVec.ofNat 16 (fld (secWord i 8 0x2D60) 15 0) } }

/-- PROT: kept when the image has none (Table GEAR-2); `closed` takes DBG as 0 (R422). -/
def State.applyProt (s : State) (i : Image) (closed : Bool) : State :=
  if !imgHas i 10 then s
  else { s with
    prots := (List.range 32).foldl (fun m k => kset {} m k (imgProt i k)) s.prots
    gear := { s.gear with dbg := if closed then 0 else fld (secWord i 10 0x10) 1 0 } }

/-! ### Allotments (R42, R45, R180, R255, R475) -/

/-- Pass tags of a core's threads, by index (R42). -/
def passList (n : List Nat) : List Pass :=
  List.replicate (n.getD 0 0) .sys ++ List.replicate (n.getD 1 0) .cad ++ List.replicate (n.getD 2 0) .fwd
    ++ List.replicate (n.getD 3 0) .bwd ++ List.replicate (n.getD 4 0) .upd ++ List.replicate (n.getD 5 0) .eval

/-- The thread keeps its allotment. -/
def sameAllot (th : Thread) (p : Option Pass) (samePart : Bool) : Bool :=
  match p with
  | none => decide (th.st = .unallotted)
  | some x => decide (th.st ≠ .unallotted) && decide (th.pass = x) && samePart

/-- A thread that takes an allotment: HALTED with the values of R45 and R83, or UNALLOTTED. -/
def allotted : Option Pass → Thread
  | none => {}
  | some x => { st := .halted, pass := x }

/-- A core's threads take pass tags and partition; where one changes, the tiles are fresh (R180). -/
def State.allotCore (s : State) (c : Nat) (counts : List Nat) (part : Nat) : State :=
  let l := passList counts
  let same := decide ((s.core c).part = part)
  let ids := (List.range 16).filter (fun k => !sameAllot (s.thr (c * 16 + k)) l[k]? same)
  let s1 := ids.foldl (fun s k => s.setThr (c * 16 + k) (allotted l[k]?)) s
  s1.updCore c (fun k =>
    let k1 : Core := { k with part := part, counts := counts }
    if ids.isEmpty then k1 else k1.freshTiles)

/-- A context takes its allotment; one that an image leaves as it is keeps its state. -/
def State.allotCtx (s : State) (x : Nat) (w : Word) : State :=
  let k := s.ctx x
  if !bit w 0 then s.setCtx x {}
  else if k.st ≠ .unallotted ∧ k.cls = Cls.ofCode (fld w 2 1) ∧ k.part = fld w 4 3 ∧ k.priv = bit w 5 ∧ k.fwb = fld w 15 6 then s
  else s.setCtx x { st := .idle, cls := Cls.ofCode (fld w 2 1), part := fld w 4 3, priv := bit w 5, fwb := fld w 15 6 }

/-- The allotments of the CORE, SE and PEL sections are written. -/
def State.allot (s : State) (i : Image) : State :=
  let s1 := (List.range 288).foldl (fun s c => s.allotCore c (imgCounts i c) (imgCorePart i c)) s
  let s2 := (List.range 10752).foldl (fun s x => s.allotCtx x (secWord i 4 (ctxAt x))) s1
  ((List.range 8).foldl (fun s t => s.applyTree i t) s2).haltPins

/-- Before MEM_READY every thread and context is UNALLOTTED and no tree takes a hand-off (R475). A core whose threads lose their
allotment has fresh tiles (R180). -/
def State.unallot (s : State) : State :=
  let mine (c : Nat) : Bool := s.threads.any (fun q => decide (coreOf q.1 = c) && decide (q.2.st ≠ .unallotted))
  let s1 := (List.range 288).foldl (fun (s : State) c => if mine c then s.updCore c Core.freshTiles else s) s
  ((List.range 8).foldl (fun s t => s.updTree t (fun x => { x with en := false }))
    ({ s1 with threads := [], ctxs := [] } : State)).haltPins

/-- POWER.PLIM of an image. -/
def State.applyPlim (s : State) (i : Image) : State :=
  { s with power := { s.power with plim := fld (secWord i 9 0) 15 0 } }

/-- The sections of power, partitions, memory, cores and engines. -/
def State.applyUnits (s : State) (i : Image) : State :=
  let s1 := (((s.setPower (imgDomains i)).applyPart i).applyMem i).applyPlim i
  (List.range 36).foldl (fun s e => s.applyEngine i e) ((List.range 288).foldl (fun s c => s.applyCore i c) s1)

/-- The other sections: links, cadence port, Bells, and PROT unless it is kept. -/
def State.applyRest (s : State) (i : Image) (closed keep : Bool) : State :=
  let s1 := ((s.applyLink i).applyCad i).applyBell i
  if keep then s1 else s1.applyProt i closed

/-- Every gear field is written (R419). `closed` takes DBG as 0; `keep` leaves PROT as it is. -/
def State.applyImage (s : State) (i : Image) (closed keep : Bool) : State :=
  let s1 := (s.applyUnits i).applyRest i closed keep
  (if s1.gear.memReady then s1.allot i else s1.unallot).reclock

end Sys2Proof.Machine
end

