-- ==== Sys2Proof/Machine/PelMath.lean ====
section
/-! DEFINITION. Peloton's arithmetic (13): exponent bytes, E4M3 partials, gradients, update rules and state formats. -/

namespace Sys2Proof.Machine

abbrev F32 := BitVec 32

/-- Smallest k with 2^k at least n. -/
def clog2 (n : Nat) : Nat := if n ≤ 1 then 0 else Nat.log2 (n - 1) + 1

/-! ### Scale agreement (R344) -/

/-- floor(log2 |x|) of a non-zero number. -/
def fvLog (m : Nat) (e : Int) : Int := Nat.log2 m + e

/-- A leaf's exponent byte (R344). -/
def expByte (x : List F32) : Byte :=
  let vs := x.map val32
  if vs.any (fun v => v.isNaN || v.isInf) then 0xFF#8
  else if vs.all FV.isZero then 0
  else
    let top : Int := vs.foldl (fun a v => match v with
      | .fin _ m e => if m = 0 then a else max a (fvLog m e)
      | _ => a) (-1000)
    BitVec.ofInt 8 (max (-126) (min 127 top) + 127)

/-- sb of a live block (R344). -/
def scaleByte (emax : Byte) (n : Nat) : Nat := (max 0 (min 254 ((emax.toNat : Int) + clog2 n - 8))).toNat

/-- A block with these agreed bytes is live. -/
def liveByte (b : Byte) : Bool := decide (b ≠ 0) && decide (b ≠ 0xFF)

/-! ### Partials (R345, R346) -/

/-- The E4M3 code of a value in units, and whether it saturates (R345). -/
def e4m3 : FV → Nat × Bool
  | .fin neg m e =>
    let c := (quant 3 7 .rne m e).1
    ((if neg then 128 else 0) + min c 126, decide (c > 126))
  | .inf neg => ((if neg then 128 else 0) + 126, true)
  | .nan => (0, false)

/-- A value divided by 2^k. -/
def FV.down (v : FV) (k : Int) : FV :=
  match v with
  | .fin a m e => .fin a m (e - k)
  | x => x

/-- Codes of a list of values in units, with the saturations. -/
def e4m3All (l : List FV) : List Byte × Nat :=
  (l.map (fun v => BitVec.ofNat 8 (e4m3 v).1), l.countP (fun v => (e4m3 v).2))

/-- The leaf codes of a live block (R345). -/
def leafCodes (x : List F32) (sb : Nat) : List Byte × Nat := e4m3All (x.map (fun w => (val32 w).down ((sb : Int) - 127)))

/-- A partial whose 32 codes are all ±0 is EMPTY (R345). -/
def asPartial (l : List Byte) : Option (List Byte) := if l.all (fun c => decide (c &&& 0x7F = 0)) then none else some l

/-- Codes of a partial, EMPTY as +0 (R346). -/
def codesOf (p : Option (List Byte)) : List Byte := p.getD (List.replicate 32 0)

/-- combine of R346 with the saturations: an EMPTY child leaves the partial as it is. -/
def combine (a c : Option (List Byte)) : Option (List Byte) × Nat :=
  match c with
  | none => (a, 0)
  | some l =>
    let r := e4m3All (((codesOf a).zip l).map (fun p => (mxDecode 3 p.1.toNat).add (mxDecode 3 p.2.toNat)))
    (asPartial r.1, r.2)

/-- Combine block by block. -/
def combineAll (a c : List (Option (List Byte))) : List (Option (List Byte)) × Nat :=
  let r := (a.zip c).map (fun p => combine p.1 p.2)
  (r.map (·.1), (r.map (·.2)).sum)

/-- The gradients of a live block from the result (R348). -/
def gradOf (p : Option (List Byte)) (sb a : Nat) : List F32 :=
  (codesOf p).map (fun c => rne32 (FV.div ((mxDecode 3 c.toNat).down (127 - (sb : Int))) (.fin false a 0)))

/-! ### Update rules (R356, R357) -/

def r32 (v : FV) : F32 := rne32 v
def fAdd (a b : F32) : F32 := r32 ((val32 a).add (val32 b))
def fSub (a b : F32) : F32 := r32 ((val32 a).add (val32 b).neg)
def fMul (a b : F32) : F32 := r32 ((val32 a).mul (val32 b))
def fDiv (a b : F32) : F32 := r32 ((val32 a).div (val32 b))
def fSqrt (a : F32) : F32 := r32 (val32 a).sqrt
def fOne : F32 := 0x3F800000#32
def fMinusOne : F32 := 0xBF800000#32

/-- x^t, exact. -/
def FV.pow (v : FV) (t : Nat) : FV :=
  match v with
  | .nan => .nan
  | .inf a => if t = 0 then .fin false 1 0 else .inf (a && decide (t % 2 = 1))
  | .fin a m e => .fin (a && decide (t % 2 = 1)) (m ^ t) (e * t)

/-- The bias correction: 1 - B^t, correctly rounded (R356). -/
def biasCorr (b : F32) (t : Nat) : F32 := r32 ((FV.fin false 1 0).add ((val32 b).pow t).neg)

/-- The constants of a descriptor (Table PEL-4). -/
structure Hyper where
  rule : Nat
  nest : Bool
  lr : F32
  wd : F32
  b1 : F32
  b2 : F32
  eps : F32
  t : Nat
  deriving DecidableEq, Repr

/-- One element: p, m, v and OUT. -/
structure Elt where
  p : F32 := 0
  m : F32 := 0
  v : F32 := 0
  out : F32 := 0
  deriving DecidableEq, Repr

/-- The sign of SIGNM (R357). -/
def signOf (c : F32) : F32 :=
  match val32 c with
  | .nan => 0
  | .inf a => if a then fMinusOne else fOne
  | .fin a m _ => if m = 0 then 0 else if a then fMinusOne else fOne

/-- The rule on one element (R357). -/
def updateElt (h : Hyper) (g : F32) (x : Elt) : Elt :=
  let c1 := fSub fOne h.b1
  let c2 := fSub fOne h.b2
  let p1 := fSub x.p (fMul (fMul h.lr h.wd) x.p)
  match h.rule with
  | 1 =>
    let m := fAdd (fMul h.b1 x.m) g
    let d := if h.nest then fAdd g (fMul h.b1 m) else m
    { x with m := m, p := fSub p1 (fMul h.lr d) }
  | 2 =>
    let m := fAdd (fMul h.b1 x.m) (fMul c1 g)
    let v := fAdd (fMul h.b2 x.v) (fMul c2 (fMul g g))
    let u := fDiv (fDiv m (biasCorr h.b1 h.t)) (fAdd (fSqrt (fDiv v (biasCorr h.b2 h.t))) h.eps)
    { x with m := m, v := v, p := fSub p1 (fMul h.lr u) }
  | 3 =>
    let c := fAdd (fMul h.b1 x.m) (fMul c1 g)
    { x with m := fAdd (fMul h.b2 x.m) (fMul c2 g), p := fSub p1 (fMul h.lr (signOf c)) }
  | _ => { x with out := g }

/-! ### State formats (R358, Table PEL-3) -/

/-- How a buffer is stored: nothing, FP32, BF16 to nearest even, BF16 stochastic, or 8-bit with a scale byte. -/
inductive PFmt where
  | none | f32 | b16 | b16sr | mx8
  deriving DecidableEq, Repr

/-- Bytes of an element. -/
def PFmt.width : PFmt → Nat
  | .none => 0
  | .f32 => 4
  | .b16 => 2
  | .b16sr => 2
  | .mx8 => 1

/-- Words of `w` bytes. -/
def cutWords (w : Nat) : Nat → List Byte → List Nat
  | 0, _ => []
  | n + 1, l => ofBytes (l.take w) :: cutWords w n (l.drop w)

/-- The values of a stored block, exact: element bytes and scale byte. -/
def PFmt.load (f : PFmt) (bs : List Byte) (scale : Byte) : List F32 :=
  (cutWords f.width 32 bs).map (fun c => match f with
    | .f32 => BitVec.ofNat 32 c
    | .mx8 => if scale = 0xFF then BitVec.ofNat 32 fp32.qnan
      else rne32 ((mxDecode 3 c).down (127 - (scale.toNat : Int)))
    | _ => BitVec.ofNat 32 (c * 2 ^ 16))

/-- The stored bytes of a block and its scale byte; `seed` is SEED xor t, `first` the index of its first element. -/
def PFmt.store (f : PFmt) (l : List F32) (seed first : Nat) : List Byte × List Byte :=
  match f with
  | .none => ([], [])
  | .f32 => (l.flatMap (fun w => toBytes 4 w.toNat), [])
  | .b16 => (l.flatMap (fun w => toBytes 2 (bf16.round .rne (val32 w)).1), [])
  | .b16sr => (l.zipIdx.flatMap (fun p =>
      toBytes 2 (bf16.round (.sr (mix seed (first + p.2))) (val32 p.1)).1), [])
  | .mx8 =>
    let q := quantBlock 3 (fun _ => .rne) 0 (l.map val32)
    (q.2.1.map (BitVec.ofNat 8), [BitVec.ofNat 8 q.1])

/-- Values stored non-finite (R357): an exponent of all ones, or a block with scale byte 0xFF. -/
def PFmt.nonFinite (f : PFmt) (bs : List Byte) (scale : List Byte) : Nat :=
  match f with
  | .none => 0
  | .mx8 => if scale = [0xFF#8] then 32 else 0
  | .f32 => (cutWords 4 32 bs).countP (fun c => decide (c / 2 ^ 23 % 256 = 255))
  | _ => (cutWords 2 32 bs).countP (fun c => decide (c / 2 ^ 7 % 256 = 255))

/-- A live block `b` of a bucket is sampled (R355). -/
def isSampled (step bucket b chk : Nat) : Bool := decide (chk ≠ 0) && decide (mix step (bucket + b) % 2 ^ chk = 0)

end Sys2Proof.Machine
end

