-- ==== Sys2Proof/Machine/Waits.lean ====
section
/-! DEFINITION. The wait conditions of a thread (Table CORE-3, R44, R50), from the state and the next instruction's word. -/

namespace Sys2Proof.Machine

/-- What the core knows of a thread's next instruction word. -/
inductive NextWord where
  /-- the word, at hand in the instruction cache or in memory past it -/
  | word (w : Word)
  /-- its line is not in the instruction cache (IFILL) -/
  | away
  /-- the fetch takes an exception, or another module or the host window holds the word -/
  | none
  deriving DecidableEq, Repr

/-- The next instruction word of thread `t`. A fill that returned poison elsewhere in the line delivers its word from memory
(R507). -/
def State.nextWord (s : State) (t : Nat) : NextWord :=
  let th := s.thr t
  let c := coreOf t
  match s.xlat (.core c) (s.core c).part (stPriv th.sr.st) .fetch th.pc.toNat with
  | .fail _ _ => .none
  | .ok leaf _ pa =>
    let mem := s.isLocal pa && s.isMem (localOf pa)
    match th.ifar with
    | some f => (match f.answer with
        | none => .away
        | some a => .word (BitVec.ofNat 64 (ofBytes ((a.1.drop (if s.isLocal pa then 0 else pa % 64)).take 8))))
    | none =>
    if leafNc leaf || th.ifetch = some th.pc then
      (if mem then .word (BitVec.ofNat 64 (s.word (localOf pa) 8)) else .none)
    else if s.isLocal pa && !mem then .none
    else
      match s.findLine c false (pa / 256) with
      | none => .away
      | some e =>
        let x := s.centry c false e
        if x.inflight then .away else .word (BitVec.ofNat 64 (ofBytes (lineBytes x.data (pa % 256) 8)))

/-- The instruction does not issue. -/
def Act.isHold : Act → Bool
  | .hold _ => true
  | _ => false

/-- What a tile or array instruction, a vector move of a tile, CSAVE or CLOAD does with the state at issue, by opcode. -/
def State.tileAct (s : State) (t op : Nat) (f : Body) : Option Act :=
  match op with
  | 0xBC => some (s.vtrd t f)
  | 0xBD => some (s.vtwr t f)
  | 0xC0 => some (s.tileMove t f true)
  | 0xC1 => some (s.tileMove t f false)
  | 0xC2 => some (s.tzero t f)
  | 0xC3 => some (s.trel t f)
  | 0xC4 => some (s.tcfgAct t f f.fldT)
  | 0xC5 => some (s.tmmaAct t f)
  | 0xC6 => some (s.tldaccAct t f)
  | 0xC7 => some (s.tdrainAct t f)
  | 0xC8 => some (s.tewAct t f f.modeA)
  | 0x73 => some (s.csaveAct t f)
  | 0x74 => some (s.cloadAct t f)
  | _ => none

/-- SEM, TILE and SYNC of an instruction word whose COND holds (Table CORE-3). -/
def State.wordWaits (s : State) (t : Nat) (w : Word) : Bool × Bool × Bool :=
  let op := fld w 59 52
  let f : Body := BitVec.ofNat 52 (fld w 51 0)
  if condHolds (BitVec.ofNat 4 (fld w 63 60)) (s.thr t).sr.st then
    (decide (op = 0x68) && decide ((s.semCount f.sem).toNat < f.val)
        && decide (f.timeout (s.thr t) ≠ some 0),
      (match s.tileAct t op f with
        | some a => a.isHold
        | none => false),
      (decide (op = 0x6C) && s.memoryWork t) || (decide (op = 0xC9) && s.tileWork t))
  else (false, false, false)

/-- The wait conditions of a running thread (Table CORE-3): SEM, TILE, LOAD, SYNC, PREC, IFILL from bit 0 on. A WAIT in progress
holds SEM until its condition is true or its timeout has passed. -/
def State.waitBits (s : State) (t : Nat) : Nat :=
  let th := s.thr t
  let q : Bool × Bool × Bool × Bool :=
    match th.wait with
    | some w => (!w.sent && decide ((s.semCount w.sem).toNat < w.val) && !s.timedOut t w, false, false, false)
    | none =>
      if th.underWay then (false, false, false, false)
      else
        match s.nextWord t with
        | .word w => let r := s.wordWaits t w; (r.1, r.2.1, r.2.2, false)
        | .away => (false, false, false, true)
        | .none => (false, false, false, false)
  b2n q.1 + 2 * b2n q.2.1 + 4 * b2n th.loadWait + 8 * b2n q.2.2.1 + 16 * b2n (s.precWait t) + 32 * b2n q.2.2.2

/-- The thread is a candidate for issue (R50): it may issue and no wait condition of Table CORE-3 holds. -/
def State.candidate (s : State) (t : Nat) : Bool := s.mayIssue t && decide (s.waitBits t = 0)

end Sys2Proof.Machine
end

