-- ==== Sys2Proof/Machine/Training.lean ====
section
/-! DEFINITION. Step control (12): the step fence, evaluation windows and the sequence table. -/

namespace Sys2Proof.Machine

/-! ### STEP_CFG fields -/

/-- Writable bits of STEP_CFG. -/
def stepCfgMask : Word := 0xFFFFFFFFFFFC001F#64
def cfgEvery (c : Word) : Nat := fld c 63 48
def cfgNbkt (c : Word) : Nat := fld c 47 32
def cfgFsem (c : Word) : Nat := fld c 31 18
def cfgFtree (c : Word) : Nat := fld c 4 2
def cfgSeqClr (c : Word) : Bool := bit c 1
def cfgFsen (c : Word) : Bool := bit c 0

/-! ### The sequence table (R333 to R335) -/

/-- Entry `e` of the sequence table. -/
def State.seqOf (s : State) (e : Nat) : Word := kget 0 s.seqEntry e
def seqPass (w : Word) : Nat := fld w 39 37
def seqDisp (w : Word) : Nat := fld w 35 34
def seqState (w : Word) : Nat := fld w 33 32
def seqTokens (w : Word) : Nat := fld w 23 0
/-- Bits [31:24] are reserved. -/
def seqMask : Word := 0xFFFFFFFF00FFFFFF#64
/-- PASS, DISP or STATE holds a reserved code (R333). -/
def seqReserved (w : Word) : Bool := decide (5 ≤ seqPass w) || decide (seqDisp w = 3) || decide (seqState w = 3)

/-- A write of an entry (R333). -/
def State.writeSeq (s : State) (e : Nat) (v : Word) : State :=
  if seqReserved v then s.raise (.seqTab (e / 256)) (0x10 + e / 256) 0x0608 evConfig e v.toNat
  else { s with seqEntry := kset 0 s.seqEntry e (v &&& seqMask) }

/-- SEQ_ENTRY_WRITE (R333). -/
def execSeqEntryWrite (e : Fin 1024) (v : Word) (s : State) : Res := .next (s.byReg (s.writeSeq e.val v))

/-- Every DONE entry becomes FREE with its other fields, its BASE among them, 0 (R335). -/
def State.clearDone (s : State) : State :=
  { s with
    seqEntry := s.seqEntry.filter (fun p => decide (seqState p.2 ≠ 2))
    seqBase := s.seqBase.filter (fun p => decide (seqState (s.seqOf p.1) ≠ 2)) }

/-- The entries that STEP_TOKENS counts: DONE, and not EXCLUDE (R334). -/
def State.counted (s : State) : List Word :=
  (s.seqEntry.map (·.2)).filter (fun w => decide (seqState w = 2) && decide (seqDisp w ≠ 2))

/-- STEP_TOKENS (R334). -/
def State.stepTokens (s : State) : Word :=
  BitVec.ofNat 64 (s.counted.length * 2 ^ 40 + ((s.counted.map seqTokens).sum) % 2 ^ 40)

/-- STEP_TOKENS_READ (R334): the two figures are returned. -/
def execStepTokensRead (s : State) : Res := .next (s.emit (.regRead 0x4F0028 (if s.power.down || decide (s.sec.phase = .sag) then 0 else s.stepTokens)))

/-! ### Evaluation windows (R327 to R332) -/

/-- Some EVAL work stands at the close of a window: an ACTIVE context, or a running thread that is ELIGIBLE or waits on a
condition other than SEM (R332, Table CORE-3). -/
def State.evalWork (s : State) : Bool :=
  s.ctxs.any (fun p => decide (p.2.cls = .eval) && decide (p.2.st = .active))
    || s.threads.any (fun p => decide (p.2.pass = .eval) && decide (p.2.st = .running) && decide (s.waitBits p.1 ≠ 1))

/-- Misses that a window held back try again (R328, R330). -/
def State.retryAll (s : State) : State := s.cores.foldl (fun s p => (s.retryMisses p.1 false).retryMisses p.1 true) s

/-- What contexts of class `c` had ready while a window excluded them follows: the records of their descriptors (R328). -/
def State.settleCtxs (s : State) (c : Cls) : State :=
  s.ctxs.foldl (fun s q => if q.2.cls = c then s.seDone q.1 else s) s

/-- Open a window. -/
def State.openWindow (s : State) : State :=
  (({ (s.excludeCtxs .step).admitCtxs .eval with
    stepc := { s.stepc with evalOpen := true, evpend := false } } : State).settleCtxs .eval).retryAll

/-- Close the window (R332); ignored when none is open. -/
def State.closeWindow (s : State) : State :=
  if s.stepc.evalOpen then
    (({ (s.excludeCtxs .eval).admitCtxs .step with stepc := { s.stepc with
        evalOpen := false
        defer := if s.evalWork then s.stepc.defer + 1 else s.stepc.defer } } : State).settleCtxs .step).retryAll
  else s

/-- A write of EVAL_OPEN (R327). -/
def State.askWindow (s : State) : State :=
  if s.stepc.evalOpen then s
  else if s.stepc.applied = 0 then s.openWindow
  else { s with stepc := { s.stepc with evpend := true } }

/-- STEP_CTL.RESET: STEP and APPLIED become 0 and EVPEND clears; an open window stays open. A new step begins (R324). -/
def State.stepReset (s : State) : State :=
  { s with
    stepc := { s.stepc with step := 0, applied := 0, evpend := false }
    trees := s.trees.map (fun p => (p.1, { p.2 with applied := [] })) }

/-- A write of STEP_CTL. -/
def State.stepCtl (s : State) (v : Word) : State :=
  let s1 := if bit v 2 then s.stepReset else s
  if bit v 1 then s1.closeWindow else if bit v 0 then s1.askWindow else s1

/-- STEP_CTL_RESET (R350). -/
def execStepCtlReset (s : State) : Res := .next (s.byReg (s.stepCtl 4#64))
/-- EVAL_OPEN (R327). -/
def execEvalOpen (s : State) : Res := .next (s.byReg (s.stepCtl 1#64))
/-- EVAL_CLOSE (R332). -/
def execEvalClose (s : State) : Res := .next (s.byReg (s.stepCtl 2#64))
/-- EVAL_LIMIT_EXPIRY (R332). -/
def execEvalLimitExpiry (s : State) : Res := .next (if s.stepc.limit = 0 then s else s.closeWindow)

/-- A write of STEP_CFG (R326). -/
def State.writeStepCfg (s : State) (v : Word) : State :=
  if s.stepc.applied = 0 then { s with stepc := { s.stepc with cfg := v &&& stepCfgMask, cfgWait := none } }
  else { s with stepc := { s.stepc with cfgWait := some (v &&& stepCfgMask) } }

/-- STEP_CFG_WRITE (R326). -/
def execStepCfgWrite (v : Word) (s : State) : Res := .next (s.byReg (s.writeStepCfg v))

/-! ### The step fence (R325) -/

/-- The step fence: STEP, APPLIED, FSEM, hub source 0x10, SEQCLR, the window and the waiting STEP_CFG. A STEP_CFG that waits takes
effect behind the fence: FSEM, FSEN, SEQCLR and EVAL_EVERY of this fence are those before it (R325, R326, DESIGN CHOICE,
log 62). -/
def State.stepFence (s : State) : State :=
  let c := s.stepc.cfg
  let n := s.stepc.step + 1
  let opens := s.stepc.evpend || (decide (cfgEvery c ≠ 0) && decide (n.toNat % cfgEvery c = 0))
  let s1 : State := { s with
    stepc := { s.stepc with step := n, applied := 0, cfg := s.stepc.cfgWait.getD c, cfgWait := none }
    trees := s.trees.map (fun p => (p.1, { p.2 with applied := [] })) }
  let s2 := if cfgFsen c then s1.signal 0xF000 (cfgFsem c) 1 else s1
  let s3 := (s2.hubRaise 0x10).pulse 3
  let s4 := if cfgSeqClr c then s3.clearDone else s3
  if opens && !s4.stepc.evalOpen then s4.openWindow else s4

/-- A bucket of tree `t` is finished at every rank of this module (R325). -/
def State.bucketDone (s : State) (t : Nat) : State :=
  let c := s.stepc.cfg
  if cfgFtree c ≠ t then s
  else
    let n := s.stepc.applied + 1
    let s1 : State := { s with stepc := { s.stepc with applied := n % 2 ^ 16 } }
    if cfgNbkt c ≠ 0 ∧ n = cfgNbkt c then s1.stepFence else s1

end Sys2Proof.Machine
end

