-- ==== Sys2Proof/Machine/Peloton.lean ====
section
/-! DEFINITION. Peloton (13): hand-offs, the messages of a bucket, deadlines, updates, GATHER, the sampled check and the
application of a bucket. -/

namespace Sys2Proof.Machine

/-! ### Trees (R338, R340) -/

/-- 2^k of R340 for a rank other than 0: the weight of its lowest set bit, found among the ten bits of a rank. -/
def lowBit (r : Nat) : Nat := 2 ^ ((List.range 10).find? (fun k => decide (r / 2 ^ k % 2 = 1))).getD 0
/-- The level at which a node sends to its parent. -/
def sendLevel (r : Nat) : Nat := ((List.range 10).find? (fun k => decide (r / 2 ^ k % 2 = 1))).getD 0
def parentOf (r : Nat) : Nat := r - lowBit r
/-- Children of rank `r` of `n`, level ascending (R340). -/
def childrenOf (n r : Nat) : List Nat :=
  ((List.range 10).filter (fun k => (decide (r = 0) || decide (2 ^ k < lowBit r)) && decide (r + 2 ^ k < n))).map (fun k => r + 2 ^ k)
/-- Ranks of the subtree of `r`: from r to min(r + 2^k, N) - 1 (R347). -/
def subtreeOf (n r : Nat) : List Nat := if r = 0 then List.range n else (List.range (min (lowBit r) (n - r))).map (r + ·)
/-- The bitmap of a list of ranks. -/
def rankBits (l : List Nat) : BitVec 1024 := l.foldl (fun m r => putBit m r true) 0

/-- Rank of die `d` in a tree (R338). -/
def Tree.rank (t : Tree) (d : Nat) : Option Nat := if kget 0 t.ranks d = 0 then none else some (kget 0 t.ranks d - 1)
/-- Ranks of the tree on this module. -/
def Tree.count (t : Tree) : Nat := (List.range 4).countP (fun d => (t.rank d).isSome)

/-- Node of bucket `b` on die `d`. -/
def State.node (s : State) (t b d : Nat) : Node := kget {} (s.tree t).nodes (b * 4 + d)
def State.setNode (s : State) (t b d : Nat) (x : Node) : State :=
  s.updTree t (fun w => { w with nodes := kset {} w.nodes (b * 4 + d) x })
def State.updNode (s : State) (t b d : Nat) (f : Node → Node) : State := s.setNode t b d (f (s.node t b d))
/-- PEL_CNTt_k counts. -/
def State.pelCount (s : State) (t k : Nat) (n : Nat := 1) : State :=
  if n = 0 then s else s.updTree t (fun w => { w with cnt := bump w.cnt k n })
/-- Location of form K (R486). -/
def State.locK (s : State) (t b : Nat) : Nat := t + b * 16 + s.stepc.step.toNat * 2 ^ 32
/-- An event of the tree's engine. -/
def State.pelEvent (s : State) (t b code cls det : Nat) : State :=
  s.raise (.pel (s.tree t).eng) 0x40 code cls (s.locK t b) det
/-- Location of form K for a step of its own. -/
def locAt (t b step : Nat) : Nat := t + b * 16 + step * 2 ^ 32
/-- Notify: PEL_NOTEt and the tree's hub source (R363). -/
def State.pelNotify (s : State) (t b d status : Nat) : State :=
  let v (w : Tree) : Word :=
    BitVec.ofNat 64 ((fld w.note 63 32 + 1) % 2 ^ 32 * 2 ^ 32 + d * 2 ^ 18 + status * 2 ^ 15 + b)
  (s.updTree t (fun w => { w with note := v w })).hubRaise (0x10 + (s.tree t).eng)

/-! ### Memory (R361, log 45) -/

/-- What a virtual address of a tree names. -/
inductive PelAt where
  /-- memory of this module -/
  | mem (leaf : Word) (pa : Nat)
  /-- another module -/
  | away (leaf : Word) (pa : Nat)
  | host (pa off : Nat)
  /-- nothing that can be read -/
  | none

/-- Translate for Peloton, at privilege S (R292, R361). -/
def State.pelAt (s : State) (t va : Nat) (k : Access) : PelAt :=
  match s.xlat .pel (s.tree t).part 1 k va with
  | .fail _ _ => .none
  | .ok leaf _ pa =>
    if !s.isLocal pa then .away leaf pa
    else if s.isMem (localOf pa) then .mem leaf (localOf pa)
    else
      match s.place (localOf pa) with
      | .host off => .host pa off
      | _ => .none

/-- The hub engine whose slots the accesses of a tree's engine hold (Table CORE-6A). -/
def State.pelEngine (s : State) (t : Nat) : Nat := 32 + (s.tree t).eng / 2

/-- The read of the block at global address `addr` has been asked for, and answered. -/
def State.pelFar (s : State) (t addr : Nat) : Option FarRead := (s.tree t).far.find? (fun f => decide (f.addr = addr))

/-- Send a read of a block outside the module's memory once; the second component says that its answer is at hand. -/
def State.pelFetch (s : State) (t addr : Nat) (send : State → State) : State × Bool :=
  match s.pelFar t addr with
  | some f => (s, f.answer.isSome)
  | none => (send (s.updTree t (fun w => { w with far := w.far ++ [{ addr := addr, n := 64 }] })), false)

/-- See that the bytes at an address within one 64-byte block can be read now. -/
def State.pelHave (s : State) (t va : Nat) : State × Bool :=
  match s.pelAt t va .read with
  | .away leaf pa => s.pelFetch t (pa / 64 * 64) (fun s =>
      s.remoteRead (.pelRead t) (pa / 64 * 64) 64 { cls := .step, tag := leafTag leaf, np := leafNp leaf, eng := s.pelEngine t })
  | .host pa off =>
    if !s.host.bme then (s, true)
    else s.pelFetch t (pa / 64 * 64) (fun s => s.hostLoad .host (off / 64 * 64) 64 (some t))
  | _ => (s, true)

/-- Ask for the parts of spans (address, bytes) that stand outside the module's memory; the second component says that all of
them are at hand. -/
def State.pelAsk (s : State) (t : Nat) (l : List (Nat × Nat)) : State × Bool :=
  (l.flatMap (fun q => blocks q.1 q.2)).foldl (fun a b =>
    let r := a.1.pelHave t (b * 64 % 2 ^ 64)
    (r.1, a.2 && r.2)) (s, true)

/-- Answers that have been used are dropped. -/
def State.pelForget (s : State) (t : Nat) : State :=
  if (s.tree t).far.isEmpty then s
  else s.updTree t (fun w => { w with far := w.far.filter (fun f => f.answer.isNone) })

/-- Read bytes, block by block: the bytes, and whether any is poisoned or cannot be read. -/
def State.pelRead (s : State) (t va n : Nat) : List Byte × Bool × State :=
  (blocks va n).foldl (fun (a : List Byte × Bool × State) b =>
    let lo := max va (b * 64)
    let len := min (va + n) (b * 64 + 64) - lo
    let v := lo % 2 ^ 64
    let s1 := a.2.2.xlatNote .pel (s.tree t).part 1 .read v { cls := .step, eng := s.pelEngine t }
    let far (pa : Nat) : List Byte × Bool :=
      match (s1.pelFar t (pa / 64 * 64)).bind (·.answer) with
      | some r => (((r.1 ++ List.replicate 64 0).drop (pa % 64)).take len, (granules (pa % 64) len).any (fun g => Answer.bad r (g * 32)))
      | none => (List.replicate len 0, true)
    match a.2.2.pelAt t v .read with
    | .none => (a.1 ++ List.replicate len 0, true, s1)
    | .away _ pa => (a.1 ++ (far pa).1, a.2.1 || (far pa).2, s1)
    | .host pa off =>
      if s1.host.bme then (a.1 ++ (far pa).1, a.2.1 || (far pa).2, s1)
      else (a.1 ++ List.replicate len 0, true, s1.hostBme off)
    | .mem leaf pa =>
      (a.1 ++ s1.bytes pa len, a.2.1 || s1.anyBad pa len (leafTag leaf),
        s1.touch pa len { cls := .step, tag := leafTag leaf, np := leafNp leaf, eng := s.pelEngine t })) ([], false, s)

/-- Write bytes, block by block, to memory, another module or the host window; what cannot be translated is left unwritten
(R360). -/
def State.pelWrite (s : State) (t va : Nat) (bs : List Byte) (poison : Bool := false) : State :=
  (blocks va bs.length).foldl (fun s b =>
    let lo := max va (b * 64)
    let len := min (va + bs.length) (b * 64 + 64) - lo
    let v := lo % 2 ^ 64
    let s1 := s.xlatNote .pel (s.tree t).part 1 .write v { cls := .step, eng := s.pelEngine t }
    match s.xlat .pel (s.tree t).part 1 .write v with
    | .fail _ _ => s1
    | .ok leaf _ pa =>
      s1.put (.pelWrite t) pa ((bs.drop (lo - va)).take len)
        { cls := .step, tag := leafTag leaf, np := leafNp leaf, eng := s.pelEngine t } (fun _ => poison)) s

/-- Writes of the tree to other modules that await their acknowledgment. -/
def State.pelWrites (s : State) (t : Nat) : Bool := s.remotes.any (fun p => decide (p.2.kind = .pelWrite t))

/-! ### Descriptors (Table PEL-4) -/

def Node.w (x : Node) (o : Nat) : Word := x.desc.getD (o / 8) 0
def Node.rule (x : Node) : Nat := fld (x.w 0) 2 0
def Node.nest (x : Node) : Bool := bit (x.w 0) 3
def Node.mode (x : Node) : Nat := fld (x.w 0) 5 4
def Node.gfmt (x : Node) : Bool := bit (x.w 0) 6
def Node.pf (x : Node) : PFmt := if bit (x.w 0) 7 then .b16sr else .f32
def Node.mf (x : Node) : PFmt := if bit (x.w 0) 8 then .mx8 else .b16
def Node.vf (x : Node) : PFmt := if bit (x.w 0) 9 then .f32 else .b16
def Node.zero (x : Node) : Bool := bit (x.w 0) 10
def Node.outf (x : Node) : PFmt := if bit (x.w 0) 11 then .b16 else .f32
def Node.chk (x : Node) : Nat := fld (x.w 0) 15 12
def Node.wf (x : Node) : PFmt := if fld (x.w 0) 17 16 = 1 then .b16 else if fld (x.w 0) 17 16 = 2 then .mx8 else .none
def Node.gtile (x : Node) : Bool := bit (x.w 0) 18
def Node.nen (x : Node) : Bool := bit (x.w 0) 19
def Node.nblk (x : Node) : Nat := fld (x.w 0) 52 32
def Node.gradA (x : Node) : Nat := (x.w 0x08).toNat
def Node.paramA (x : Node) : Nat := (x.w 0x10).toNat
def Node.mA (x : Node) : Nat := (x.w 0x18).toNat
def Node.vA (x : Node) : Nat := (x.w 0x20).toNat
def Node.outA (x : Node) : Nat := (x.w 0x28).toNat
def Node.wcopyA (x : Node) : Nat := (x.w 0x30).toNat
def Node.freezeA (x : Node) : Nat := (x.w 0x38).toNat
def Node.gscale (x : Node) : F32 := BitVec.ofNat 32 (fld (x.w 0x50) 63 32)
def Node.seed (x : Node) : Nat := fld (x.w 0x58) 31 0
def Node.asem (x : Node) : Nat := fld (x.w 0x60) 13 0
def Node.asen (x : Node) : Bool := bit (x.w 0x60) 14
def Node.counter (x : Node) : Nat := fld (x.w 0x80) 31 0
/-- The constants of the rule, with t = COUNTER + 1 (R356). -/
def Node.hyper (x : Node) : Hyper where
  rule := x.rule
  nest := x.nest
  lr := BitVec.ofNat 32 (fld (x.w 0x40) 31 0)
  wd := BitVec.ofNat 32 (fld (x.w 0x40) 63 32)
  b1 := BitVec.ofNat 32 (fld (x.w 0x48) 31 0)
  b2 := BitVec.ofNat 32 (fld (x.w 0x48) 63 32)
  eps := BitVec.ofNat 32 (fld (x.w 0x50) 31 0)
  t := x.counter + 1

/-- A field holds a value that Table PEL-4 does not assign, a reserved field is not 0, or an address is misaligned (R362). -/
def Node.badDesc (x : Node) : Bool :=
  let odd (a : Nat) : Bool := decide (a % 64 ≠ 0)
  decide (x.rule > 3) || decide (x.mode = 3) || (decide (0 < x.chk) && decide (x.chk < 6)) || decide (12 < x.chk)
    || decide (fld (x.w 0) 17 16 = 3) || decide (fld (x.w 0) 31 20 ≠ 0) || decide (fld (x.w 0) 63 53 ≠ 0)
    || decide (x.nblk = 0) || decide (x.nblk > 1048576) || (decide (x.rule = 0) && decide (x.mode = 1))
    || (!x.gtile && odd x.gradA) || odd x.paramA || odd x.mA || odd x.vA || odd x.outA || odd x.wcopyA || odd x.freezeA
    || decide (fld (x.w 0x58) 63 32 ≠ 0) || decide (fld (x.w 0x60) 63 15 ≠ 0)
    || [0x68, 0x70, 0x78].any (fun o => decide (x.w o ≠ 0))
    || (List.range 13).any (fun i => decide (x.w (0x98 + 8 * i) ≠ 0))

/-- The descriptor table that PEL_BTAB names, in units of 512 bytes. -/
def Tree.table (t : Tree) : Nat := fld t.btab 63 9
/-- Address of the node's descriptor, of bucket `b` for die `d` (R361). -/
def Node.descAt (x : Node) (b d : Nat) : Nat := x.base * 512 + (b * 4 + d) * 0x200

/-- Bytes of an element of GRAD. -/
def Node.gw (x : Node) : Nat := if x.gfmt then 2 else 4

/-- The node with the freeze mask of its descriptor read (R354): a mask that cannot be read rejects, and no block of it is
known to be unfrozen (log 47). -/
def State.readMask (s : State) (t : Nat) (y : Node) : Node × State :=
  if y.freezeA = 0 then ({ y with unf := List.range y.nblk }, s)
  else
    let m := s.pelRead t y.freezeA ((y.nblk + 7) / 8)
    if m.2.1 then ({ y with rej := true }, m.2.2)
    else
      let frozen (i : Nat) : Bool := bit (m.1.getD (i / 8) 0) (i % 8)
      ({ y with unf := (List.range y.nblk).filter (fun i => !frozen i), fdig := BitVec.ofNat 32 (crc24 m.1) }, m.2.2)

/-- Read the descriptor and the freeze mask into a node (R341, R354, R361): `desc` stays [] when the descriptor cannot be
read, and `got` false while a part of them is awaited from outside the module's memory. -/
def State.readDesc (s : State) (t b d : Nat) (x : Node) : Node × State :=
  let a := x.descAt b d
  let q := s.pelAsk t [(a, 256)]
  if !q.2 then (x, q.1)
  else
    let r := q.1.pelRead t a 256
    let y : Node := { x with
      desc := (cutWords 8 32 r.1).map (BitVec.ofNat 64), unf := [], fdig := 0, got := true }
    if r.2.1 then ({ y with desc := [], rej := true }, r.2.2)
    else
      let m := r.2.2.pelAsk t (if y.freezeA = 0 then [] else [(y.freezeA, (y.nblk + 7) / 8)])
      if !m.2 then (x, m.1) else m.1.readMask t { y with rej := y.badDesc }

/-- The unfrozen blocks do not fit the staging allotment (R362). -/
def State.overStg (s : State) (t : Nat) (x : Node) : Bool :=
  let u := x.unf.length
  decide ((256 + 8 * ((u + 7) / 8) + 32 * u) * ((s.tree t).count + 1) > (s.tree t).stg * 2 ^ 20)

/-- Fit of a lent tile: 0 good, 1 the reference is not one, 2 not LENT, 3 overrun (R362, R266). -/
def State.tileFit (s : State) (x : Node) : Nat :=
  let a := x.gradA
  if a ≥ 2 ^ 19 ∨ a / 32 % 512 ≥ 288 then 1
  else if !atLent (s.tile (a / 32 % 512) (a % 32)).attr then 2
  else if a / 2 ^ 14 % 32 * 128 + x.nblk * 32 * x.gw > 4096 then 3
  else 0

/-! ### Messages (R342) -/

/-- Blocks or entries in a message's body (COUNT). -/
def pelCount (type : Nat) (m : PelMsg) : Nat :=
  match type with
  | 1 => m.bytes.length
  | 2 => m.bytes.length
  | 5 => m.words.length / 32
  | 6 => m.leaves.length
  | _ => m.codes.length

/-- The groups of DATA and RESULT: for every 8 live blocks, their flags and then the codes of those that are not EMPTY. -/
def codeGroups : Nat → List (Option (List Byte)) → List Byte
  | 0, _ => []
  | _, [] => []
  | n + 1, l =>
    let g := l.take 8
    (g.map (fun c => if c.isNone then 1#8 else 0#8)) ++ List.replicate (8 - g.length) 0
      ++ g.flatMap (·.getD []) ++ codeGroups n (l.drop 8)

/-- The body of a message; GATHER's parameters have `pw` bytes each (Wire format). -/
def pelBody (type : Nat) (m : PelMsg) (pw : Nat) : List Byte :=
  match type with
  | 1 => m.bytes
  | 2 => m.bytes
  | 5 => m.words.flatMap (fun w => toBytes pw w.2.toNat)
  | 6 => m.leaves.flatMap (fun e => toBytes 4 e.1 ++ e.2)
  | _ => codeGroups m.codes.length m.codes

/-- The header of a message (Table PEL-2). -/
def pelHeader (type : Nat) (m : PelMsg) : List Byte :=
  toBytes 8 (type + m.tree.val * 2 ^ 4 + m.bucket.toNat * 2 ^ 8 + m.src.val * 2 ^ 20 + m.level.toNat * 2 ^ 30 + m.arrived * 2 ^ 34)
    ++ toBytes 8 (m.step.toNat + m.fdig.toNat * 2 ^ 32) ++ toBytes 8 (pelCount type m) ++ toBytes 104 0
    ++ toBytes 128 m.missing.toNat

/-- The body slots of a link message: the message's header and body, padded to whole slots. -/
def pelGranules (type : Nat) (m : PelMsg) (pw : Nat) : List Granule :=
  let b := pelHeader type m ++ pelBody type m pw
  cutGranules (fun _ => false) 0 ((b.length + 31) / 32) (b ++ List.replicate 31 0)

/-- Send a message to a rank of the tree: out, and over the engine's port when the rank is on another module (R338); a message
for a port that is DOWN or DISABLED is lost (R381). -/
def State.pelSend (s : State) (t dst type : Nat) (m : PelMsg) (pw : Nat := 4) : State :=
  let w := s.tree t
  let s1 := s.emit (.pel t dst type m)
  let dev := kget 0 w.rankMap dst / 4
  if w.intra || decide (dev = s.lnkId.toNat) then s1
  else if (s.port w.eng).st = .down ∨ (s.port w.eng).st = .disabled then s
  else
    let data := pelGranules type m pw
    let vc := if type = 6 then 3 else 2
    let l : LinkMsg := {
      did := BitVec.ofNat 10 dev, sid := s.lnkId, op := if type = 6 then 7#4 else 6#4, nslot := 0, cls := 0, xid := 0, addr := 0,
      ctag := 0, arg := BitVec.ofNat 64 data.length, data := data }
    (s1.updPort w.eng (fun p => { p with queue := kset [] p.queue (vc * 2) (kget [] p.queue (vc * 2) ++ [l]) })).drainPort w.eng

/-- A message of a node with the header of Table PEL-2. -/
def State.pelMsg (s : State) (t : TreeId) (b r level : Nat) (x : Node) : PelMsg := {
  tree := t, bucket := BitVec.ofNat 12 b, src := Fin.ofNat 1024 r, level := BitVec.ofNat 4 level, arrived := 0
  step := s.stepc.step, fdig := x.fdig, missing := 0, bytes := [], codes := [], words := [], leaves := [] }

/-- Forward a message to every child of rank `r`, level descending (R340). -/
def State.pelDown (s : State) (t : Nat) (n r type : Nat) (m : PelMsg) (pw : Nat := 4) : State :=
  (childrenOf n r).reverse.foldl (fun s c =>
    s.pelSend t c type { m with level := BitVec.ofNat 4 (sendLevel c), src := if type = 5 then m.src else Fin.ofNat 1024 r } pw) s

/-! ### Children declared missing (R349, R352) -/

/-- Declare children missing at a node: one PEL_MISSING per bucket and step. -/
def State.declare (s : State) (t b d : Nat) (l : List Nat) : State :=
  match l with
  | [] => s
  | c :: _ =>
    let x := s.node t b d
    let s1 := if x.missSaid then s else s.pelEvent t b 0x0601 evDeadline c
    s1.setNode t b d { x with kidMiss := x.kidMiss ++ l, missSaid := true }

/-! ### EXP and SCALE (R344, R349) -/

/-- A lent tile that was IN-USE for the contribution is READY again (R200). -/
def State.dropLent (s : State) (t b d : Nat) : State :=
  let x := s.node t b d
  if x.tile then (s.setNode t b d { x with tile := false }).tileTo (x.gradA / 32 % 512) (x.gradA % 32) tReady else s

/-- The larger byte, block by block; a longer list keeps its rest. -/
def maxBytes : List Byte → List Byte → List Byte
  | [], l => l
  | l, [] => l
  | a :: l, b :: m => (if a.toNat < b.toNat then b else a) :: maxBytes l m

/-- The live blocks of agreed bytes: position among the unfrozen blocks and byte. -/
def liveBlocks (agreed : List Byte) : List (Nat × Byte) :=
  (agreed.zipIdx.filter (fun p => liveByte p.1)).map (fun p => (p.2, p.1))

/-- The leaf of a rank, once the bytes are agreed (R345). -/
def State.formLeaf (s : State) (t b d n r : Nat) : State :=
  let x := s.node t b d
  if x.own ≠ 0 ∨ bit x.xmiss r = true then s
  else
    let l := (liveBlocks x.agreed).map (fun p => leafCodes (x.x.getD p.1 []) (scaleByte p.2 n))
    let sat := (l.map (·.2)).sum
    (s.setNode t b d { x with leaf := some (l.map (·.1)), sat := x.sat + sat }).pelCount t 1 sat

/-- The sampled blocks of a node: position among the live blocks and block number (R355). -/
def State.sampledAt (s : State) (b : Nat) (x : Node) : List (Nat × Nat) :=
  if x.chk < 6 ∨ 12 < x.chk then [] else
  ((liveBlocks x.agreed).zipIdx.map (fun p => (p.2, x.unf.getD p.1.1 0))).filter (fun p =>
    isSampled s.stepc.step.toNat b p.2 x.chk)

/-- The rank sends its leaf codes of the sampled blocks to the root's checker (R355). -/
def State.sendCheck (s : State) (t : TreeId) (b d r : Nat) : State :=
  let x := s.node t.val b d
  match x.leaf with
  | none => s
  | some l =>
    let sm := s.sampledAt b x
    let es := sm.map (fun p => (p.2, l.getD p.1 []))
    if sm.isEmpty then s
    else if r = 0 then s.setNode t.val b d { x with checkIn := x.checkIn ++ [(0, es)] }
    else s.pelSend t.val 0 6 { s.pelMsg t b r 0 x with leaves := es }

/-! ### Updates (R348, R353, R356 to R360) -/

/-- Read a block of a buffer. -/
def State.readBuf (s : State) (t : Nat) (x : Node) (f : PFmt) (base b : Nat) : List F32 × Bool × State :=
  let r := s.pelRead t (base + b * 32 * f.width) (32 * f.width)
  if f = .mx8 then
    let q := r.2.2.pelRead t (base + 32 * x.nblk + b) 1
    (f.load r.1 (q.1.getD 0 0), r.2.1 || q.2.1, q.2.2)
  else (f.load r.1 0, r.2.1, r.2.2)

/-- Write a block of a buffer, with the count of values stored non-finite. -/
def State.writeBuf (s : State) (t : Nat) (x : Node) (f : PFmt) (base b : Nat) (l : List F32) (poison : Bool) : State :=
  if f = .none then s
  else
    let r := f.store l (Nat.xor x.seed (x.hyper.t % 2 ^ 32)) (b * 32)
    let s1 := s.pelWrite t (base + b * 32 * f.width) r.1 poison
    let s2 := if r.2.isEmpty then s1 else s1.pelWrite t (base + 32 * x.nblk + b) r.2 poison
    s2.pelCount t 5 (f.nonFinite r.1 r.2)

/-- Write PARAM and WCOPY of a block. -/
def State.writeParam (s : State) (t : Nat) (x : Node) (b : Nat) (l : List F32) (poison : Bool) : State :=
  (s.writeBuf t x x.pf x.paramA b l poison).writeBuf t x x.wf x.wcopyA b l poison

/-- Run the rule on a block; true when a state read met poison or failed. The new parameters come first. -/
def State.updateBlock (s : State) (t : Nat) (x : Node) (b : Nat) (g : List F32) : List F32 × Bool × State :=
  if x.rule = 0 then ([], false, s.writeBuf t x x.outf x.outA b g false)
  else
    let p := s.readBuf t x x.pf x.paramA b
    let m := p.2.2.readBuf t x x.mf x.mA b
    let v : List F32 × Bool × State := if x.rule = 2 then m.2.2.readBuf t x x.vf x.vA b else ([], false, m.2.2)
    let bad := p.2.1 || m.2.1 || v.2.1
    let h := x.hyper
    let new := g.zipIdx.map (fun q => updateElt h q.1 { p := p.1.getD q.2 0, m := m.1.getD q.2 0, v := v.1.getD q.2 0 })
    let s1 := v.2.2.writeParam t x b (new.map (·.p)) bad
    let s2 := s1.writeBuf t x x.mf x.mA b (new.map (·.m)) bad
    let s3 := if x.rule = 2 then s2.writeBuf t x x.vf x.vA b (new.map (·.v)) bad else s2
    (new.map (·.p), bad, s3)

/-- The unfrozen blocks with their agreed byte and, for a live one, its position among the live blocks. -/
def blockPlan : List Nat → List Byte → Nat → List (Nat × Byte × Nat)
  | b :: l, e :: m, j => (b, e, j) :: blockPlan l m (if liveByte e then j + 1 else j)
  | _, _, _ => []

/-- What the pass over the blocks gathers. -/
structure Pass1 where
  s : State
  /-- new parameters of the rank's blocks, for GATHER -/
  params : List (Nat × List F32) := []
  bad : Option Nat := none

/-- Block `p` of the plan is updated, by every rank or by its own (R353); with a RULE or MODE that Table PEL-4 does not assign
none is (DESIGN CHOICE, log 60). -/
def Node.moves (x : Node) (p : Nat × Byte × Nat) : Bool :=
  decide (x.rule ≤ 3) && decide (x.mode ≠ 3) && (decide (p.2.1 ≠ 0xFF) || x.zero)

/-- The rank updates block `p` of its plan (R359). -/
def Node.updates (x : Node) (n r : Nat) (p : Nat × Byte × Nat) : Bool :=
  x.moves p && (decide (x.mode = 0) || decide (p.1 * n / x.nblk = r))

/-- The spans of state that the update of a block reads. -/
def Node.reads (x : Node) (b : Nat) : List (Nat × Nat) :=
  let buf (f : PFmt) (a : Nat) : List (Nat × Nat) :=
    (a + b * 32 * f.width, 32 * f.width) :: (if f = .mx8 then [(a + 32 * x.nblk + b, 1)] else [])
  if x.rule = 0 then []
  else buf x.pf x.paramA ++ buf x.mf x.mA ++ (if x.rule = 2 then buf x.vf x.vA else [])

/-- The spans of state that the application of a RESULT with arrived count `a` reads. -/
def Node.stateSpans (x : Node) (n r a : Nat) : List (Nat × Nat) :=
  if a = 0 then []
  else ((blockPlan x.unf x.agreed 0).filter (x.updates n r)).flatMap (fun p => x.reads p.1)

/-- Apply the RESULT at a node that has the agreed bytes and a descriptor: every block that the rank updates (R359). -/
def State.applyBlocks (s : State) (t b d n r : Nat) (m : PelMsg) : State × List (Nat × List F32) :=
  let x := s.node t b d
  let plan := blockPlan x.unf x.agreed 0
  let held := if x.zero then 0 else plan.countP (fun p => decide (p.2.1 = 0xFF))
  if m.arrived = 0 then (s.setNode t b d { x with applied := true, held := held, status := 3 }, [])
  else
    let a := plan.foldl (fun (a : Pass1) p =>
      if !x.updates n r p then a
      else
        let g := if liveByte p.2.1 then gradOf ((m.codes.getD p.2.2 none)) (scaleByte p.2.1 n) m.arrived
          else List.replicate 32 0
        let u := a.s.updateBlock t x p.1 g
        { s := u.2.2, params := if x.rule = 0 then a.params else a.params ++ [(p.1, u.1)]
          bad := if u.2.1 then (match a.bad with
            | some i => some i
            | none => some p.1) else a.bad }) { s := s }
    let s1 := match a.bad with
      | some i => a.s.pelEvent t b 0x0605 evPoisoned i
      | none => a.s
    let st := if a.bad.isSome then 4 else if held ≠ 0 then 2 else 1
    (s1.setNode t b d { x with
      applied := true, held := held, status := st
      advance := decide (held = 0) && plan.any x.moves }, a.params)

/-! ### GATHER (R359) -/

/-- Stored bits of a parameter in PFMT, as GATHER carries it. -/
def paramWords (x : Node) (b : Nat) (l : List F32) : List (Nat × BitVec 32) :=
  let w := cutWords x.pf.width 32 (x.pf.store l (Nat.xor x.seed (x.hyper.t % 2 ^ 32)) (b * 32)).1
  w.zipIdx.map (fun p => (b * 32 + p.2, BitVec.ofNat 32 p.1))

/-- Write the blocks of a GATHER into PARAM and WCOPY of a rank that does not own them. -/
def State.writeGather (s : State) (t : Nat) (x : Node) (m : PelMsg) : State :=
  (List.range ((m.words.length + 31) / 32)).foldl (fun s i =>
    let ws := (m.words.drop (32 * i)).take 32
    match ws with
    | [] => s
    | (e, _) :: _ =>
      let bs := ws.flatMap (fun p => toBytes x.pf.width p.2.toNat)
      let s1 := (s.pelWrite t (x.paramA + e / 32 * 32 * x.pf.width) bs).pelCount t 5 (x.pf.nonFinite bs [])
      s1.writeBuf t x x.wf x.wcopyA (e / 32) (x.pf.load bs 0) false) s

/-- The shard of rank `q` comes down at the node: written unless it is its own, and forwarded. -/
def State.gatherDown (s : State) (t b d n r : Nat) (m : PelMsg) : State :=
  let x := s.node t b d
  let q := m.src.val
  let s1 := if q = r ∨ x.desc.isEmpty = true then s else s.writeGather t x m
  let s2 := s1.updNode t b d (fun x => { x with gathered := insertNat x.gathered q })
  s2.pelDown t n r 5 m x.pf.width

/-- A shard goes up at the node; at the root it turns round. -/
def State.gatherUp (s : State) (t b d n r : Nat) (m : PelMsg) : State :=
  let x := s.node t b d
  if r = 0 then s.gatherDown t b d n r m
  else (s.setNode t b d { x with gatherUp := insertNat x.gatherUp m.src.val }).pelSend t (parentOf r) 5
    { m with level := BitVec.ofNat 4 (sendLevel r) } x.pf.width

/-! ### RESULT (R348, R351) -/

/-- The rank applies the RESULT once it has it and the agreed bytes; a rank that never handed off reads its descriptor
now (R351). State outside the module's memory is asked for first, and a descriptor that cannot be read leaves nothing to
apply (log 47). -/
def State.tryApply (s : State) (t : TreeId) (b d n r : Nat) : State :=
  let x := s.node t.val b d
  match x.res with
  | none => s
  | some m =>
    if x.applied || !x.scaled then s
    else
      let x1 : Node := if x.reading || x.got then x else { x with base := (s.tree t.val).table }
      let q := if x1.got then (x1, s) else s.readDesc t.val b d x1
      let s1 := q.2.setNode t.val b d q.1
      if !q.1.got then s1
      else if q.1.desc.isEmpty then s1.setNode t.val b d { q.1 with applied := true }
      else
        let h := s1.pelAsk t.val (q.1.stateSpans n r m.arrived)
        if !h.2 then h.1
        else
          let a := h.1.applyBlocks t.val b d n r m
          let s2 := a.1.pelForget t.val
          if q.1.mode ≠ 1 ∨ m.arrived = 0 then s2
          else
            let y := s2.node t.val b d
            let g : PelMsg := { s2.pelMsg t b r 0 y with
              words := a.2.flatMap (fun p => paramWords y p.1 p.2) }
            s2.gatherUp t.val b d n r g

/-! ### The sampled check (R355) -/

/-- The partial of rank `r` over `l` levels, rebuilt from the leaves: none where no rank of it has one. -/
def rebuild (n : Nat) (leaf : Nat → Option (List Byte)) : Nat → Nat → Option (Option (List Byte))
  | 0, r => (leaf r).map asPartial
  | l + 1, r =>
    let a := rebuild n leaf l r
    let c := if r + 2 ^ l < n then rebuild n leaf l (r + 2 ^ l) else none
    match a, c with
    | none, c => c
    | a, none => a
    | some p, some q => some (combine p q).1

/-- Judge one sampled block: counted, and reported when the root's partial differs; abandoned when a leaf is absent. -/
def State.judge (s : State) (t n : Nat) (k : PelChk) (p : Nat × Option (List Byte)) : State :=
  let leafOf (r : Nat) : Option (List Byte) :=
    if bit k.missing r then none
    else (k.leaves.find? (fun e => decide (e.1 = r))).bind (fun e => (e.2.find? (fun q => decide (q.1 = p.1))).map (·.2))
  if (List.range n).any (fun r => !bit k.missing r && (leafOf r).isNone) then s.pelCount t 3
  else
    let s1 := s.pelCount t 2
    if (rebuild n leafOf (clog2 n) 0).join = p.2 then s1
    else (s1.pelCount t 4).raise (.pel (s.tree t).eng) 0x40 0x0604 evPoisoned (locAt t k.bucket k.step.toNat) p.1

/-- Every needed rank has sent its leaves. -/
def PelChk.full (n : Nat) (k : PelChk) : Bool :=
  (List.range n).all (fun r => bit k.missing r || k.leaves.any (fun e => decide (e.1 = r)))

/-- Finish the checks that `go` names. -/
def State.runChecks (s : State) (t n : Nat) (go : PelChk → Bool) : State :=
  let w := s.tree t
  (w.checks.filter go).foldl (fun s k => k.blocks.foldl (fun s p => s.judge t n k p) s)
    (s.setTree t { w with checks := w.checks.filter (fun k => !go k) })

/-- The root has formed its RESULT: its sampled blocks wait for their leaves. -/
def State.openCheck (s : State) (t b d n : Nat) (m : PelMsg) : State :=
  let x := s.node t b d
  let sm := s.sampledAt b x
  if sm.isEmpty || decide (m.arrived = 0) then s
  else
    let k : PelChk := {
      bucket := b, step := s.stepc.step, blocks := sm.map (fun p => (p.2, m.codes.getD p.1 none)), missing := m.missing
      leaves := x.checkIn, at_ := s.count 0x40 }
    (s.updTree t (fun w => { w with checks := w.checks ++ [k] })).runChecks t n (PelChk.full n)

/-! ### DATA and RESULT (R346 to R349) -/

/-- A node takes the RESULT: it forwards it and applies it (R351). -/
def State.takeResult (s : State) (t : TreeId) (b d n r : Nat) (m : PelMsg) : State :=
  let s1 := (s.updNode t.val b d (fun x => { x with res := some m })).pelDown t.val n r 4 m
  s1.tryApply t b d n r

/-- The partial sums, arrived count and saturations of a node: its own leaf, then each child's DATA, level ascending. -/
def nodeData (x : Node) (n r : Nat) : Option (List (Option (List Byte))) × Nat × Nat × BitVec 1024 :=
  let leaf0 : Option (List (Option (List Byte))) := x.leaf.map (fun l => l.map asPartial)
  (childrenOf n r).foldl (fun (a : Option (List (Option (List Byte))) × Nat × Nat × BitVec 1024) c =>
    match x.dataIn.find? (fun p => decide (p.1 = c)) with
    | none => (a.1, a.2.1, a.2.2.1, if x.kidMiss.contains c then a.2.2.2 ||| rankBits (subtreeOf n c) else a.2.2.2)
    | some (_, m) =>
      if x.kidMiss.contains c then a
      else
        match a.1 with
        | none => (some m.codes, a.2.1 + m.arrived, a.2.2.1, a.2.2.2 ||| m.missing)
        | some p =>
          let q := combineAll p m.codes
          (some q.1, a.2.1 + m.arrived, a.2.2.1 + q.2, a.2.2.2 ||| m.missing))
    (leaf0, b2n leaf0.isSome, 0, x.xmiss &&& rankBits (subtreeOf n r))

/-- Send DATA, or form the RESULT at the root, once every awaited child has sent (R342). A rank whose own bit stands in the
SCALE sends none (R349). -/
def State.tryData (s : State) (t : TreeId) (b d n r : Nat) : State :=
  let x := s.node t.val b d
  let awaited := (childrenOf n r).filter (fun c => !x.kidMiss.contains c)
  if !x.scaled || x.dataSent || awaited.any (fun c => !x.dataIn.any (fun p => decide (p.1 = c))) then s
  else if r ≠ 0 ∧ bit x.xmiss r = true then s.setNode t.val b d { x with dataSent := true }
  else
    let q := nodeData x n r
    let m : PelMsg := { s.pelMsg t b r (sendLevel r) x with
      arrived := q.2.1, missing := q.2.2.2, codes := q.1.getD [] }
    let s1 := (s.setNode t.val b d { x with dataSent := true, sat := x.sat + q.2.2.1 }).pelCount t.val 1 q.2.2.1
    if r ≠ 0 then s1.pelSend t.val (parentOf r) 3 m
    else ((s1.openCheck t.val b d n m)).takeResult t b d n r m

/-- A node takes the SCALE: it forwards it, forms its leaf, sends its sampled leaves and goes on to DATA. -/
def State.takeScale (s : State) (t : TreeId) (b d n r : Nat) (bytes : List Byte) (missing : BitVec 1024) : State :=
  let s1 := s.updNode t.val b d (fun x => { x with scaled := true, agreed := bytes, xmiss := missing })
  let m : PelMsg := { s1.pelMsg t b r 0 (s1.node t.val b d) with bytes := bytes, missing := missing }
  let s2 := (s1.pelDown t.val n r 2 m).formLeaf t.val b d n r
  ((s2.sendCheck t b d r).tryData t b d n r).tryApply t b d n r

/-- Send EXP, or agree the bytes at the root: `force` at the deadline (R342, R349, R354). -/
def State.tryExp (s : State) (t : TreeId) (b d n r : Nat) (force : Bool) : State :=
  let x := s.node t.val b d
  let kids := childrenOf n r
  let here (c : Nat) : Bool := x.expIn.any (fun p => decide (p.1 = c))
  if x.expSent || !x.started || (!force && ((decide (2 ≤ x.own) && !x.absent) || kids.any (fun c => !here c))) then s
  else
    let odd := if x.desc.isEmpty then [] else
      (x.expIn.filter (fun p => decide (p.2.fdig ≠ x.fdig))).map (·.1)
    let good := x.expIn.filter (fun p => !odd.contains p.1)
    let lost := kids.filter (fun c => !good.any (fun p => decide (p.1 = c)))
    let s1 := odd.foldl (fun s c => s.pelEvent t.val b 0x0603 evConfig c) s
    let s2 := ((s1.setNode t.val b d { x with expSent := true, reading := false }).dropLent t.val b d).declare t.val b d lost
    let own := if x.own = 0 then x.exps else List.replicate x.unf.length 0
    let bytes := good.foldl (fun l p => maxBytes l p.2.bytes) own
    let miss0 : BitVec 1024 := if x.own = 0 then 0 else rankBits [r]
    let miss := lost.foldl (fun m c => m ||| rankBits (subtreeOf n c)) (good.foldl (fun m p => m ||| p.2.missing) miss0)
    if r = 0 then s2.takeScale t b d n r bytes miss
    else s2.pelSend t.val (parentOf r) 1 { s2.pelMsg t b r (sendLevel r) x with bytes := bytes, missing := miss }

/-! ### Hand-offs (R319, R321 to R324, R341, R362) -/

/-- The end of a hand-off's work: the first of a bucket fixes cycle 0, and EXP may leave (R341). -/
def State.handDone (s : State) (t : TreeId) (b d n r : Nat) : State :=
  ((s.updNode t.val b d (fun x => { x with
    started := true, reading := false, cyc0 := if x.started then x.cyc0 else s.count 0x40 })).dropLent t.val b d).tryExp
      t b d n r false

/-- A hand-off is rejected (R362, R363). -/
def State.handReject (s : State) (t b d : Nat) : State :=
  ((s.updNode t b d (fun x => { x with own := 3 })).pelEvent t b 0x0606 evConfig d).pelNotify t b d 2

/-- What keeps a hand-off from being taken: 0 none, the detail of PEL_HANDOFF, 4 a blocked partition, 5 too late. A blocked
partition goes before the engine's own reasons (R487); the first hand-off of a bucket is taken, though its SCALE has come (R341). -/
def State.handCheck (s : State) (w : Writer) (t b d : Nat) : Nat :=
  let tr := s.tree t
  let barred : Bool := match w with
    | .thread k => decide ((s.thr k.val).pass ≠ .upd) && decide ((s.thr k.val).pass ≠ .sys)
    | _ => false
  if tr.en && bit s.gear.blocked tr.part then 4
  else if barred then 1
  else if !tr.en || (tr.rank d).isNone then 3
  else if tr.applied.contains (b * 4 + d) || (s.node t b d).res.isSome then 2
  else if (s.node t b d).expSent || ((s.node t b d).scaled && (s.node t b d).started) then 5
  else 0

/-- The event of a hand-off that is not taken (R319, R324, R418). -/
def State.handRefuse (s : State) (w : Writer) (t b why : Nat) : State :=
  match why with
  | 1 => s.pelEvent t b 0x0607 evConfig (1 + (match w with
      | .thread k => k.val * 256
      | _ => 0))
  | 2 => s.pelEvent t b 0x0607 evConfig 2
  | 3 => s.pelEvent t b 0x0607 evConfig 3
  | 4 => s.pelEvent t b 0x0A03 evConfig 3
  | _ => s

/-- The element words of a block of the contribution, from memory or a lent tile: x, poison (R341). -/
def State.readGrad (s : State) (t : Nat) (x : Node) (b : Nat) : List F32 × Bool × State :=
  let w := x.gw
  let form (l : List Byte) : List F32 := (cutWords w 32 l).map (fun c =>
    rne32 ((val32 x.gscale).mul (val32 (if x.gfmt then BitVec.ofNat 32 (c * 2 ^ 16) else BitVec.ofNat 32 c))))
  if x.gtile then
    let tl := s.tile (x.gradA / 32 % 512) (x.gradA % 32)
    let o := x.gradA / 2 ^ 14 % 32 * 128 + b * 32 * w
    let row : Row := kget {} tl.rows (o / 128)
    let bs := (List.range (32 * w)).map (fun i => BitVec.ofNat 8 (fld (kget ({} : Row) tl.rows ((o + i) / 128)).data ((o + i) % 128 * 8 + 7) ((o + i) % 128 * 8)))
    (form bs, (granules (o % 128) (32 * w)).any (fun g => bit row.poison (g % 4)), s)
  else
    let r := s.pelRead t (x.gradA + b * 32 * w) (32 * w)
    (form r.1, r.2.1, r.2.2)

/-- The contribution is read whole and checked (R321, R322). -/
def State.contribution (s : State) (t b d : Nat) (x : Node) : State :=
  let a := x.unf.foldl (fun (a : List (List F32) × Bool × State) i =>
    let r := a.2.2.readGrad t x i
    (a.1 ++ [r.1], a.2.1 || r.2.1, r.2.2)) ([], false, s)
  if a.2.1 then
    ((a.2.2.setNode t b d { x with own := 2, x := [], exps := [] }).pelCount t 6).pelNotify t b d 1
  else a.2.2.setNode t b d { x with own := 0, x := a.1, exps := a.1.map expByte }

/-- The descriptor of a hand-off is read (R341). -/
def State.handRead (s : State) (t b d : Nat) : State :=
  let q := s.readDesc t b d (s.node t b d)
  q.2.setNode t b d q.1

/-- The lent tile of a hand-off is taken once it is READY (R200); a read wakes no bank (R202). -/
def State.takeLent (s : State) (t b d : Nat) : State :=
  let x := s.node t b d
  let c := x.gradA / 32 % 512
  let j := x.gradA % 32
  if !x.got || x.rej || !x.gtile || x.absent || x.tile || decide (s.tileFit x ≠ 0) then s
  else if s.tileSt c j = tReady then (s.setNode t b d { x with tile := true }).tileTo c j tInUse
  else s

/-- The spans of a contribution. -/
def Node.gradSpans (x : Node) : List (Nat × Nat) :=
  if x.gtile then [] else x.unf.map (fun i => (x.gradA + i * 32 * x.gw, 32 * x.gw))

/-- The event of a tile whose LENT is 0, of the tree's engine (R200, R362). -/
def State.notLent (s : State) (t b : Nat) (x : Node) : State :=
  s.raise (.pel (s.tree t).eng) 0x40 0x0304 evConfig (x.gradA / 32 % 512 + x.gradA % 32 * 2 ^ 20) b

/-- A hand-off whose descriptor has been read is checked, and its contribution read once its tile is IN-USE and its bytes are
at hand (R321, R322, R323, R362). -/
def State.handEnd (s : State) (t : TreeId) (b d n r : Nat) : State :=
  let x := s.node t.val b d
  if !x.reading || !x.got then s
  else
    let fit := if x.gtile then s.tileFit x else 0
    if x.rej || s.overStg t.val x || decide (fit ≠ 0) then
      ((if fit = 2 then s.notLent t.val b x else s).handReject t.val b d).handDone t b d n r
    else if x.absent then s.handDone t b d n r
    else if x.gtile && !x.tile then s
    else
      let q := s.pelAsk t.val x.gradSpans
      if !q.2 then q.1 else ((q.1.contribution t.val b d x).pelForget t.val).handDone t b d n r

/-- The node of die `d` has passed a deadline of `lim` HCLK cycles, whose last cycle still counts (R39, Table CLK-4). -/
def State.pastDl (s : State) (t b d : Nat) (lim : BitVec 32) : Bool :=
  let x := s.node t b d
  x.started && decide (lim.toNat < (s.count 0x40 - x.cyc0).toNat)

/-- Behind DL_RES, one event for a SCALE or RESULT that has not come (R343). -/
def State.noResult (s : State) (t b d : Nat) : State :=
  let x := s.node t b d
  if !s.pastDl t b d (s.tree t).dlRes || (x.scaled && x.res.isSome) || x.resSaid then s
  else (s.setNode t b d { x with resSaid := true }).pelEvent t b 0x0602 evDeadline (if x.scaled then 2 else 1)

/-- Deadlines that have passed at a node take effect: absent children are missing, and an absent SCALE or RESULT is reported
(R343, R349). -/
def State.pelDue (s : State) (t : TreeId) (b d n r : Nat) : State :=
  let s1 := if s.pastDl t.val b d (s.tree t.val).dlExp then s.tryExp t b d n r true else s
  let x := s1.node t.val b d
  let s2 := if s1.pastDl t.val b d (s.tree t.val).dlData && !x.dataSent then
      (let lost := (childrenOf n r).filter (fun c =>
        !x.kidMiss.contains c && !x.dataIn.any (fun p => decide (p.1 = c)))
       (s1.declare t.val b d lost).tryData t b d n r)
    else s1
  s2.noResult t.val b d

/-- A write of PEL_HANDOFFt, behind the deadlines that have passed (R322). -/
def State.handoff (s0 : State) (w : Writer) (t : TreeId) (v : Word) (absent : Bool) : State :=
  let b := fld v 11 0
  let d := fld v 14 13
  let s := match (s0.tree t.val).rank d with
    | some r => s0.pelDue t b d (s0.tree t.val).n r
    | none => s0
  let why := s.handCheck w t.val b d
  if why ≠ 0 then s.handRefuse w t.val b why
  else
    let s1 := (s.dropLent t.val b d).updNode t.val b d (fun x => { x with
      reading := true, absent := absent, got := false, base := (s.tree t.val).table, own := if absent then 1 else 4, x := [], exps := [] })
    let s2 := s1.handRead t.val b d
    if absent then s2.handEnd t b d ((s.tree t.val).n) (((s.tree t.val).rank d).getD 0) else s2.takeLent t.val b d

/-- HANDOFF (R341): the write of a hand-off without ABSENT. -/
def execHandoff (w : Writer) (tr : TreeId) (v : Word) (s : State) : Res := .next (s.byReg (s.handoff w tr v false))
/-- HANDOFF_ABSENT (R323): the write of a hand-off with ABSENT. -/
def execHandoffAbsent (w : Writer) (tr : TreeId) (v : Word) (s : State) : Res := .next (s.byReg (s.handoff w tr v true))

/-- HANDOFF_CHECKED (R341, R321, R322, R362): the descriptor is read and checked, and the contribution read, checked, scaled and
given its exponent bytes. What stands outside the module's memory, or a lent tile that is not READY or whose bank sleeps, is
waited for. -/
def execHandoffChecked (tr : TreeId) (b : BitVec 12) (d : DieId) (s : State) : Res :=
  let t := tr.val
  let n := (s.tree t).n
  let r := ((s.tree t).rank d.val).getD 0
  .next (if !(s.node t b.toNat d.val).reading then s
    else
      let s0 := s.pelDue tr b.toNat d.val n r
      let x := s0.node t b.toNat d.val
      if !x.reading then s0
      else
        let s1 := if x.got then s0 else s0.handRead t b.toNat d.val
        let y := s1.node t b.toNat d.val
        if y.got && y.gtile && !y.tile && !y.rej && !y.absent && decide (s1.tileFit y = 0) then s1.takeLent t b.toNat d.val
        else s1.handEnd tr b.toNat d.val n r)

/-! ### Arrival of messages (R350) -/

/-- The RESULT of a check was formed more than DL_CHK cycles ago (R355). -/
def State.chkPast (s : State) (t : Nat) (k : PelChk) : Bool := decide ((s.tree t).dlChk.toNat < (s.count 0x40 - k.at_).toNat)

/-- A CHECK arrives at the root: its leaves join the check of its bucket or wait for the RESULT. One past DL_CHK, of a closed
bucket, or of a child declared missing is late (R350, R355). -/
def State.checkArrive (s0 : State) (t b d n : Nat) (m : PelMsg) : State :=
  let s := s0.runChecks t n (s0.chkPast t)
  let tr := s.tree t
  let x := s.node t b d
  let c := m.src.val
  let mine (k : PelChk) : Bool := decide (k.bucket = b) && decide (k.step = m.step)
  let lost (k : PelChk) : Bool := (childrenOf n 0).contains c && bit k.missing c
  match tr.checks.find? mine with
  | some k =>
    if lost k then s.pelCount t 0
    else (s.setTree t { tr with checks := tr.checks.map (fun k =>
      if mine k then { k with leaves := k.leaves ++ [(c, m.leaves)] } else k) }).runChecks t n (PelChk.full n)
  | none =>
    if tr.applied.contains (b * 4 + d) || x.res.isSome || x.kidMiss.contains c then s.pelCount t 0
    else s.setNode t b d { x with checkIn := x.checkIn ++ [(c, m.leaves)] }

/-- The bucket is closed at the node, or the tree has no rank there: nothing of the message is used. -/
def State.pelClosed (s : State) (t b d : Nat) : Bool := (s.tree t).applied.contains (b * 4 + d)

/-- Deliver a message of the current step at die `d`: late ones are counted, those behind a deadline among them (R39, R350). -/
def State.pelMessage (s0 : State) (type d : Nat) (m : PelMsg) : State :=
  let t := m.tree
  let b := m.bucket.toNat
  let s := match (s0.tree t.val).rank d with
    | some r => s0.pelDue t b d (s0.tree t.val).n r
    | none => s0
  let tr := s.tree t.val
  let x := s.node t.val b d
  let n := tr.n
  let c := m.src.val
  let late := s.pelCount t.val 0
  match tr.rank d with
  | none => s
  | some r =>
    match type with
    | 1 =>
      if !(childrenOf n r).contains c then s
      else if s.pelClosed t.val b d || x.expSent || x.scaled || x.kidMiss.contains c || x.expIn.any (fun p => decide (p.1 = c)) then late
      else (s.setNode t.val b d { x with expIn := x.expIn ++ [(c, m)] }).tryExp t b d n r false
    | 2 =>
      if r = 0 then s
      else if s.pelClosed t.val b d || x.scaled then late
      else s.takeScale t b d n r m.bytes m.missing
    | 3 =>
      if !(childrenOf n r).contains c then s
      else if s.pelClosed t.val b d || x.dataSent || x.kidMiss.contains c || x.dataIn.any (fun p => decide (p.1 = c)) then late
      else (s.setNode t.val b d { x with dataIn := x.dataIn ++ [(c, m)] }).tryData t b d n r
    | 4 =>
      if r = 0 then s
      else if s.pelClosed t.val b d || x.res.isSome then late
      else s.takeResult t b d n r m
    | 5 =>
      let up := (subtreeOf n r).contains c && decide (c ≠ r) && !x.gatherUp.contains c
      if s.pelClosed t.val b d then late
      else if up then s.gatherUp t.val b d n r m
      else if x.gathered.contains c then late
      else s.gatherDown t.val b d n r m
    | _ =>
      if r ≠ 0 then s else s.checkArrive t.val b d n m

/-- Deliver the early messages of a tree whose step has come; those that have become late are counted. -/
def State.pelEarly (s : State) (t : Nat) : Nat → State
  | 0 => s
  | n + 1 =>
    let tr := s.tree t
    match tr.early.find? (fun e => decide (e.2.2.step.toNat ≤ s.stepc.step.toNat)) with
    | none => s
    | some e =>
      let s1 := s.setTree t { tr with early := tr.early.erase e }
      let s2 := if e.2.2.step = s.stepc.step then s1.pelMessage e.2.1 e.1 e.2.2 else s1.pelCount t 0
      s2.pelEarly t n

/-- Early messages of every tree are delivered when their step has come. -/
def State.pelSettle (s : State) : State :=
  (List.range 8).foldl (fun s t => s.pelEarly t (s.tree t).early.length) s

/-- A message arrives (R350): one of an earlier step is late, one of a later step waits until this module reaches it. -/
def State.pelArrive (s : State) (type d : Nat) (m : PelMsg) : State :=
  let t := m.tree.val
  if !(s.tree t).en then s
  else if m.step.toNat < s.stepc.step.toNat then s.pelCount t 0
  else if s.stepc.step.toNat < m.step.toNat then s.updTree t (fun w => { w with early := w.early ++ [(d, type, m)] })
  else (s.pelMessage type d m).pelSettle

/-- The message of a command is one of Table PEL-1; the lists it carries have their shape. -/
def pelExec (type : Nat) (d : DieId) (m : PelMsg) (s : State) : Res := .next (s.pelArrive type d.val m)

/-- EXP (R344, R349, R354). -/
def execPelExp (d : DieId) (m : PelMsg) (s : State) : Res := pelExec 1 d m s
/-- SCALE (R344, R345). -/
def execPelScale (d : DieId) (m : PelMsg) (s : State) : Res := pelExec 2 d m s
/-- DATA (R346, R347). -/
def execPelData (d : DieId) (m : PelMsg) (s : State) : Res := pelExec 3 d m s
/-- RESULT (R348, R351). -/
def execPelResult (d : DieId) (m : PelMsg) (s : State) : Res := pelExec 4 d m s
/-- GATHER (R359). -/
def execPelGather (d : DieId) (m : PelMsg) (s : State) : Res := pelExec 5 d m s
/-- CHECK (R355). -/
def execPelCheck (d : DieId) (m : PelMsg) (s : State) : Res := pelExec 6 d m s

/-! ### Deadlines (R343, R349, R355) -/

/-- DL_EXP_EXPIRY (R39, R349): behind cycle DL_EXP, absent children are missing and EXP is sent with what is here. -/
def execDlExpExpiry (tr : TreeId) (b : BitVec 12) (d : DieId) (s : State) : Res :=
  .next (match (s.tree tr.val).rank d.val with
    | none => s
    | some r =>
      if s.pastDl tr.val b.toNat d.val (s.tree tr.val).dlExp then s.tryExp tr b.toNat d.val (s.tree tr.val).n r true else s)

/-- DL_DATA_EXPIRY (R39, R349): behind cycle DL_DATA, children whose DATA has not come are missing. -/
def execDlDataExpiry (tr : TreeId) (b : BitVec 12) (d : DieId) (s : State) : Res :=
  let x := s.node tr.val b.toNat d.val
  .next (match (s.tree tr.val).rank d.val with
    | none => s
    | some r =>
      if !s.pastDl tr.val b.toNat d.val (s.tree tr.val).dlData || x.dataSent then s
      else
        let n := (s.tree tr.val).n
        let lost := (childrenOf n r).filter (fun c =>
          !x.kidMiss.contains c && !x.dataIn.any (fun p => decide (p.1 = c)))
        (s.declare tr.val b.toNat d.val lost).tryData tr b.toNat d.val n r)

/-- DL_RES_EXPIRY (R343): the event, once, names what is awaited, and the node goes on waiting. -/
def execDlResExpiry (tr : TreeId) (b : BitVec 12) (d : DieId) (s : State) : Res :=
  .next (s.noResult tr.val b.toNat d.val)

/-- DL_CHK_EXPIRY (R355): checks whose leaves have not come in time are abandoned. -/
def execDlChkExpiry (tr : TreeId) (b : BitVec 12) (d : DieId) (s : State) : Res :=
  .next (if (s.tree tr.val).rank d.val = some 0 then
      s.runChecks tr.val (s.tree tr.val).n (fun k => decide (k.bucket = b.toNat) && s.chkPast tr.val k)
    else s)

/-! ### Application (R361, R363, R364, R325) -/

/-- The bucket's last write at a rank may be accepted: the updates are written and, in SHARDED mode, every shard. -/
def Node.finished (x : Node) (n : Nat) : Bool :=
  match x.res with
  | none => false
  | some m => x.applied && (x.desc.isEmpty || decide (x.mode ≠ 1) || decide (m.arrived = 0) || decide (x.gathered.length = n))

/-- OWN of the result (Table PEL-4): a clean contribution that the RESULT names missing was late. -/
def Node.ownCode (x : Node) (r : Nat) (m : PelMsg) : Nat := if x.own = 0 ∧ bit m.missing r = true then 4 else x.own

/-- Write the result fields of the descriptor, RESULT last (R361). -/
def State.writeResult (s : State) (t b d r : Nat) (x : Node) (m : PelMsg) : State :=
  let a := x.descAt b d
  let ctr := if x.advance then (x.counter + 1) % 2 ^ 32 else x.counter
  let s1 := s.pelWrite t (a + 0x80) (toBytes 4 ctr)
  let s2 := s1.pelWrite t (a + 0x90) (toBytes 4 x.held ++ toBytes 4 (min x.sat (2 ^ 32 - 1)))
  let s3 := s2.pelWrite t (a + 0x100) (toBytes 128 m.missing.toNat ++ toBytes 128 x.xmiss.toNat)
  s3.pelWrite t (a + 0x88)
    (toBytes 8 (s.stepc.step.toNat + x.status * 2 ^ 32 + x.ownCode r m * 2 ^ 36 + m.arrived * 2 ^ 39))

/-- BUCKET_APPLIED (R361, R363, R364, R325): the last of the updates is accepted, the result is written, and once that is
accepted ASEM is signalled and the notification raised; a bucket finished at every rank of the module counts toward the
fence. -/
def execBucketApplied (tr : TreeId) (b : BitVec 12) (d : DieId) (s : State) : Res :=
  let t := tr.val
  .next (match (s.tree t).rank d.val, (s.node t b.toNat d.val).res with
    | some r, some m =>
      let s0 := s.tryApply tr b.toNat d.val (s.tree t).n r
      let x := s0.node t b.toNat d.val
      let s1 := if x.desc.isEmpty || x.wrote then s0
        else (s0.writeResult t b.toNat d.val r x m).setNode t b.toNat d.val { x with wrote := true }
      if !x.finished (s.tree t).n || (!x.wrote && s0.pelWrites t) then s0
      else if s1.pelWrites t then s1
      else
        let s2 := if !x.desc.isEmpty && x.asen then s1.signal (0xC000 + t) x.asem 1 else s1
        let s3 := if !x.desc.isEmpty && x.nen then s2.pelNotify t b.toNat d.val 3 else s2
        let s4 := (s3.dropLent t b.toNat d.val).updTree t (fun w => { w with
          nodes := kerase w.nodes (b.toNat * 4 + d.val)
          applied := insertNat w.applied (b.toNat * 4 + d.val) })
        let w := s4.tree t
        let all := (List.range 4).all (fun e => (w.rank e).isNone || w.applied.contains (b.toNat * 4 + e))
        (if all then s4.bucketDone t else s4).pelSettle
    | _, _ => s)

end Sys2Proof.Machine
end

