-- ==== Sys2Proof/Machine/Gearing.lean ====
section
/-! DEFINITION. Loads of gearing images (R412 to R422): GO and ABORT, validation, quiescence, apply, the stored image at
start-up, and MEM_READY (R475). -/

namespace Sys2Proof.Machine

/-! ### Reports -/

/-- The state in which a load leaves the unit when it ends without an apply. -/
def Gear.rest (g : Gear) : GState := if g.image.isSome then .active else .noImage

/-- GEAR_RESULT0 of a rejection. -/
def Rej.word (r : Rej) : Word := BitVec.ofNat 64 (r.off * 2 ^ 32 + r.bit * 2 ^ 24 + r.sid * 2 ^ 16 + r.code)

/-- A load is decided: RESULT1 counts it. -/
def Gear.decided (g : Gear) (r0 : Word) (off2 : Nat) : Gear :=
  { g with result0 := r0, result1 := BitVec.ofNat 64 (off2 * 2 ^ 32 + (fld g.result1 31 0 + 1) % 2 ^ 32) }

/-- GEAR_RESULT0 and 1 are written and GEAR_REJECT is raised (R413). -/
def State.gearReject (s : State) (r : Rej) : State :=
  ({ s with gear := s.gear.decided r.word r.off2 } : State).raise .sc 0x80 0x0A01 evConfig 0 r.word.toNat

/-- The load under way ends; any block is lifted. -/
def State.gearEnd (s : State) : State :=
  { s with gear := { s.gear with
      st := s.gear.rest, loading := none, waitp := 0, blocked := 0, tandem := false, store := false, flash := false } }

/-! ### Quiescence (R416, R417) -/

/-- Words `[lo, hi)` of a section differ between two images. -/
def secDiff (a b : Image) (sid lo hi : Nat) : Bool :=
  (List.range ((hi - lo) / 8)).any (fun k => decide (secWord a sid (lo + 8 * k) ≠ secWord b sid (lo + 8 * k)))

/-- Something other than the records that name a partition differs (R416). The PROT in effect counts, CHAL apart. -/
def State.globalDiff (s : State) (old new : Image) : Bool :=
  secDiff old new 3 0 0x280 || secDiff old new 4 0 0x240 || secDiff old new 5 0 0xA200 || secDiff old new 7 0 0x80
    || secDiff old new 8 0x2540 0x2D80 || secDiff old new 9 0 0x80
    || (imgHas new 10 && (List.range (0x430 / 8)).any (fun k => s.protDiffers new (0x10 + 8 * k)))

/-- Core `c`'s records differ. -/
def coreDiff (old new : Image) (c : Nat) : Bool :=
  secDiff old new 2 (c * 0x40) (c * 0x40 + 0x40) || decide (secByte old 8 c ≠ secByte new 8 c)
    || secDiff old new 8 (0x140 + c * 0x20) (0x160 + c * 0x20)

/-- Partition `p` is affected by a record: the record differs and names `p` before or after. -/
def named (diff : Bool) (a b p : Nat) : Bool := diff && (decide (a = p) || decide (b = p))

/-- Partition `p` is affected by its own records (R416). -/
def partAffected (old new : Image) (p : Nat) : Bool :=
  secDiff old new 1 (p * 0x100) (p * 0x100 + 0x100)
    || (List.range 288).any (fun c => named (coreDiff old new c) (imgCorePart old c) (imgCorePart new c) p)
    || (List.range 10752).any (fun x =>
      let a := secWord old 4 (ctxAt x)
      let b := secWord new 4 (ctxAt x)
      named (decide (a ≠ b)) (fld a 4 3) (fld b 4 3) p)
    || (List.range 8).any (fun t => named (secDiff old new 6 (t * 0x20) (t * 0x20 + 0x20))
        (fld (secWord old 6 (t * 0x20)) 9 8) (fld (secWord new 6 (t * 0x20)) 9 8) p)
    || (List.range 16).any (fun q => named (secDiff old new 7 (0x80 + q * 16) (0x90 + q * 16)) (imgPool old q).part (imgPool new q).part p)

/-- The affected partitions of a new image (R416); with no image in effect, those it enables. -/
def State.affected (s : State) (new : Image) : BitVec 4 :=
  (List.range 4).foldl (fun m p => putBit m p (match s.gear.image with
    | none => imgPartEn new p
    | some old =>
      partAffected old new p || (s.globalDiff old new && (imgPartEn old p || imgPartEn new p)))) 0

/-- The image changes nothing (R416). -/
def State.changesNothing (s : State) (new : Image) : Bool :=
  match s.gear.image with
  | none => false
  | some old => !s.globalDiff old new && (List.range 4).all (fun p => !partAffected old new p)

/-- A bucket of the tree lies between its first hand-off, at any rank of the module, and its application at all of them (R417). -/
def Tree.busy (t : Tree) : Bool :=
  let begun := t.applied ++ (t.nodes.filter (fun q => q.2.reading || q.2.started || decide (q.2.own ≠ 4))).map (·.1)
  begun.any (fun k => (List.range 4).any (fun d => (t.rank d).isSome && !t.applied.contains (k / 4 * 4 + d)))

/-- Partition `p` is quiescent (R417). -/
def State.quiescent (s : State) (p : Nat) : Bool :=
  s.threads.all (fun q => decide ((s.core (coreOf q.1)).part ≠ p) || decide (q.2.st ≠ .running))
    && s.ctxs.all (fun q => decide (q.2.part ≠ p) || decide (q.2.st = .idle) || decide (q.2.st = .unallotted))
    && (List.range 16).all (fun k =>
      let x := s.pool k
      !x.en || decide (x.part ≠ p) || ((s.queuedJobs k).isEmpty && decide (x.busy ≤ s.vnow)))
    && (List.range 8).all (fun t => !(s.tree t).en || decide ((s.tree t).part ≠ p) || !(s.tree t).busy)

/-- GEAR_STATE.WAITP: affected partitions that are not quiescent (R418). -/
def State.waitp (s : State) : Nat :=
  if s.gear.st = .waiting then
    (List.range 4).foldl (fun n p => n + (if bit s.gear.waitp p && !s.quiescent p then 2 ^ p else 0)) 0
  else 0

/-- Every affected partition is quiescent. -/
def State.allQuiet (s : State) : Bool := (List.range 4).all (fun p => !bit s.gear.waitp p || s.quiescent p)

/-! ### The end of an apply (R419, R421, R415) -/

/-- SHA-512 digest of an image's signed bytes, first 8 bytes. -/
def imgDigest (i : Image) : Word := BitVec.ofNat 64 (Config.sha512 (imgSigned i)).toNat

/-- A fresh challenge (R421). -/
def State.newChal (s : State) : State :=
  let a := s.drawn
  let s1 := s.draw
  { s1.draw with gear := { s1.gear with chal := s1.drawn ++ a } }

/-- The image has been applied: it is in effect, counted, stored with STORE in the copy that does not hold the newest contents
(R444), and reported. -/
def State.gearActive (s : State) (i : Image) : State :=
  let g := (s.gear.decided 0 0)
  let g1 : Gear := { g with
    st := .active, seq := g.seq + 1, active := imgDigest i, image := some i, stored := if g.store then some i else g.stored
    storedOld := if g.store then g.stored else g.storedOld, storeSeq := if g.store then g.storeSeq + 1 else g.storeSeq
    loading := none, waitp := 0, blocked := 0, store := false, flash := false, tandem := false }
  let s1 : State := { s with gear := g1 }
  let s2 := if s.gear.tandem then s1.newChal else s1
  s2.raise .sc 0x80 0x0A02 evConfig 0 g1.seq.toNat

/-! ### Loads -/

/-- GO of GEAR_LOAD_CTL (R415): a load begins, or is rejected with BUSY. -/
def State.gearGo (s : State) (v : Word) : State :=
  match s.gear.st with
  | .noImage => { s with gear := { s.gear with st := .validating, flash := bit v 3, store := bit v 1, loadLen := fld v 56 32 } }
  | .active => { s with gear := { s.gear with st := .validating, flash := bit v 3, store := bit v 1, loadLen := fld v 56 32 } }
  | _ => s.gearReject { code := 0x0B }

/-- ABORT (R418): a load in WAITING ends with ABORTED. -/
def State.gearWithdraw (s : State) : State :=
  if s.gear.st = .waiting then s.gearEnd.gearReject { code := 0x0C } else s

/-- A write of GEAR_LOAD_CTL; the SC serves it while its firmware runs, and ignores it while the module is held off (R470). -/
def State.gearCtl (s : State) (v : Word) : State :=
  if s.sec.phase ≠ .running ∨ s.ref25 = false ∨ s.power.down = true then s
  else if bit v 2 then s.gearWithdraw
  else if bit v 0 then s.gearGo v
  else s

/-- GEAR_LOAD (R415). -/
def execGearLoad (v : Word) (s : State) : Res := .next (s.gearCtl (v ||| 1#64))

/-- GEAR_FLASH_LOAD (R415). -/
def execGearFlashLoad (v : Word) (s : State) : Res := .next (s.gearCtl (v ||| 9#64))

/-- GEAR_ABORT (R418). -/
def execGearAbort (s : State) : Res := .next (s.gearCtl 4#64)

/-- The SC has the image: checks of R412, then WAITING, or the apply at once of an image that changes nothing (R416). -/
def State.validate (s : State) (i : Image) (len : Nat) : State :=
  match s.imageFail i len true with
  | some r => s.gearEnd.gearReject r
  | none =>
    let s1 : State := { s with gear := { s.gear with
      st := .waiting, loading := some i, waitp := s.affected i, tandem := s.needsTandem i } }
    if s.changesNothing i then s1.gearActive i else s1

/-- IMAGE_VALIDATION (R412): the image has been read, or its read failed (`none`). With FLASH, the image is the stored
one. -/
def execImageValidation (img : Option Image) (s : State) : Res :=
  let read := match img with
    | none => none
    | some i => if s.gear.flash then s.gear.stored else some i
  .next (if s.gear.st ≠ .validating then s
    else
      match read with
      | none => s.gearEnd.gearReject { code := 0x0D }
      | some i => s.validate i (if s.gear.flash then i.bytes else s.gear.loadLen))

/-- QUIESCENCE_OBSERVED (R418): the affected partitions are blocked and found quiescent again: APPLYING. -/
def execQuiescenceObserved (s : State) : Res :=
  .next (if s.gear.st = .waiting ∧ s.allQuiet = true then
      { s with gear := { s.gear with st := .applying, blocked := s.gear.waitp } }
    else s)

/-- Apply the image under load. -/
def State.applyLoad (s : State) : State :=
  match s.gear.st, s.gear.loading with
  | .applying, some i => (s.applyImage i false false).gearActive i
  | _, _ => s

/-! ### Start-up (R414, R422, R475) -/

/-- The SC validates the stored image, step 4 apart, and applies it with DBG 0 and without waiting. -/
def State.startImage (s : State) : State :=
  match s.gear.stored with
  | none => s
  | some i =>
    match s.imageFail i i.bytes false with
    | some r => s.gearReject r
    | none => ({ s.applyImage i true false with gear := { (s.applyImage i true false).gear with tandem := false } } : State).gearActive i

/-- MEM_READY (R289, R475), by the running firmware (R460): the fill ends, MEM_READY is set and the allotments are written. -/
def execMemReady (s : State) : Res :=
  .next (match s.gear.image with
    | none => s
    | some i =>
      if s.power.trained ∧ s.gear.memReady = false ∧ s.ref25 = true ∧ s.sec.phase = .running then
        (({ s.zeroFill 0 0x18000000000 with gear := { s.gear with memReady := true } } : State).allot i)
      else s)

end Sys2Proof.Machine
end

