-- ==== Sys2Proof/Machine/Firmware.lean ====
section
/-! DEFINITION. The boot chain (R439 to R448, R459, R460): manifests and slots, the Sag log, the ROM's start, the boot
watchdog and confirmation. -/

namespace Sys2Proof.Machine

/-! ### Manifests (Table SEC-3, R445) -/

/-- The little-endian number in bytes `[o, o + n)` of a list of bytes. -/
def atBytes (l : List Byte) (o n : Nat) : Nat := ofBytes ((l.drop o).take n)

/-- Bytes `[o, o + n)` are there and all 0. -/
def zeroAt (l : List Byte) (o n : Nat) : Bool := decide (o + n ≤ l.length) && ((l.drop o).take n).all (fun b => decide (b = 0))

def manRoot (l : List Byte) : Nat := atBytes l 6 1
def manNimg (l : List Byte) : Nat := atBytes l 7 1
def manSvn (l : List Byte) : Nat := atBytes l 8 4
def manMinSvn (l : List Byte) : Nat := atBytes l 0xC 4
def manSetfmt (l : List Byte) : BitVec 32 := BitVec.ofNat 32 (atBytes l 0x18 4)

/-- MDIG: the digest of bytes 0x000 to 0x31F. -/
def manDigest (l : List Byte) : BitVec 512 := Config.sha512 (l.take 0x320)

/-- First 8 bytes of MDIG. -/
def manDigest8 (l : List Byte) : Word := BitVec.ofNat 64 (manDigest l).toNat

/-- The form of a manifest is in range. -/
def manForm (l : List Byte) : Bool :=
  decide (atBytes l 0 4 = 0x57464C4F) && decide (atBytes l 4 2 = 1) && decide (manRoot l < 2) && decide (1 ≤ manNimg l)
    && decide (manNimg l ≤ 8) && decide (0x1000 ≤ atBytes l 0x1C 4) && decide (atBytes l 0x1C 4 ≤ 2 ^ 25) && decide (atBytes l 0x1C 4 ≤ l.length)
    && zeroAt l 0x20 0x20 && zeroAt l 0x320 0xCE0

/-- The root key of an index is not revoked and has the digest of the fuses (R445). -/
def Sec.rootOk (c : Sec) (root : Nat) (pub : List Byte) : Bool :=
  !bit c.revoke root && decide (Config.sha512 pub = if root = 0 then c.rootKey0 else c.rootKey1)

/-- A signature by a firmware root key over bytes. -/
def sigOk (pub msg sig : List Byte) : Bool :=
  Config.ed25519Verify (BitVec.ofNat 256 (ofBytes pub)) msg (BitVec.ofNat 512 (ofBytes sig))

/-- Image `k` lies whole in the slot and has its digest. -/
def imageOk (l : List Byte) (k : Nat) : Bool :=
  let o := 0x40 + k * 0x50
  decide (atBytes l o 4 + atBytes l (o + 4) 4 ≤ l.length) && decide (Config.sha512 ((l.drop (atBytes l o 4)).take (atBytes l (o + 4) 4)) = BitVec.ofNat 512 (atBytes l (o + 16) 64))

/-- The checks of R445 in order: 0 valid, else the status that names the failing kind: BADMSG, BADSIG, ROLLBACK, DIGEST. -/
def Sec.slotCheck (c : Sec) (l : List Byte) : Nat :=
  let pub := (l.drop 0x2C0).take 32
  if !manForm l then 1
  else if !c.rootOk (manRoot l) pub then 3
  else if !sigOk pub (l.take 0x2E0) ((l.drop 0x2E0).take 64) then 3
  else if manSvn l < c.fwsvn ∨ manSvn l < manMinSvn l then 4
  else if !(List.range (manNimg l)).all (imageOk l) then 6
  else if (List.range (manNimg l)).countP (fun k => decide (atBytes l (0x40 + k * 0x50 + 12) 4 % 2 = 1)) ≠ 1 then 1
  else 0

/-- Slot A (false) or B (true). -/
def Sec.slot (c : Sec) (b : Bool) : Slot := if b then c.slotB else c.slotA
def Sec.setSlot (c : Sec) (b : Bool) (x : Slot) : Sec := if b then { c with slotB := x } else { c with slotA := x }

/-! ### The boot record in the flash (R444) -/

/-- What a copy of the boot record holds of a slot. -/
def Slot.record (x : Slot) : SlotRec :=
  { st := x.st, fails := x.fails, mdig8 := if x.bytes = [] then 0 else manDigest8 x.bytes }

/-- The boot record is written, when it has changed, to the copy that does not hold the newest contents, with the next sequence
number (R444). A copy that the model holds is a valid one. -/
def Sec.saveBoot (c : Sec) : Sec :=
  let now (n : Nat) : BootRec := { seq := n, a := c.slotA.record, b := c.slotB.record, next := c.next }
  { c with bootCopies := match c.bootCopies with
      | [] => [now 1]
      | x :: l => if now x.seq = x then x :: l else [now (x.seq + 1), x] }

/-! ### The Sag log (R462) -/

/-- Write a record; `slot` is 0, 1 or 0xFF, with the slot's SVN and MDIG. The log holds 16,384 records. -/
def Sec.log1 (c : Sec) (kind slot status : Nat) (bytes : List Byte) : Sec :=
  let r : LogRec := { seq := c.logNext, kind := kind, slot := slot, status := status, boots := c.boots
                      svn := if bytes = [] then 0 else manSvn bytes, mdig8 := if bytes = [] then 0 else manDigest8 bytes }
  let l := c.log ++ [r]
  { c with logNext := c.logNext + 1, log := l.drop (l.length - 16384) }

/-- A slot record of the log. -/
def Sec.logSlot (c : Sec) (kind : Nat) (b : Bool) : Sec := c.log1 kind (b2n b) 0 (c.slot b).bytes

/-! ### The ROM (R447) -/

/-- The ROM tries a slot: EMPTY and FAILED ones are skipped, one that fails R445 becomes FAILED. -/
def Sec.try1 (c : Sec) (b : Bool) : Bool × Sec :=
  let x := c.slot b
  if x.st = .empty ∨ x.st = .failed then (false, c)
  else if c.slotCheck x.bytes = 0 then (true, c)
  else (false, (c.setSlot b { x with st := .failed }).logSlot 3 b)

/-- The slot to boot: NEXT, then the other (R447). -/
def Sec.chooseSlot (c : Sec) : Option Bool × Sec :=
  let a := c.try1 c.next
  if a.1 then (some c.next, a.2)
  else
    let b := a.2.try1 (!c.next)
    if b.1 then (some (!c.next), b.2) else (none, b.2)

/-- The bytes of an ASCII string. -/
def ascii (s : String) : List Byte := s.toList.map (fun ch => BitVec.ofNat 8 ch.toNat)

/-- The seeds of R441. The ROM of an SC that restarts while UDS is locked has the identity seed that it derived before (DESIGN
CHOICE, log 62). -/
def Sec.seeds (c : Sec) (b : Bool) : Sec :=
  let id := if c.udsLocked then c.idSeed
    else Config.hkdf (ascii "OL-7200 identity") (toBytes 32 c.uds.toNat) (ascii "device-id")
  { c with
    idSeed := id
    aliasSeed := Config.hkdf (toBytes 64 (manDigest (c.slot b).bytes).toNat) (toBytes 32 id.toNat) (ascii "alias")
    udsLocked := true }

/-- NONCE is renewed (R455). -/
def State.newNonce (s : State) : State :=
  let a := s.drawn
  let s1 := s.draw
  { s1.draw with sec := { s1.sec with nonce := s1.drawn ++ a } }

/-- The ROM enters Sag mode (R460). -/
def State.enterSag (s : State) : State :=
  { s with sec := { s.sec.log1 4 0xFF 0 [] with phase := .sag } }

/-- The ROM jumps into slot `b`, and its firmware starts: fall-back, settings and NONCE (R446, R447, R455, R459). -/
def State.bootSlot (s : State) (b : Bool) : State :=
  let c := s.sec.seeds b
  let back := decide (c.next ≠ b)
  let fmt := manSetfmt (c.slot b).bytes
  let old := c.storedFmt
  let c1 : Sec := { c with phase := .running, running := b, watchdog := true, setfmt := fmt, next := b }
  let c2 := if back then c1.logSlot 2 b else c1
  let c3 : Sec := if old = fmt then c2 else { c2.logSlot 8 b with storedFmt := fmt, settings := {} }
  let s1 : State := { s with sec := c3 }
  let s2 := if back then s1.raise .sc 0x80 0x0A04 evSecurity 0 (b2n b) else s1
  if old = fmt then s2 else s2.raise .sc 0x80 0x0A05 evConfig 0 (old.toNat * 2 ^ 32 + fmt.toNat)

/-- The domains hold the image in effect: nothing has reset them since it was applied. -/
def State.imageHeld (s : State) : Bool :=
  s.gear.memReady || s.power.training || s.power.trained || decide (s.gear.st = .applying)

/-- The image in effect is applied again, without validation and with SEQ as it is (R476). -/
def State.reapply (s : State) : State :=
  match s.gear.image with
  | some i => if s.ref25 && decide (s.sec.phase = .running) && !s.imageHeld then s.applyImage i false true else s
  | none => s

/-- The start-up load takes place once PERST_N is deasserted and the firmware runs (R474, R460): of the image in effect where a
warm reset came before, of the stored image where none is in effect; the image in effect of an SC that restarts alone stays. -/
def State.startUp (s : State) : State :=
  if s.power.loadDue && s.power.perstHigh && s.ref25 && decide (s.sec.phase = .running) then
    let s1 : State := { s with power := { s.power with loadDue := false } }
    if s1.gear.image.isSome then s1.reapply else if s1.gear.st = .applying then s1 else s1.startImage
  else s

/-- The boot record is written (R444). -/
def State.saveBoot (s : State) : State := { s with sec := s.sec.saveBoot }

/-- The start-up of the ROM is possible: the always-on domain is powered, the SC has not started, and no trip holds the
module off. -/
def State.romReady (s : State) : Bool :=
  s.power.pwrOk && bit s.power.on 72 && decide (s.sec.phase = .off) && !s.power.down

/-- ROM_START (R447, R473): SCLK is stable; domains 73 and 78 power up; a slot boots, or Sag mode begins. -/
def execRomStart (s : State) : Res :=
  .next (if !s.romReady then s
    else
      let s1 : State := { s with sec := { s.sec with boots := s.sec.boots + b2n s.sec.coldStart, coldStart := false } }
      let s2 := (s1.setPower (putBit (putBit s1.power.on 73 true) 78 true)).newNonce.newChal
      if s2.sec.sagPin then s2.enterSag.reclock
      else
        let c := s2.sec.chooseSlot
        let s3 : State := { s2 with sec := c.2 }
        match c.1 with
        | none => s3.enterSag.saveBoot.reclock
        | some b => ({ (s3.bootSlot b).saveBoot with power := { s3.power with loadDue := true } } : State).reclock.startUp)

/-- BOOT_WATCHDOG_EXPIRY (R446, R447): the boot has failed; the SC restarts. It counts only while PERST_N is deasserted. -/
def execBootWatchdogExpiry (s : State) : Res :=
  .next (if s.sec.watchdog && s.power.perstHigh && decide (s.sec.phase = .running) then
      let b := s.sec.running
      let x := s.sec.slot b
      let n := x.fails + 1
      let c := (s.sec.setSlot b { x with fails := n, st := if 3 ≤ n then .failed else x.st }).logSlot 1 b
      let c1 := (if 3 ≤ n then c.logSlot 3 b else c).saveBoot
      let s1 : State := { s with sec := { c1 with
        phase := .off, watchdog := false, session := none, mbxBusy := false, doe := {}, mctp := {} } }
      (if s1.gear.st = .applying then s1 else s1.gearEnd).reclock
    else s)

/-- A slot that can never satisfy R445 again becomes FAILED (R448). -/
def Sec.failOld (c : Sec) (b : Bool) : Sec :=
  let x := c.slot b
  if x.st = .empty ∨ x.st = .failed ∨ c.fwsvn ≤ manSvn x.bytes then c
  else (c.setSlot b { x with st := .failed }).logSlot 3 b

/-- BOOT_CONFIRMATION (R446, R447, R448): the firmware stops the watchdog once the PCIe function is ready. FWSVN has 256 bits to
set (Table SEC-1). -/
def execBootConfirmation (s : State) : Res :=
  .next (if s.sec.watchdog && s.host.linkUp && decide (s.sec.phase = .running) then
      let b := s.sec.running
      let x := s.sec.slot b
      let c := s.sec.setSlot b { x with st := if x.st = .pending then .good else x.st, fails := 0, confirmed := true }
      let c1 : Sec := { c with watchdog := false }
      let c2 : Sec := if x.confirmed then c1
        else (({ c1 with fwsvn := max c1.fwsvn (min 256 (manMinSvn x.bytes)) } : Sec).failOld false).failOld true
      { s with sec := c2.saveBoot }
    else s)

end Sys2Proof.Machine
end

