-- ==== Sys2Proof/Machine/Power.lean ====
section
/-! DEFINITION. Power (19): cold and warm reset, the limits and their loops, the trip and rail protection, REF25, and the
link's start. -/

namespace Sys2Proof.Machine

/-! ### Resets (R476, R477, Table PWR-2) -/

/-- What the Security Controller keeps across a cold reset: fuses, flash and pins. -/
def Sec.cold (c : Sec) : Sec :=
  { revoke := c.revoke, rootKey0 := c.rootKey0, rootKey1 := c.rootKey1, uds := c.uds, dsn := c.dsn, order := c.order
    fwsvn := c.fwsvn, slotA := c.slotA, slotB := c.slotB, next := c.next, boots := c.boots, bootCopies := c.bootCopies
    storedFmt := c.storedFmt, settings := c.settings, keys := c.keys
    gearSvn := c.gearSvn, log := c.log, logNext := c.logNext, flashWp := c.flashWp, sagPin := c.sagPin
    flashBadA := c.flashBadA, flashBadB := c.flashBadB }

/-- What a cold reset leaves in the rings: the counts of the records lost to a trip or a rail fault (R486); the loss of PWR_OK that
goes before the reset does not clear them (DEDUCED, log 29). -/
def State.coldRings (s s1 : State) : State :=
  if s.power.down then s.loseQueued s1
  else if bit s.power.on 72 then s1
  else { s1 with events := { s1.events with rings := s.events.rings } }

/-- A cold reset: the module as at reset but for fuses, flash, pins and inputs, with the always-on domain as `on` says. -/
def State.cold (s : State) (on : Bool) : State :=
  let s1 : State := { State.reset with
    pending := s.pending, fresh := s.fresh, ticks := s.ticks, ref25 := s.ref25, capAM := s.capAM, stepping := s.stepping
    gear := { stored := s.gear.stored, storeSeq := s.gear.storeSeq, storedOld := s.gear.storedOld }
    sec := s.sec.cold
    power := { pwrOk := s.power.pwrOk, inRange := s.power.inRange, perstHigh := s.power.perstHigh
               on := if on then putBit 0 72 true else 0 }
    out := s.out }
  (s.coldRings s1).reclock

/-- The reset of every domain but the always-on one (R476): what Table PWR-2 keeps across a warm reset. -/
def State.warm (s : State) : State :=
  let s1 : State := { State.reset with
    pending := s.pending, fresh := s.fresh, ticks := s.ticks, ref25 := s.ref25, capAM := s.capAM, stepping := s.stepping
    clk := s.clk, prots := s.prots
    gear := { s.gear with memReady := false }
    sec := s.sec
    power := { s.power with training := false, trained := false, warmWait := false }
    events := {
      queues := s.events.queues.filter (fun q => decide (q.1 = .sc)), fatalValid := s.events.fatalValid
      fatalCode := s.events.fatalCode, fatalDomain := s.events.fatalDomain, fatalLoc := s.events.fatalLoc }
    cad := { refclk := s.cad.refclk }
    hub := { filters := s.hub.filters, div := s.hub.div, thermN := s.hub.thermN }
    tap := s.tap, out := s.out }
  s1.reclock

/-- A load in VALIDATING or WAITING ends with ABORTED (R477). -/
def State.abortLoad (s : State) : State :=
  if s.gear.st = .validating ∨ s.gear.st = .waiting then s.gearEnd.gearReject { code := 0x0C } else s

/-- PERST_N_ASSERT (R476, R477): a warm reset, after a load in APPLYING; ignored while the module is held off. -/
def execPerstNAssert (s : State) : Res :=
  .next (if !s.power.perstHigh then s
    else
      let s1 : State := { s with power := { s.power with perstHigh := false } }
      if s.power.down then s1
      else if s.gear.st = .applying then { s1 with power := { s1.power with warmWait := true } }
      else s1.abortLoad.warm)

/-- The TAP leaves an EXTEST-class instruction (R500). -/
def Tap.leaveExtest : Tap → Tap
  | .extest => .bypass
  | .extestPulse => .bypass
  | .extestTrain => .bypass
  | .idcode => .idcode
  | .sample => .sample
  | .dbgStat => .dbgStat
  | .dbgRead => .dbgRead
  | .dbgWrite => .dbgWrite
  | .bypass => .bypass

/-- PERST_N_DEASSERT (R474, R476, R500): start-up goes on from step 2, with the image in effect or the stored one. -/
def execPerstNDeassert (s : State) : Res :=
  .next (if s.power.perstHigh then s
    else
      let s1 : State := { s with power := { s.power with perstHigh := true }, tap := s.tap.leaveExtest }
      if s.power.down || s.power.warmWait then s1
      else if s.power.loadDue then s1.startUp
      else s1.reapply)

/-- APPLY_COMPLETE (R419), not while the domains are held in reset (R31); a warm reset that waited follows (R477). -/
def execApplyComplete (s : State) : Res :=
  let s1 := s.applyLoad
  .next (if !s.ref25 then s
    else if s.gear.st = .applying && s.power.warmWait then
      (let s2 := s1.warm
       if s2.power.perstHigh then s2.reapply else s2)
    else s1)

/-- PWR_OK_RISE (R473, R494): start-up begins with the always-on domain when the input is in range. -/
def execPwrOkRise (inRange : Bool) (s : State) : Res :=
  .next (if s.power.pwrOk then s
    else ({ s with power := { s.power with pwrOk := true, inRange := inRange } } : State).cold inRange)

/-- INPUT_VOLTAGE_IN_RANGE (R494): start-up begins, with PWR_OK high. -/
def execInputVoltageInRange (s : State) : Res :=
  let s1 : State := { s with power := { s.power with inRange := true } }
  .next (if s.power.pwrOk && !s.power.inRange then s1.cold true else s1)

/-- PWR_OK_FALL (R494): every domain is off, without an event. -/
def execPwrOkFall (s : State) : Res :=
  .next (({ s with power := { s.power with pwrOk := false, inRange := false } } : State).cold false)

/-! ### Limits (R467 to R469) -/

/-- The floor of a die (R467). -/
def State.floorOf (s : State) (d : Nat) : Nat :=
  if s.cad.pools.any (fun q => q.2.en && (poolCores q.2).any (fun c => decide (dieOf c = d))) then s.cad.cfloor else 825

/-- Targets of a die in MHz (R468): 3,300 MHz until an evaluation changes them. -/
def Power.ptgtOf (w : Power) (d : Nat) : Nat := kget 3300 w.ptgt d
def Power.ttgtOf (w : Power) (d : Nat) : Nat := kget 3300 w.ttgt d

/-- One die's targets at an evaluation (R468): `p` watts, `t` degrees. -/
def State.limitDie (s : State) (p t d : Nat) : State :=
  let w := s.power
  let g := w.ptgtOf d
  let h := w.ttgtOf d
  let g1 := if p > w.plim then max (s.floorOf d) (g - 25) else g
  let g2 := if p * 100 < w.plim * 97 then min 3300 (g1 + 25) else g1
  let h1 := if t ≥ 105 then max 825 (h - 25) else h
  let h2 := if t ≤ 100 then min 3300 (h1 + 25) else h1
  let s1 : State := { s with power := { w with
    ptgt := kset 3300 w.ptgt d g2, ttgt := kset 3300 w.ttgt d h2, tmax := kset 0 w.tmax d t } }
  if h = 3300 ∧ h2 < 3300 then s1.raise .sc 0x80 0x0B01 evCorrected d t else s1

/-- Every die stands at its power floor (R469). -/
def State.atFloor (s : State) : Bool :=
  (List.range 4).all (fun d => decide (s.power.ptgtOf d ≤ s.floorOf d))

/-- PWR_FLOOR once per excursion (R469): power above PLIM with every die at its floor. -/
def State.limitFloor (s : State) (p : Nat) (floor : Bool) : State :=
  if p ≤ s.power.plim then { s with power := { s.power with excursion := false } }
  else if floor ∧ s.power.excursion = false then
    ({ s with power := { s.power with excursion := true } } : State).raise .sc 0x80 0x0B02 evConfig 0 p
  else s

/-- The hub's sensor: PWR_THROTTLE when it first reaches 105 °C (R469). -/
def State.limitHub (s : State) (t : Nat) : State :=
  let hot := decide (t ≥ 105)
  let s1 : State := { s with power := { s.power with hubT := t, hubHot := hot } }
  if hot && !s.power.hubHot then s1.raise .sc 0x80 0x0B01 evCorrected 4 t else s1

/-- LIMIT_EVALUATION (R468, R469), while the firmware runs. The input voltage it finds is a free value (log 51). -/
def execLimitEvaluation (power : Nat) (temps : Temps) (s : State) : Res :=
  .next (if s.sec.phase ≠ .running then s
    else
      let floor := s.atFloor
      let s1 : State := { s.draw with power := { s.power with power := power, vin := BitVec.ofNat 16 (fld s.drawn 15 0) } }
      let s2 := (((s1.limitDie power temps.d0 0).limitDie power temps.d1 1).limitDie power temps.d2 2).limitDie power temps.d3 3
      let s3 := if s.gear.image.isSome then s2.limitFloor power floor else s2
      s3.limitHub temps.hub)

/-- The CCLK that the targets of a die call for (R468). -/
def State.cclkTarget (s : State) (d : Nat) : Nat := min (s.power.ptgtOf d) (s.power.ttgtOf d)

/-- CCLK_CHANGE_COMPLETE (R468), not while the die is held in reset (R31). -/
def execCclkChangeComplete (d : DieId) (s : State) : Res :=
  .next (if bit s.power.on (d.val * 18 + 16) && s.ref25 then
      { s with power := { s.power with cclk := kset 0 s.power.cclk d.val (s.cclkTarget d.val) } }
    else s)

/-- PWR_DIEd.LIMIT. -/
def State.limitOf (s : State) (d : Nat) : Nat :=
  b2n (decide (s.power.ptgtOf d < 3300)) + 2 * b2n (decide (s.power.ttgtOf d < 3300))

/-- PWR_CAUSE. -/
def Power.cause (w : Power) : Word :=
  BitVec.ofNat 64 (b2n w.trip + 2 * b2n w.rail + 4 * b2n w.memhot + w.railId.toNat * 256)

/-- ALERT_N is asserted (R469). -/
def State.alertN (s : State) : Bool := (List.range 4).any (fun d => decide (s.limitOf d ≠ 0)) || decide (s.power.cause ≠ 0)

/-! ### Protection (R470, R471) -/

/-- Every domain but 72 and 73 switches off; the module is held off until a cold reset. A start-up, warm reset or load under
way stops (R477). -/
def State.switchOff (s : State) : State :=
  let s1 := s.setPower (s.power.on &&& putBit (putBit 0 72 true) 73 true)
  { s1.gearEnd with
    power := { s1.power with down := true, training := false, trained := false, warmWait := false, loadDue := false }
    gear := { s1.gearEnd.gear with memReady := false } }

/-- THERMAL_TRIP (R470). -/
def execThermalTrip (die : Fin 5) (temp : Nat) (s : State) : Res :=
  .next (if temp < 115 ∨ s.hub.thermN = true ∨ bit s.power.on 72 = false then s
    else
      let s1 := s.switchOff
      ({ s1 with power := { s1.power with trip := true }, hub := { s1.hub with thermN := true } } : State).scFatal
        0x0B03 die.val temp)

/-- RAIL_FAULT (R471): each fault is recorded, also while the module is held off. -/
def execRailFault (rail : Byte) (s : State) : Res :=
  .next (if bit s.power.on 72 = false then s
    else
      let s1 := s.switchOff
      ({ s1 with power := { s1.power with rail := true, railId := rail } } : State).scFatal 0x0B04 0 rail.toNat)

/-! ### REF25 (R31) -/

/-- REF25_LOSS (R31): the SC holds every other domain in reset, but for the Krymas ports, whose lanes keep their lock. -/
def execRef25Loss (s : State) : Res :=
  .next (if !s.ref25 then s
    else
      let s1 : State := { s with ref25 := false }
      if bit s.power.on 72 && !s.power.down then ({ s1.abortLoad.warm with ports := s.ports } : State).reclock
      else s1.reclock)

/-- REF25_RETURN (R31): the PLLs lock and the held domains leave reset, with the image in effect or the stored one. -/
def execRef25Return (s : State) : Res :=
  .next (if s.ref25 then s
    else
      let s1 := ({ s with ref25 := true } : State).reclock
      if s.power.down then s1
      else if s.power.loadDue then s1.startUp
      else if s.power.perstHigh then s1.reapply
      else s1)

/-! ### The PCIe link (R437) -/

/-- PCIE_LINK_UP (R437): the link has trained; what the host writes to configuration space comes with it (log 33). -/
def execPcieLinkUp (width : Fin 4) (rate : Fin 7) (cfg : HostCfg) (s : State) : Res :=
  .next (if s.ref25 && bit s.power.on 73 && s.power.perstHigh && decide (s.sec.phase ≠ .off) then
      { s with host := { s.host with
          linkUp := true, width := width.val, rate := rate.val, bme := cfg.bme, msix := cfg.msix, ats := cfg.ats, ide := cfg.ide
          bar0 := cfg.addr0, bar2 := cfg.addr2, bar4 := cfg.addr4
          bar2Size := 2 ^ (36 + cfg.bar2.val) } }
    else s)

end Sys2Proof.Machine
end

