-- ==== Sys2Proof/Machine/Security.lean ====
section
/-! DEFINITION. Attestation (R442, R449 to R451): the SPDM responder over DOE and over MCTP. The codes of the requests and
responses and the order in which a connection takes them are those of the SPDM standard (log 31). -/

namespace Sys2Proof.Machine

/-- The connection of a transport. -/
def Sec.spdm (c : Sec) : SpdmPath → Spdm
  | .doe => c.doe
  | .mctp => c.mctp
def State.setSpdm (s : State) (p : SpdmPath) (x : Spdm) : State :=
  match p with
  | .doe => { s with sec := { s.sec with doe := x } }
  | .mctp => { s with sec := { s.sec with mctp := x } }

/-- The responder answers: the firmware runs; over DOE the function is ready, and over I3C the target has its dynamic address
(R437, R496). -/
def State.spdmLive (s : State) (p : SpdmPath) : Bool :=
  decide (s.sec.phase = .running) && (match p with
    | .doe => s.fnReady
    | .mctp => s.sec.i3cDyn.isSome)

/-- Bytes as little-endian words. -/
def toWords (l : List Byte) : List Word := (List.range ((l.length + 7) / 8)).map (fun k => BitVec.ofNat 64 (atBytes l (8 * k) 8))
/-- Words as bytes. -/
def wordBytes (l : List Word) : List Byte := l.flatMap (fun w => toBytes 8 w.toNat)

/-- A response, whose body is signed by the alias key, as every SPDM response is, over the request's nonce where it has one and the
body (R442, log 31). -/
def State.spdmSigned (s : State) (p : SpdmPath) (code : Nat) (nonce : List Byte) (body : List Word) : State :=
  let sig := Config.ed25519Sign s.sec.aliasSeed (nonce ++ wordBytes body)
  s.emit (.spdm p code (body ++ toWords (toBytes 64 sig.toNat)))

/-- The ERROR response. -/
def State.spdmError (s : State) (p : SpdmPath) : State := s.spdmSigned p 0x7F [] []

/-- A response with a body that the standard gives. -/
def State.spdmBody (s : State) (p : SpdmPath) (code : Nat) : State :=
  s.draw.spdmSigned p code [] (Config.spdmBody code s.fresh)

/-- A request that the connection takes when `ok`, and answers with ERROR otherwise. -/
def State.spdmIf (s : State) (p : SpdmPath) (ok : Spdm → Bool) (f : Spdm → State) : State :=
  if !s.spdmLive p then s else if ok (s.sec.spdm p) then f (s.sec.spdm p) else s.spdmError p

/-- GET_VERSION: SPDM 1.3 and only 1.3; the connection starts over. -/
def execGetVersion (path : SpdmPath) (s : State) : Res :=
  .next (s.spdmIf path (fun _ => true) (fun _ => (s.setSpdm path { version := true }).spdmSigned path 0x04 [] [0x1300#64]))

/-- What a responder of R449 can do: no mutual authentication, no pre-shared key, no chunking. -/
def spdmCapabilities : List String :=
  ["GET_DIGESTS and GET_CERTIFICATE", "CHALLENGE", "GET_MEASUREMENTS with signature", "KEY_EXCHANGE and FINISH", "KEY_UPDATE"]

/-- The algorithms of R449: signature, hash, measurement hash, DHE and AEAD. -/
def spdmAlgorithms : List String := ["EdDSA Ed25519", "SHA-512", "SHA-512", "secp384r1", "AES-256-GCM"]

/-- GET_CAPABILITIES. -/
def execGetCapabilities (path : SpdmPath) (s : State) : Res :=
  .next (s.spdmIf path (·.version) (fun x =>
    (s.setSpdm path { x with caps := true }).spdmSigned path 0x61 [] (Config.spdmNames spdmCapabilities)))

/-- NEGOTIATE_ALGORITHMS. -/
def execNegotiateAlgorithms (path : SpdmPath) (s : State) : Res :=
  .next (s.spdmIf path (·.caps) (fun x =>
    (s.setSpdm path { x with algs := true }).spdmSigned path 0x63 [] (Config.spdmNames spdmAlgorithms)))

/-- A hexadecimal digit, and bytes in hexadecimal, high digit first. -/
def hexDigit (n : Nat) : Byte := BitVec.ofNat 8 (if n < 10 then 48 + n else 55 + n)
def hexBytes (l : List Byte) : List Byte := l.flatMap (fun b => [hexDigit (b.toNat / 16), hexDigit (b.toNat % 16)])

/-- Subject of the device identity certificate (R4, R442): the ordering number, DSN in 16 hexadecimal digits, and the
installed LPDDR6. -/
def State.idSubject (s : State) : List Byte :=
  ascii (if s.sec.order = 2 then "OL-7200-AM" else "OL-7200-A") ++ hexBytes (toBytes 8 s.sec.dsn.toNat).reverse
    ++ ascii (if s.capAM then "768 GiB" else "1536 GiB")

/-- Subject of the alias certificate (R442): its name and the first 16 bytes of MDIG in hexadecimal. -/
def State.aliasSubject (s : State) : List Byte :=
  ascii "OL-7200 alias" ++ hexBytes ((toBytes 64 (manDigest (s.sec.slot s.sec.running).bytes).toNat).take 16)

/-- The certificate chain of slot 0 (R442): vendor device CA, device identity, alias. -/
def State.certChain (s : State) : List Byte :=
  Config.certificate 0 (ascii "Mladrel device CA") 0 ++ Config.certificate 1 s.idSubject s.sec.idSeed
    ++ Config.certificate 2 s.aliasSubject s.sec.aliasSeed

/-- GET_DIGESTS: slot 0 alone, and the SHA-512 digest of its chain (R449). -/
def execGetDigests (path : SpdmPath) (s : State) : Res :=
  .next (s.spdmIf path (·.algs) (fun _ =>
    s.spdmSigned path 0x01 [] (1#64 :: toWords (toBytes 64 (Config.sha512 s.certChain).toNat))))

/-- GET_CERTIFICATE: a part of slot 0's chain; the other slots do not exist. -/
def execGetCertificate (path : SpdmPath) (slot : Fin 8) (off len : BitVec 16) (s : State) : Res :=
  .next (s.spdmIf path (fun x => x.algs && decide (slot.val = 0)) (fun _ =>
    s.spdmSigned path 0x02 [] (toWords ((s.certChain.drop off.toNat).take len.toNat))))

/-- CHALLENGE. -/
def execChallenge (path : SpdmPath) (slot : Fin 8) (nonce : BitVec 256) (s : State) : Res :=
  .next (s.spdmIf path (fun x => x.algs && decide (slot.val = 0)) (fun _ =>
    s.draw.spdmSigned path 0x03 (toBytes 32 nonce.toNat) (Config.spdmBody 0x03 s.fresh)))

/-- The content of a measurement (Table SEC-4). -/
def State.measurement (s : State) (index : Nat) : List Byte :=
  match index with
  | 1 => toBytes 64 Config.romDigest.toNat
  | 2 => toBytes 64 (manDigest (s.sec.slot s.sec.running).bytes).toNat
  | 3 =>
    match s.gear.image with
    | some i => toBytes 64 (Config.sha512 (imgSigned i)).toNat
    | none => List.replicate 64 0
  | 4 => toBytes 4 s.sec.setfmt.toNat
  | 5 => toBytes 4 s.gear.dbg ++ toBytes 4 s.sec.fwsvn ++ toBytes 4 s.sec.gearSvn.toNat ++ toBytes 4 0
      ++ toBytes 64 (Config.sha512 (Config.keyTable (s.sec.keys.map (fun k => (decide (k.role = .operator), k.key))))).toNat
  | _ => []

/-- A DMTF measurement block (R450): its index, the DMTF specification, the size of what follows, the kind of value with its top bit
set for a raw one, the size of the value and the value (PRESUMED, log 31). -/
def State.measBlock (s : State) (index : Nat) : List Byte :=
  let v := s.measurement index
  toBytes 1 index ++ [1#8] ++ toBytes 2 (v.length + 3)
    ++ toBytes 1 ((Config.measKind index).toNat + b2n (decide (4 ≤ index)) * 128) ++ toBytes 2 v.length ++ v

/-- GET_MEASUREMENTS (R450): 0 asks for their number, 0xFF for all. -/
def execGetMeasurements (path : SpdmPath) (index : Byte) (nonce : BitVec 256) (s : State) : Res :=
  let n := index.toNat
  .next (s.spdmIf path (fun x => x.algs && (decide (n ≤ 5) || decide (n = 0xFF))) (fun _ =>
    let body := if n = 0 then [5#64]
      else if n = 0xFF then toWords ((List.range 5).flatMap (fun k => s.measBlock (k + 1)))
      else toWords (s.measBlock n)
    s.spdmSigned path 0x60 (toBytes 32 nonce.toNat) body))

/-- KEY_EXCHANGE: a session enters its handshake. -/
def execKeyExchange (path : SpdmPath) (share : List Byte) (s : State) : Res :=
  .next (s.spdmIf path (·.algs) (fun x =>
    (s.setSpdm path { x with session := 1, keyGen := 0 }).draw.spdmSigned path 0x64 share (Config.spdmBody 0x64 s.fresh)))

/-- FINISH: the session is established when its MAC is right. -/
def execFinish (path : SpdmPath) (mac : List Byte) (s : State) : Res :=
  .next (s.spdmIf path (fun x => decide (x.session = 1) && Config.finishOk mac s.fresh) (fun x =>
    (s.setSpdm path { x with session := 2 }).spdmBody path 0x65))

/-- END_SESSION. -/
def execEndSession (path : SpdmPath) (s : State) : Res :=
  .next (s.spdmIf path (fun x => decide (x.session = 2)) (fun x =>
    (s.setSpdm path { x with session := 0, keyGen := 0 }).spdmBody path 0x6C))

/-- KEY_UPDATE: the session's keys take their next generation. -/
def execKeyUpdate (path : SpdmPath) (s : State) : Res :=
  .next (s.spdmIf path (fun x => decide (x.session = 2)) (fun x =>
    (s.setSpdm path { x with keyGen := x.keyGen + 1 }).spdmBody path 0x69))

/-- VENDOR_DEFINED_REQUEST: IDE key management over DOE, within a session: the request is taken into the keys of the stream, and
answered as the IDE standard gives (log 31). -/
def execVendorDefinedRequest (path : SpdmPath) (body : List Byte) (s : State) : Res :=
  .next (s.spdmIf path (fun x => decide (x.session = 2) && decide (path = .doe)) (fun _ =>
    ({ s.draw with host := { s.host with ideKeys := s.host.ideKeys ++ [body] } } : State).spdmSigned path 0x7E []
      (Config.ideKm body s.fresh)))

end Sys2Proof.Machine
end

