-- ==== Sys2Proof/Machine/Mailbox.lean ====
section
/-! DEFINITION. The mailbox (R452 to R458, R461, R462): its messages over BAR4 and I3C, enrolled keys, updates and Sag
sessions. -/

namespace Sys2Proof.Machine

/-! ### Requests and responses -/

/-- STATUS codes (Table SEC-5). -/
def stOk : Nat := 0
def stBadMsg : Nat := 1
def stBusy : Nat := 2
def stBadSig : Nat := 3
def stRollback : Nat := 4
def stBase : Nat := 5
def stDigest : Nat := 6
def stNoSpace : Nat := 7
def stState : Nat := 8
def stFlash : Nat := 9
def stWp : Nat := 10

/-- Word 0 of the header of a request or a response (R453). -/
def mbxWord (type : Nat) (tag : BitVec 16) (bytes : Nat) : Word := BitVec.ofNat 64 (type + tag.toNat * 2 ^ 16 + bytes * 2 ^ 32)

/-- The SC writes the response into the response area, then RLEN, DONE and BUSY (R428, R452, R453); over I3C only the response. -/
def State.respond1 (s : State) (p : MbxPath) (type status : Nat) (tag : BitVec 16) (body : List Word) : State :=
  let s1 := s.emit (.mailbox p type status tag body)
  match p with
  | .bar4 => { s1 with sec := { s1.sec with
      mbxReq := mbxWord type tag (s1.sec.mbxLen - 16)
      mbxResp := mbxWord type tag (8 * body.length) :: BitVec.ofNat 64 status :: body
      rlen := 16 + 8 * body.length, mbxDone := true, mbxBusy := false } }
  | .i3c => s1

/-- The SC takes a request: its firmware or the Sag ROM runs; at BAR4 the function is ready and a GO has started the request that
stands in the request area (R428, R437, R452), and over I3C the target has its dynamic address (R496). -/
def State.mbxLive (s : State) (p : MbxPath) : Bool :=
  decide (s.sec.phase ≠ .off) && (match p with
    | .bar4 => s.fnReady && s.sec.mbxBusy
    | .i3c => s.sec.i3cDyn.isSome)

/-- Serve a request: `avail` is its availability, and `f` gives the state, status and body (R453). -/
def State.serve (s : State) (p : MbxPath) (type : Nat) (tag : BitVec 16) (avail : Bool)
    (f : State → State × Nat × List Word) : State :=
  if !s.mbxLive p then s
  else if !avail then s.respond1 p type stState tag []
  else
    let r := f s
    r.1.respond1 p type r.2.1 tag r.2.2

/-- Firmware serves the message; the Sag ROM serves it. -/
def State.inFirmware (s : State) : Bool := decide (s.sec.phase = .running)
def State.inSag (s : State) : Bool := decide (s.sec.phase = .sag)

/-- State code of a slot in a response. -/
def SlotState.code : SlotState → Nat
  | .empty => 0
  | .pending => 1
  | .good => 2
  | .failed => 3

/-- A slot's words of GET_INFO. -/
def Slot.info (x : Slot) : List Word :=
  [BitVec.ofNat 64 (x.st.code + x.fails * 256), if x.bytes = [] then 0 else manDigest8 x.bytes]

/-- GET_INFO: boot record, SETFMT, both minimums, NONCE and the Sag flag. -/
def execGetInfo (p : MbxPath) (tag : BitVec 16) (s : State) : Res :=
  .next (s.serve p 0x01 tag true (fun s =>
    let c := s.sec
    (s, stOk, c.slotA.info ++ c.slotB.info ++ [BitVec.ofNat 64 (b2n c.next), BitVec.ofNat 64 c.setfmt.toNat,
      BitVec.ofNat 64 c.fwsvn, BitVec.ofNat 64 c.gearSvn.toNat, BitVec.ofNat 64 c.nonce.toNat,
      BitVec.ofNat 64 (c.nonce.toNat / 2 ^ 64), BitVec.ofNat 64 (b2n s.inSag)])))

/-! ### Sessions (R453, R457) -/

/-- A session begins: BUSY while one is open, NOSPACE beyond STAGING. -/
def State.openSession (s : State) (sag : Bool) (p : MbxPath) (len : Nat) : State × Nat × List Word :=
  if s.sec.session.isSome then (s, stBusy, [])
  else if len > 2 ^ 26 then (s, stNoSpace, [])
  else ({ s with sec := { s.sec with session := some { sag := sag, path := p, len := len, staging := List.replicate len 0 } } }, stOk, [])

/-- The session of a kind that belongs to the path. -/
def State.sessionOf (s : State) (sag : Bool) (p : MbxPath) : Option Session :=
  match s.sec.session with
  | some x => if x.sag = sag ∧ x.path = p then some x else none
  | none => none

/-- Bytes are written into STAGING. -/
def State.stage (s : State) (sag : Bool) (p : MbxPath) (off : Nat) (bytes : List Byte) : State × Nat × List Word :=
  match s.sessionOf sag p with
  | none => (s, stState, [])
  | some x =>
    if off + bytes.length > x.len then (s, stBadMsg, [])
    else
      let l := x.staging.take off ++ bytes ++ x.staging.drop (off + bytes.length)
      ({ s with sec := { s.sec with session := some { x with staging := l } } }, stOk, [])

/-- UPD_BEGIN (R457). -/
def execUpdBegin (p : MbxPath) (tag : BitVec 16) (len : Nat) (s : State) : Res :=
  .next (s.serve p 0x02 tag s.inFirmware (fun s => s.openSession false p len))

/-- UPD_DATA (R457). -/
def execUpdData (p : MbxPath) (tag : BitVec 16) (off : Nat) (bytes : List Byte) (s : State) : Res :=
  .next (s.serve p 0x03 tag s.inFirmware (fun s => s.stage false p off bytes))

/-- SAG_BEGIN (R461). -/
def execSagBegin (p : MbxPath) (tag : BitVec 16) (len : Nat) (s : State) : Res :=
  .next (s.serve p 0x10 tag s.inSag (fun s => s.openSession true p len))

/-- SAG_DATA (R461). -/
def execSagData (p : MbxPath) (tag : BitVec 16) (off : Nat) (bytes : List Byte) (s : State) : Res :=
  .next (s.serve p 0x11 tag s.inSag (fun s => s.stage true p off bytes))

/-! ### Difference packages (R456, R457) -/

/-- Edit operations applied to a base slot: the bytes they write, or none when an operation is malformed. -/
def applyOps (base : List Byte) : Nat → List Byte → Option (List Byte)
  | 0, l => if l = [] then some [] else none
  | n + 1, l =>
    if l = [] then some []
    else if l.length < 16 then none
    else
      let kind := atBytes l 0 1
      let len := atBytes l 4 4
      let arg := atBytes l 8 8
      let rest := l.drop 16
      let pad := (len + 7) / 8 * 8
      if atBytes l 1 3 ≠ 0 then none
      else if kind = 1 then
        (if base.length < arg + len then none else (applyOps base n rest).map (fun t => (base.drop arg).take len ++ t))
      else if kind = 2 then
        (if rest.length < pad ∨ arg ≠ 0 ∨ zeroAt rest len (pad - len) = false then none
          else (applyOps base n (rest.drop pad)).map (fun t => rest.take len ++ t))
      else if kind = 3 then
        (if 256 ≤ arg then none else (applyOps base n rest).map (fun t => List.replicate len (BitVec.ofNat 8 arg) ++ t))
      else none

/-- The OPS of a package. -/
def pkgOps (l : List Byte) : List Byte := (l.drop 0x100).take (l.length - 0x160)

/-- What the package makes of the running slot. -/
def pkgResult (l base : List Byte) : Option (List Byte) :=
  match applyOps base (l.length / 16 + 1) (pkgOps l) with
  | some r => if r.length = atBytes l 0xC 4 then some r else none
  | none => none

/-- The form of OPS (R456): the KINDs and fields are those of the table, and the lengths that remain sum to `n` exactly. -/
def opsForm (n : Nat) : Nat → List Byte → Bool
  | 0, l => decide (l = []) && decide (n = 0)
  | k + 1, l =>
    if l = [] then decide (n = 0)
    else if l.length < 16 then false
    else
      let kind := atBytes l 0 1
      let len := atBytes l 4 4
      let arg := atBytes l 8 8
      let rest := l.drop 16
      let pad := (len + 7) / 8 * 8
      if atBytes l 1 3 ≠ 0 ∨ n < len then false
      else if kind = 1 then opsForm (n - len) k rest
      else if kind = 2 then decide (arg = 0) && zeroAt rest len (pad - len) && opsForm (n - len) k (rest.drop pad)
      else decide (kind = 3) && decide (arg < 256) && opsForm (n - len) k rest

/-- The form of a package (Table SEC-7). -/
def pkgForm (l : List Byte) : Bool :=
  decide (atBytes l 0 4 = 0x50444C4F) && decide (atBytes l 4 2 = 1) && decide (atBytes l 6 1 < 2) && decide (atBytes l 7 1 = 0)
    && decide (atBytes l 8 4 = l.length) && decide (l.length ≤ 2 ^ 26) && decide (0x160 ≤ l.length) && zeroAt l 0x90 112
    && decide (atBytes l 0xC 4 ≤ 2 ^ 25)

/-- The flash takes what is written into slot `b`. -/
def Sec.flashBad (c : Sec) (b : Bool) : Bool := if b then c.flashBadB else c.flashBadA

/-- The end of an update (R457): the new state of the SC and the status. A COPY from past the end of the base is found when it is
applied, and then ends the update with BADMSG (DESIGN CHOICE, log 62). -/
def Sec.endUpdate (c : Sec) (l : List Byte) : Sec × Nat :=
  let pub := (l.drop (l.length - 0x60)).take 32
  let base := (c.slot c.running).bytes
  let b := !c.running
  let empty := c.setSlot b {}
  if !pkgForm l || !opsForm (atBytes l 0xC 4) (l.length / 16 + 1) (pkgOps l) then (c, stBadMsg)
  else if !c.rootOk (atBytes l 6 1) pub || !sigOk pub (l.take (l.length - 0x60)) (l.drop (l.length - 0x40)) then (c, stBadSig)
  else if atBytes l 0x10 64 ≠ (manDigest base).toNat then (c, stBase)
  else if c.flashWp then (c, stWp)
  else if c.flashBad b then (empty, stFlash)
  else
    match pkgResult l base with
    | none => (empty, stBadMsg)
    | some r =>
      let v := c.slotCheck r
      if v = 4 then (empty, stRollback)
      else if v ≠ 0 ∨ atBytes l 0x50 64 ≠ (manDigest r).toNat then (empty, stDigest)
      else ((c.setSlot b { st := .pending, bytes := r }).logSlot 7 b, stOk)

/-- UPD_END (R457). -/
def execUpdEnd (p : MbxPath) (tag : BitVec 16) (s : State) : Res :=
  .next (s.serve p 0x04 tag s.inFirmware (fun s =>
    match s.sessionOf false p with
    | none => (s, stState, [])
    | some x =>
      let r := { s.sec with session := none }.endUpdate x.staging
      ({ s with sec := r.1.saveBoot }, r.2, [])))

/-- ACTIVATE (R458): NEXT becomes a PENDING or GOOD slot. -/
def execActivate (p : MbxPath) (tag : BitVec 16) (slot : Bool) (s : State) : Res :=
  .next (s.serve p 0x05 tag s.inFirmware (fun s =>
    let st := (s.sec.slot slot).st
    if st = .pending ∨ st = .good then (({ s with sec := { s.sec with next := slot } } : State).saveBoot, stOk, []) else (s, stState, [])))

/-- RESTART (R476, R477): a cold reset after the response. -/
def execRestart (p : MbxPath) (tag : BitVec 16) (s : State) : Res :=
  .next (if !s.mbxLive p then s else (s.serve p 0x06 tag true (fun s => (s, stOk, []))).cold true)

/-! ### Enrolled keys (R454, R455) -/

/-- Keys of a role. -/
def Sec.keysOf (c : Sec) (r : Role) : List Key := c.keys.filter (fun k => decide (k.role = r))

/-- What a signature covers: the body without its signatures, then NONCE (R455). -/
def Sec.covered (c : Sec) (body : List Byte) : List Byte := body ++ toBytes 16 c.nonce.toNat

/-- A signature by an enrolled key of its role. -/
def Sec.goodSig (c : Sec) (body : List Byte) (x : MbxSig) : Bool :=
  c.keys.any (fun k => decide (k.role = x.role) && decide (k.key = x.key)) && Config.ed25519Verify x.key (c.covered body) x.sig

/-- One OWNER signs; one OWNER and one OPERATOR sign with distinct keys (Table SEC-6). -/
def Sec.byOwner (c : Sec) (body : List Byte) (l : List MbxSig) : Bool := l.any (fun x => decide (x.role = .owner) && c.goodSig body x)
def Sec.byBoth (c : Sec) (body : List Byte) (l : List MbxSig) : Bool :=
  l.any (fun x => decide (x.role = .owner) && c.goodSig body x
    && l.any (fun y => decide (y.role = .operator) && decide (y.key ≠ x.key) && c.goodSig body y))

/-- Code of a role. -/
def Role.code : Role → Nat
  | .owner => 1
  | .operator => 2

/-- The signatures of a KEY_ENROLL suffice (Table SEC-6). -/
def Sec.enrollSigned (c : Sec) (role : Role) (key : BitVec 256) (l : List MbxSig) : Bool :=
  let body := Config.mbxBody 0x07 (Role.code role) key
  if c.keysOf role = [] then
    (match role with
      | .owner => l.any (fun x => decide (x.key = key) && Config.ed25519Verify key (c.covered body) x.sig)
      | .operator => c.byOwner body l)
  else c.byBoth body l

/-- A signed message is accepted: NONCE is renewed (R455). -/
def State.accepted1 (s : State) (c : Sec) : State × Nat × List Word := (({ s with sec := c } : State).newNonce, stOk, [])

/-- KEY_ENROLL (R454, R455). -/
def execKeyEnroll (p : MbxPath) (tag : BitVec 16) (role : Role) (key : BitVec 256) (sigs : List MbxSig) (s : State) : Res :=
  .next (s.serve p 0x07 tag s.inFirmware (fun s =>
    let c := s.sec
    if !c.enrollSigned role key sigs then (s, stBadSig, [])
    else if c.keys.contains { role := role, key := key } then s.accepted1 c
    else if 4 ≤ (c.keysOf role).length then (s, stNoSpace, [])
    else if c.flashWp then (s, stWp, [])
    else s.accepted1 { c with keys := c.keys ++ [{ role := role, key := key }] }))

/-- KEY_REVOKE (R455): the last OWNER key stays. -/
def execKeyRevoke (p : MbxPath) (tag : BitVec 16) (role : Role) (key : BitVec 256) (sigs : List MbxSig) (s : State) : Res :=
  .next (s.serve p 0x08 tag s.inFirmware (fun s =>
    let c := s.sec
    let k : Key := { role := role, key := key }
    if !c.byBoth (Config.mbxBody 0x08 (Role.code role) key) sigs then (s, stBadSig, [])
    else if !c.keys.contains k || (decide (role = .owner) && decide ((c.keysOf .owner).length ≤ 1)) then (s, stBadMsg, [])
    else if c.flashWp then (s, stWp, [])
    else s.accepted1 { c with keys := c.keys.filter (fun x => decide (x ≠ k)) }))

/-- GEAR_SVN (R455): a minimum below the current one is a rollback. -/
def execGearSvn (p : MbxPath) (tag : BitVec 16) (svn : BitVec 32) (sigs : List MbxSig) (s : State) : Res :=
  .next (s.serve p 0x09 tag s.inFirmware (fun s =>
    let c := s.sec
    if !c.byOwner (Config.mbxBody 0x09 svn.toNat 0) sigs then (s, stBadSig, [])
    else if svn.toNat < c.gearSvn.toNat then (s, stRollback, [])
    else if c.flashWp then (s, stWp, [])
    else s.accepted1 { c with gearSvn := svn }))

/-! ### The log and Sag images (R461, R462) -/

/-- The words of a log record (R462). -/
def LogRec.words (r : LogRec) : List Word :=
  [BitVec.ofNat 64 (r.seq % 2 ^ 32 + r.kind * 2 ^ 32 + r.slot * 2 ^ 40 + r.status * 2 ^ 48),
   BitVec.ofNat 64 (r.boots % 2 ^ 32 + r.svn * 2 ^ 32), r.mdig8, 0, 0, 0, 0, 0]

/-- LOG_READ: up to 8,000 records from a record number on. -/
def execLogRead (p : MbxPath) (tag : BitVec 16) (first count : Nat) (s : State) : Res :=
  .next (s.serve p 0x0A tag true (fun s =>
    if count > 8000 then (s, stBadMsg, [])
    else (s, stOk, (((s.sec.log.filter (fun r => decide (first ≤ r.seq)))).take count).flatMap LogRec.words)))

/-- SAG_END (R461): the staged slot, at most 32 MiB (Table SEC-2), is checked, written to both slots and read back from each, and the SC
restarts; FLASH when neither holds it. -/
def execSagEnd (p : MbxPath) (tag : BitVec 16) (s : State) : Res :=
  .next (s.serve p 0x12 tag s.inSag (fun s =>
    match s.sessionOf true p with
    | none => (s, stState, [])
    | some x =>
      let c : Sec := { s.sec with session := none }
      let l := x.staging.take (2 ^ 25)
      let v := c.slotCheck l
      let status := if v = 0 then (if c.flashWp then stWp else stOk) else if v = 4 then stRollback else if v = 6 then stDigest else stBadSig
      if status ≠ stOk then ({ s with sec := c.log1 6 0xFF status l }, status, [])
      else
        let y (bad : Bool) : Slot := { st := if bad then .failed else .pending, bytes := l }
        let c1 : Sec := ({ c with slotA := y c.flashBadA, slotB := y c.flashBadB, next := false } : Sec).saveBoot
        if c.flashBadA && c.flashBadB then ({ s with sec := c1.log1 6 0xFF stFlash l }, stFlash, [])
        else ({ s with sec := { c1.log1 5 0 0 l with phase := .off } }, stOk, [])))

end Sys2Proof.Machine
end

