-- ==== Sys2Proof/Machine/Host.lean ====
section
/-! DEFINITION. The host interface (17): host queues and their records, BAR2, the host window's answers, resets seen from
the host, ATS and IDE; and the semaphore services that may end a queue entry (R433, R506). -/

namespace Sys2Proof.Machine

/-! ### Queues -/

def HostQ.vec (q : HostQ) : Nat := fld q.cfg 46 36
def HostQ.slots (q : HostQ) : Nat := 2 ^ (fld q.cfg 35 32 + 4)
def HostQ.depth (q : HostQ) : Nat := fld q.cfg 31 16
/-- The hub context of a queue (R430). -/
def HostQ.ctx (q : HostQ) : Nat := 10240 + fld q.cfg 8 0
/-- Code of HQ_STATUS.STATE. -/
def QState.code : QState → Nat
  | .off => 0
  | .idle => 1
  | .running => 2
  | .stopping => 3

/-- HOST_QUEUE (Table ERR-4). -/
def State.hqEvent (s : State) (q : Nat) (v : Word) : State := s.raiseHub 0x0905 evConfig q v.toNat

/-- The checks of R430 on a value of HQ_CFG that enables. -/
def State.hqOk (s : State) (q : Nat) (v : Word) : Bool :=
  let x : HostQ := { cfg := v }
  let k := s.ctx x.ctx
  decide ((s.hq q).st = .off) && decide (k.st ≠ .unallotted) && decide (k.cls ≠ .cad) && decide (fld v 35 32 ≤ 12)
    && decide (1 ≤ x.depth) && decide (x.depth ≤ x.slots - 1)

/-- A write of HQ_CFG (R430). -/
def State.hqEnable (s : State) (q : Nat) (v : Word) : State :=
  if !bit v 63 then s
  else if s.hqOk q v then
    s.updHq q (fun x => { x with
      cfg := v &&& 0x80007FFFFFFF01FF#64, st := .idle, head := 0, tail := 0, cqtail := 0, accepted := 0, phase := true
      fetched := [], started := false, blocked := [] })
  else s.hqEvent q v

/-- HQ_CFG_WRITE (R430). -/
def execHqCfgWrite (q : QueueId) (v : Word) (s : State) : Res := .next (s.byReg (s.hqEnable q.val v))

/-- A doorbell (R431). -/
def State.hqDoorbell (s : State) (q : Nat) (v : Word) : State :=
  let x := s.hq q
  if x.st = .off ∨ x.st = .stopping then s
  else if fld v 15 0 ≥ x.slots then s.hqEvent q v
  else s.setHq q { x with tail := fld v 15 0 }

/-- HQ_TAIL (R431). -/
def execHqTail (q : QueueId) (v : Word) (s : State) : Res := .next (s.byReg (s.hqDoorbell q.val v))

/-! ### Records (R434, R435, Table HOST-4) -/

/-- Write bytes at a host bus address. -/
def State.busWrite (s : State) (addr : Nat) (bs : List Byte) : State :=
  if s.host.bme then s.hostPost addr bs
  else s.raise .pcie 0x60 0x0903 evConfig (0x40000000000 + addr - s.host.winBase.toNat) 1

/-- Word 0 of a record, and the rest. -/
def HqRec.word0 (r : HqRec) (phase : Bool) : Nat := b2n phase + r.status * 2 + r.tag * 2 ^ 16 + r.entry * 2 ^ 32
def HqRec.body (r : HqRec) : List Byte :=
  toBytes 8 r.yield ++ toBytes 8 r.elements ++ toBytes 8 (r.nfault + r.overrun * 2 ^ 16)

/-- The slot at CQTAIL is free (R434). -/
def HostQ.free (x : HostQ) : Bool := decide ((x.cqtail + 1) % x.slots ≠ x.cqhead % x.slots)

/-- Write a record into the free slot at CQTAIL, word 0 last. -/
def State.hqWrite (s : State) (q : Nat) (r : HqRec) : State :=
  let x := s.hq q
  let at_ := x.cqbase.toNat + x.cqtail * 32
  let s1 := (s.busWrite (at_ + 8) r.body).busWrite at_ (toBytes 8 (r.word0 x.phase))
  let wrap := decide (x.cqtail + 1 = x.slots)
  let s2 := s1.updHq q (fun x => { x with
    cqtail := if wrap then 0 else x.cqtail + 1, phase := if wrap then !x.phase else x.phase, accepted := x.accepted - 1 })
  if r.irq then s2.msix x.vec else s2

/-- Write a record, or hold it behind the others until a slot is free. -/
def State.hqPost (s : State) (q : Nat) (r : HqRec) : State :=
  let x := s.hq q
  if x.blocked.isEmpty && x.free then s.hqWrite q r else s.setHq q { x with blocked := x.blocked ++ [r] }

/-- Write the held records for which slots are free. -/
def State.hqFlush (s : State) (q : Nat) : Nat → State
  | 0 => s
  | n + 1 =>
    let x := s.hq q
    match x.blocked with
    | [] => s
    | r :: l => if x.free then ((s.setHq q { x with blocked := l }).hqWrite q r).hqFlush q n else s

/-- OP or a reserved bit breaks Table HOST-3 (R432). -/
def HqEntry_bad (e : HqEntry) : Bool :=
  decide (HqEntry_op e > 3) || decide (fld e.word0 15 9 ≠ 0) || decide (fld e.word0 63 32 ≠ 0)
    || e.rest.any (fun w => decide (w ≠ 0)) || decide (fld e.arg1 63 48 ≠ 0)
    || (decide (HqEntry_op e ≠ 3) && decide (e.arg1 ≠ 0))
    || ((decide (HqEntry_op e = 2) || decide (HqEntry_op e = 3)) && decide (fld e.arg0 63 30 ≠ 0))

/-- Yield cycles of the queue's class in its partition (R435). -/
def State.hqYield (s : State) (q : Nat) : Nat :=
  let k := s.ctx (s.hq q).ctx
  let mine := s.threads.filter (fun p => decide ((s.core (coreOf p.1)).part = k.part) && decide (p.2.cls = k.cls)
    && decide (p.2.st ≠ .unallotted))
  (mine.map (fun p => p.2.yieldCnt.toNat)).sum % 2 ^ 64

/-- The record of an entry that completes with `status`; `sums` takes the sums over an XFER's chain, which are 0 for one that has
not started (R434, R435). -/
def State.hqRec (s : State) (q idx : Nat) (e : HqEntry) (status : Nat) (sums : Bool) : HqRec :=
  let k := s.ctx (s.hq q).ctx
  { status := status, tag := HqEntry_tag e, entry := idx, irq := bit e.word0 8
    yield := if HqEntry_op e ≠ 1 then s.hqYield q else if sums then k.sumYield else 0
    elements := if sums then k.sumElems % 2 ^ 64 else 0
    nfault := if sums then min k.sumFault 65535 else 0
    overrun := if sums then min k.sumOver 65535 else 0 }

/-- The first entry completes. -/
def State.hqEnd (s : State) (q status : Nat) (sums : Bool) : State :=
  let x := s.hq q
  match x.fetched with
  | [] => s
  | (idx, e) :: l => (s.setHq q { x with fetched := l, started := false }).hqPost q (s.hqRec q idx e status sums)

/-- Status of a finished chain (R434). -/
def Ctx.hqStatus (k : Ctx) : Nat :=
  if k.sawBad then 2 else if k.sawCancel then 6 else if k.sumFault > 0 then 1 else 0

/-! ### Running entries (R433) -/

/-- RUNNING while an entry or a record is unfinished. -/
def State.hqState (s : State) (q : Nat) : State :=
  s.updHq q (fun x =>
    if x.st = .off ∨ x.st = .stopping then x
    else { x with st := if x.fetched.isEmpty && x.blocked.isEmpty then .idle else .running })

/-- Start the first entry while no record is held and the slot at CQTAIL is free (R434): what needs no waiting completes, and the
next one starts. -/
def State.hqKick (s : State) (q : Nat) : Nat → State
  | 0 => s.hqState q
  | n + 1 =>
    let x := s.hq q
    if x.started ∨ x.blocked ≠ [] ∨ x.free = false then s.hqState q
    else
      match x.fetched with
      | [] => s.hqState q
      | (_, e) :: _ =>
        let s1 := s.setHq q { x with started := true, waitAt := s.count 0x40, expired := false }
        if HqEntry_bad e then (s1.hqEnd q 3 false).hqKick q n
        else
          match HqEntry_op e with
          | 1 =>
            let s2 := s1.updCtx x.ctx (fun k => if k.st = .idle then { k with
                head := e.arg0 &&& ~~~0xFF#64, sumElems := 0, sumFault := 0, sumOver := 0, sumYield := 0, sawBad := false
                sawCancel := false } else k)
            (s2.seGo x.ctx).hqState q
          | 2 => (s1.signal (hqWho q) (HqEntry_sem e) (HqEntry_val e)).hqState q
          | 3 =>
            if HqEntry_val e = 0 then (s1.hqEnd q 0 false).hqKick q n
            else (s1.hqSeek q).hqState q
          | _ => (s1.hqEnd q 0 false).hqKick q n

/-- Start what may start. -/
def State.hqGo (s : State) (q : Nat) : State := s.hqKick q ((s.hq q).fetched.length + 1)

/-- The next released entry is fetched (R431): accepted, or refused with QUEUE_FULL by a full BULK queue. -/
def State.hqFetch (s : State) (q : Nat) (e : HqEntry) : State :=
  let x := s.hq q
  let k := s.ctx x.ctx
  if x.st = .off ∨ x.st = .stopping ∨ x.head = x.tail ∨ s.host.bme = false then s
  else
    let y := { x with head := (x.head + 1) % x.slots, accepted := x.accepted + 1 }
    if x.accepted ≥ x.depth then
      if k.cls = .bulk then ((s.setHq q y).hqPost q (s.hqRec q x.head e 5 false)).hqState q else s
    else (s.setHq q { y with fetched := y.fetched ++ [(x.head, e)] }).hqGo q

/-- NOP (R433): a fetched entry with OP 0, or with an OP that the table rejects. -/
def execHqNop (q : QueueId) (e : HqEntry) (s : State) : Res :=
  .next (if HqEntry_op e = 0 ∨ HqEntry_op e > 3 then s.hqFetch q.val e else s)

/-- XFER (R433). -/
def execHqXfer (q : QueueId) (e : HqEntry) (s : State) : Res := .next (if HqEntry_op e = 1 then s.hqFetch q.val e else s)

/-- SIG (R433). -/
def execHqSig (q : QueueId) (e : HqEntry) (s : State) : Res := .next (if HqEntry_op e = 2 then s.hqFetch q.val e else s)

/-- WAIT (R433). -/
def execHqWait (q : QueueId) (e : HqEntry) (s : State) : Res := .next (if HqEntry_op e = 3 then s.hqFetch q.val e else s)

/-! ### STOP (R436) -/

/-- Every entry still fetched completes with CANCELLED. -/
def State.hqCancelAll (s : State) (q : Nat) : Nat → State
  | 0 => s
  | n + 1 => (s.hqEnd q 6 false).hqCancelAll q n

/-- The stopped queue turns OFF once its records are written. -/
def State.hqOff (s : State) (q : Nat) : State :=
  let x := s.hq q
  if x.st = .stopping ∧ x.fetched = [] ∧ x.blocked = [] then
    s.setHq q { x with st := .off, cfg := putBit x.cfg 63 false, started := false }
  else s

/-- The running entry of a stopping queue ends, and with it the queue. -/
def State.hqStopEnd (s : State) (q : Nat) : State :=
  let op := match (s.hq q).running with
    | some e => HqEntry_op e
    | none => 0
  let s1 := s.hqEnd q 6 (decide (op = 1))
  (s1.hqCancelAll q (s1.hq q).fetched.length).hqOff q

/-- The take of a queue's WAIT is abandoned. -/
def State.hqDropTake (s : State) (q : Nat) : State :=
  { s with semQ := s.semQ.filter (fun r => !(decide (r.who = hqWho q) && r.ask.isTake)) }

/-- STOP. -/
def State.hqHalt (s : State) (q : Nat) : State :=
  let x := s.hq q
  if x.st = .off ∨ x.st = .stopping then s
  else
    let s1 := s.setHq q { x with st := .stopping }
    match x.running with
    | none => (s1.hqCancelAll q x.fetched.length).hqOff q
    | some e =>
      match HqEntry_op e with
      | 1 => s1.seCancel x.ctx
      | 3 => (s1.hqDropTake q).hqStopEnd q
      | _ => s1

/-- HQ_STOP (R436). -/
def execHqStop (q : QueueId) (s : State) : Res := .next (s.byReg (s.hqHalt q.val))

/-- The running entry ends with `status`, and the next one starts; a stopping queue ends. -/
def State.hqDone (s : State) (q status : Nat) (sums : Bool) : State :=
  if (s.hq q).st = .stopping then s.hqStopEnd q else (s.hqEnd q status sums).hqGo q

/-- XFER_COMPLETE (R433, R434): the context of a running XFER is IDLE. -/
def execXferComplete (q : QueueId) (s : State) : Res :=
  let x := s.hq q.val
  let k := s.ctx x.ctx
  .next (match x.running with
    | none => s
    | some e =>
      if HqEntry_op e ≠ 1 ∨ k.st = .active ∨ k.st = .cancelling then s else s.hqDone q.val k.hqStatus true)

/-- HQ_WAIT_TIMEOUT (R39, R433): behind its last counting cycle a running WAIT completes with TIMEOUT; while its take is under way,
the reply decides (R112). -/
def execHqWaitTimeout (q : QueueId) (s : State) : Res :=
  .next (match (s.hq q.val).running with
    | none => s
    | some e =>
      if HqEntry_op e ≠ 3 ∨ s.hqLate q.val e = false then s
      else if s.hqTaking q.val then s.updHq q.val (fun x => { x with expired := true })
      else s.hqDone q.val 4 false)

/-- A write of CQHEAD: held records are written, and an entry may start (R434). -/
def State.hqFree (s : State) (q : Nat) (v : Word) : State :=
  let s1 := s.updHq q (fun x => { x with cqhead := fld v 15 0 })
  if (s1.hq q).st = .off then s1
  else
    let s2 := s1.hqFlush q (s1.hq q).blocked.length
    if (s2.hq q).st = .stopping then s2.hqOff q else s2.hqGo q

/-- HQ_CQHEAD (R434). -/
def execHqCqhead (q : QueueId) (v : Word) (s : State) : Res := .next (s.byReg (s.hqFree q.val v))

/-! ### Semaphores that end an entry (R506) -/

/-- A SIG entry whose signal is applied completes (R113, R433). -/
def State.hqSigDone (s : State) (who : Nat) : State :=
  let q := who - 0xD000
  if who < 0xD000 ∨ who ≥ 0xD040 then s
  else if s.semQ.any (fun r => decide (r.who = who) && r.ask.isSignal) then s
  else
    match (s.hq q).running with
    | some e => if HqEntry_op e = 2 then s.hqDone q 0 false else s
    | none => s

/-- A signal of `who` is visible: a queue's SIG completes, and an engine context may write the record that waited for it
(R279). -/
def State.signalDone (s : State) (who : Nat) : State :=
  if 0x8000 ≤ who ∧ who < 0x8000 + 10752 then s.seDone (who - 0x8000) else s.hqSigDone who

/-- SEM_SIGNAL_APPLIED (R113, R506): the `n` oldest signals that have reached the semaphore. -/
def execSemSignalApplied (sem : BitVec 14) (n : Nat) (s : State) : Res :=
  let ok (r : SemReq) : Bool := decide (r.sem = sem.toNat) && r.ask.isSignal
    && r.behind.all (fun x => !s.remotes.any (fun q => decide (q.1 = x)))
  let p := pickN ok n s.semQ
  .next (if p.1.isEmpty then s
    else p.1.foldl (fun s r => s.signalDone r.who) (({ s with semQ := p.2 } : State).addSignals sem.toNat p.1).hqSeekAll)

/-- Serve one take: it succeeds when the count is at least its value (R111). A queue's WAIT completes, times out when its
timeout has passed meanwhile, or waits for its condition again; a thread gets a reply. -/
def State.serveTake (s : State) (r : SemReq) : State :=
  let c := (s.semCount r.sem).toNat
  let ok := decide (r.ask.value ≤ c)
  let s1 := if ok then s.setSem r.sem (BitVec.ofNat 16 (c - r.ask.value)) else s
  if r.who < 0xD000 then { s1 with takeReply := s1.takeReply ++ [(r.who, ok)] }
  else
    let q := r.who - 0xD000
    match (s.hq q).running with
    | none => s1
    | some e =>
      if ok then s1.hqDone q 0 false
      else if (s1.hq q).expired || s1.hqLate q e then s1.hqDone q 4 false
      else s1.hqSeek q

/-- SEM_TAKE_APPLIED (R112, R506): the `n` oldest takes, one at a time in requester order. -/
def execSemTakeApplied (sem : BitVec 14) (n : Nat) (s : State) : Res :=
  let p := pickN (fun r => decide (r.sem = sem.toNat) && r.ask.isTake) n s.semQ
  let key (r : SemReq) : Nat := takeKey (sem.toNat / 4096) r.who
  .next ((p.1.foldl (fun l r => insByKey key r l) []).foldl State.serveTake { s with semQ := p.2 })

/-! ### BAR2 (R427) -/

/-- Local physical address of a BAR2 offset. -/
def State.bar2Addr (s : State) (off : Nat) : Nat :=
  fld s.host.bar2Base 47 36 * 2 ^ 36 / s.host.bar2Size * s.host.bar2Size + off

/-- The PROT regions, by number, that are enabled, satisfy `p` and reach the bytes. -/
def State.protHit (s : State) (a n : Nat) (p : Prot → Bool) : Option Nat :=
  (s.prots.find? (fun r => r.2.en && p r.2 && decide (a < r.2.limit) && decide (r.2.base < a + n))).map (·.1)

/-- The bytes are memory that BAR2 reaches. -/
def State.bar2Mem (s : State) (a n : Nat) : Bool :=
  let ok (a : Nat) : Bool := s.isMem a && (s.gear.memReady || decide (s.place a ≠ .lpddr))
  ok a && ok (a + n - 1) && (s.protHit a n (fun r => r.nohost || r.sconly)).isNone

/-- An access that NOHOST bars raises HOST_PROT. -/
def State.bar2Prot (s : State) (a n : Nat) : State :=
  match s.protHit a n (fun r => r.nohost) with
  | some i => s.raise .pcie 0x60 0x0902 evSecurity a i
  | none => s

/-- BAR2 reads 0 and ignores writes. -/
def State.bar2Off (s : State) : Bool := s.power.down || s.inSag

/-- BAR2_READ (R427, R291, Table MEM-3): data with EP when a granule is bad, or Unsupported Request. -/
def execBar2Read (off : BitVec 48) (n : Fin 65) (s : State) : Res :=
  let a := s.bar2Addr off.toNat
  .next (if s.fnReady = false ∨ n.val = 0 ∨ off.toNat + n.val > s.host.bar2Size then s
    else if s.bar2Off then s.emit (.bar2 true false (List.replicate n.val 0))
    else if s.bar2Mem a n.val then
      (s.touch a n.val { cls := .bulk, eng := 32 }).emit (.bar2 true (s.anyBad a n.val 0) (s.bytes a n.val))
    else (s.bar2Prot a n.val).emit (.bar2 false false []))

/-- BAR2_WRITE (R427, R291, R316): a write with EP stores its bytes poisoned. -/
def execBar2Write (off : BitVec 48) (bytes : List Byte) (ep : Bool) (s : State) : Res :=
  let a := s.bar2Addr off.toNat
  let n := bytes.length
  .next (if s.fnReady = false ∨ n = 0 ∨ off.toNat + n > s.host.bar2Size ∨ s.bar2Off = true then s
    else if s.bar2Mem a n then s.store a bytes { cls := .bulk, eng := 32 } (fun _ => ep)
    else (s.bar2Prot a n).raise .pcie 0x60 0x0904 evConfig a 0)

/-! ### The host window (R429) and ATS (R424) -/

/-- The host page of a read. -/
def State.readPage (s : State) (r : HostRead) : Nat := s.busAddr r.addr / 4096

/-- Invalidations complete once no read that used the translation is under way (R424). -/
def State.atsSettle (s : State) : State :=
  let waits (p : Nat) : Bool := s.host.reads.any (fun r => decide (s.readPage r = p))
  let s1 : State := { s with host := { s.host with inval := s.host.inval.filter waits } }
  (s.host.inval.filter (fun p => !waits p)).foldl (fun s p => s.emit (.invalidated p)) s1

/-- The data register of a debug access: bits [47:0] the address, [127:64] the data (R501). -/
def dbgReg (a : BitVec 48) (v : Word) : BitVec 128 := BitVec.ofNat 128 (a.toNat + v.toNat * 2 ^ 64)

/-- The host answers a debug read (R429, R501): the data, or a free value where it answers with an error (log 57). -/
def State.tapAnswer (s : State) (off : Nat) (a : Answer) : State :=
  let v := if a.2.2 = 0 then BitVec.ofNat 64 (ofBytes (a.1.take 8)) else s.drawn
  (if a.2.2 = 0 then s else s.draw).emit (.tdo (dbgReg (BitVec.ofNat 48 (0x40000000000 + off)) v))

/-- A host-window read is answered: its requester takes the bytes, or poison. -/
def State.hostAnswer (s : State) (tag : Nat) (ok ep : Bool) (bytes : List Byte) : State :=
  match s.host.reads.find? (fun r => decide (r.tag = tag)) with
  | none => s
  | some r =>
    let s1 := ({ s with host := { s.host with reads := s.host.reads.filter (fun q => decide (q.tag ≠ tag)) } } : State).atsSettle
    let a : Answer :=
      if ok then ((bytes ++ List.replicate r.size 0).take r.size, List.replicate ((r.size + 31) / 32) ep, 0) else ([], [], 2)
    match r.who with
    | .thread t => s1.threadAnswer t.val true tag (0x40000000000 + r.addr) a
    | .ctx x => s1.engineAnswer x.val (s1.lnkId.toNat * 2 ^ 48 + 0x40000000000 + r.addr) a
    | .host =>
      match r.pel with
      | some t => s1.pelAnswer t (s1.lnkId.toNat * 2 ^ 48 + 0x40000000000 + r.addr) a
      | none => s1.tapAnswer r.addr a

/-- HOST_WINDOW_COMPLETION (R429). -/
def execHostWindowCompletion (tag : Nat) (status : CplStatus) (bytes : List Byte) (s : State) : Res :=
  .next (match status with
    | .ok => s.hostAnswer tag true false bytes
    | .ep => s.hostAnswer tag true true bytes
    | .ur => s.hostAnswer tag false false []
    | .ca => s.hostAnswer tag false false [])

/-- HOST_WINDOW_READ_TIMEOUT (R429): the granules are delivered poisoned. -/
def execHostWindowReadTimeout (tag : Nat) (s : State) : Res := .next (s.hostAnswer tag false false [])

/-- ATS_INVALIDATE_REQUEST (R424). -/
def execAtsInvalidateRequest (page : BitVec 52) (s : State) : Res :=
  let p := page.toNat
  let held := (s.host.page p).isSome
  let s1 : State := { s with host := { s.host with
    atc := s.host.atc.filter (fun q => decide (q.1 ≠ p)), inval := if held then insertNat s.host.inval p else s.host.inval } }
  .next (if held then s1.atsSettle else s.emit (.invalidated p))

/-- IDE_INTEGRITY_FAILURE (R425): the event, and the stream is insecure; what that makes of its traffic is the Base Specification's
to say (log 33). -/
def execIdeIntegrityFailure (s : State) : Res :=
  .next (if s.host.ide then
      ({ s with host := { s.host with ideFail := true } } : State).raise .pcie 0x60 0x0901 evSecurity 0 0
    else s)

/-! ### Configuration space (R423, R426) -/

/-- What configuration space says of the function (Table HOST-1): vendor, device, class code, revision and serial number. -/
structure PciId where
  vendor : BitVec 16
  device : BitVec 16
  class_ : BitVec 24
  revision : Byte
  serial : BitVec 64
  deriving DecidableEq, Repr

/-- Identity of the function (R423): the revision ID and the serial number are fuses (Table SEC-1). -/
def State.pciId (s : State) : PciId :=
  { vendor := Config.pciVendor, device := 0x7200#16, class_ := 0x120000#24, revision := s.stepping, serial := s.sec.dsn }

/-- Sizes of BAR0, BAR2 and BAR4 (Table HOST-2). -/
def HostIf.barSize (h : HostIf) (b : Nat) : Nat := if b = 0 then 2 ^ 26 else if b = 2 then h.bar2Size else 2 ^ 20

/-- A BAR's register pair (R426): 64-bit, BAR2 prefetchable, the address a multiple of the size. -/
def HostIf.barPair (h : HostIf) (b : Nat) : Word :=
  let a := (if b = 0 then h.bar0 else if b = 2 then h.bar2 else h.bar4).toNat
  BitVec.ofNat 64 (a / h.barSize b * h.barSize b + 4 + b2n (decide (b = 2)) * 8)

/-! ### Resets seen from the host (R438) -/

/-- A queue is stopped without records. -/
def State.hqKill (s : State) (q : Nat) : State :=
  let x := s.hq q
  let s1 := match x.running with
    | some e => if HqEntry_op e = 1 then s.seCancel x.ctx else s.hqDropTake q
    | none => s
  s1.setHq q {}

/-- FUNCTION_LEVEL_RESET (R438): queues stop, HQ and H_ registers, MSI-X, ATS, IDE and configuration space are reset.
Reads of the host window under way are still answered, or time out. -/
def execFunctionLevelReset (kind : FnReset) (s : State) : Res :=
  let s1 := (List.range 64).foldl (fun s q => s.hqKill q) s
  let h := s1.host
  .next { s1 with host := {
    bar2Base := 0, winBase := 0, reads := h.reads, linkUp := h.linkUp && decide (kind = .flr)
    width := if kind = .flr then h.width else 0
    rate := if kind = .flr then h.rate else 0 } }

end Sys2Proof.Machine
end

