-- ==== Sys2Proof/Machine/Threads.lean ====
section
/-! DEFINITION. Thread control (R44 to R48), countdown timers (R60, R61), the core Bell (R137, R138), the hub Bell
(R139, R140, R508), the glitch filters (R141) and the end of an EVT_OUT pulse (R411). -/

namespace Sys2Proof.Machine

/-! ### Thread control -/

/-- State code of a thread (Table CORE-2), ELIGIBLE for a running one. -/
def TState.code : TState → Nat
  | .unallotted => 0
  | .halted => 1
  | .running => 2
  | .stopped => 4

/-- The partition is blocked while an image is applied (R418). -/
def State.blockedPart (s : State) (p : Nat) : Bool := bit s.gear.blocked p

/-- RUN of a thread (R47, R418). -/
def State.runThread (s : State) (t : Nat) : State :=
  let th := s.thr t
  if s.blockedPart (s.core (coreOf t)).part then s.raiseCore (coreOf t) 0x0A03 evConfig t 1
  else
    match th.st with
    | .halted => s.setThr t { th with st := .running, haltReq := false }
    | .running => s
    | _ => s.raiseCore (coreOf t) 0x0102 evConfig t th.st.code

/-- HALT of a thread (R46). -/
def State.haltThread (s : State) (t : Nat) : State :=
  if (s.thr t).st = .running then s.updThr t (fun th => { th with haltReq := true }) else s

/-- CLEAR of a thread (R44, R48). -/
def State.clearThread (s : State) (t : Nat) : State :=
  if (s.thr t).st = .stopped then (s.updThr t (fun th => { th with st := .halted, haltReq := false })).haltPins else s

/-- A write of THR_CTL: each bit is judged against the state before the write; HALT wins over RUN (R47). -/
def State.thrCtl (s : State) (t : Nat) (v : Word) : State :=
  let st := (s.thr t).st
  let s1 := if bit v 2 then s.clearThread t else s
  if bit v 1 then (if st = .running then s1.haltThread t else s1)
  else if bit v 0 then
    (if st = .stopped ∧ s.blockedPart (s.core (coreOf t)).part = false then s1.raiseCore (coreOf t) 0x0102 evConfig t st.code else s1.runThread t)
  else s1

/-- THR_CTL_RUN (R47). -/
def execThrCtlRun (t : ThreadId) (s : State) : Res := .next (s.byReg (s.byCore (coreOf t.val) (0x108 + t.val % 16 * 0x20) (s.thrCtl t.val 1#64)))
/-- THR_CTL_HALT (R46). -/
def execThrCtlHalt (t : ThreadId) (s : State) : Res := .next (s.byReg (s.byCore (coreOf t.val) (0x108 + t.val % 16 * 0x20) (s.thrCtl t.val 2#64)))
/-- THR_CTL_CLEAR (R44, R48). -/
def execThrCtlClear (t : ThreadId) (s : State) : Res := .next (s.byReg (s.byCore (coreOf t.val) (0x108 + t.val % 16 * 0x20) (s.thrCtl t.val 4#64)))

/-- THREAD_HALT_AT_BOUNDARY (R46, R135, R136): the thread enters HALTED; a pending WAIT is abandoned and a move stops
part-way. An entry that the Bell has latched takes place first. -/
def execThreadHaltAtBoundary (t : ThreadId) (s : State) : Res :=
  let th := s.thr t.val
  .next (if th.haltReq && decide (th.st = .running) && s.mayStop t.val && !s.latchedFor t.val then
      (s.closeMove t.val).updThr t.val (fun th => { th.leave with st := .halted, haltReq := false })
    else s)

/-! ### Timers -/

/-- Timer `k` of a core. -/
def State.timer (s : State) (c k : Nat) : Timer := kget {} (s.core c).timers k
def State.setTimer (s : State) (c k : Nat) (x : Timer) : State :=
  s.updCore c (fun q => { q with timers := kset {} q.timers k x })

/-- What an expiry makes of a timer (R60). -/
def Timer.expire (x : Timer) : Timer :=
  if x.periodic && decide (x.reload ≠ 0) then { x with count := x.reload } else { x with count := 0, en := false }

/-- A core's timers count: its CCLK runs and its core group is ON (R62). -/
def State.timed (s : State) (c : Nat) : Bool := s.coreOn c && !s.clkOff.contains (dieOf c)

/-- TIMER_EXPIRY (R60): the count passes from 1 to 0. A count of 0 with EN set, which only a write of TMR_COUNT leaves, does
not expire (DESIGN CHOICE, log 60). -/
def execTimerExpiry (c : CoreId) (k : Fin 4) (s : State) : Res :=
  let x := s.timer c.val k.val
  .next (if x.en && decide (x.count = 1) && s.timed c.val then (s.bellRaise c.val k.val).setTimer c.val k.val x.expire else s)

/-- TMR_COUNT_WRITE (R61). -/
def execTmrCountWrite (c : CoreId) (k : Fin 4) (v : Word) (s : State) : Res :=
  .next (s.byReg (s.byCore c.val (0x40 + k.val * 16) (s.setTimer c.val k.val { s.timer c.val k.val with count := BitVec.ofNat 48 (fld v 47 0) })))

/-- TMR_CTL_WRITE (R61): setting EN with a count of 0 raises the source and acts as an expiry. -/
def execTmrCtlWrite (c : CoreId) (k : Fin 4) (v : Word) (s : State) : Res :=
  let x : Timer := { s.timer c.val k.val with
    reload := BitVec.ofNat 48 (fld v 63 16), periodic := bit v 1, en := bit v 0 }
  .next (s.byReg (s.byCore c.val (0x48 + k.val * 16) (if x.en && decide (x.count = 0) then (s.bellRaise c.val k.val).setTimer c.val k.val x.expire
    else s.setTimer c.val k.val x)))

/-! ### Core Bell -/

/-- The source's PEND, level inputs following their input (R137). -/
def Bell.isPend (b : Bell) (n : Nat) : Bool :=
  if n ≥ 48 then decide (kget 0 b.inputs (n - 48) ≠ 0) else bit b.pend n

/-- Source `n` contends (R137, R508). -/
def Bell.contends (b : Bell) (n : Nat) : Bool :=
  b.isPend n && bit b.en n && decide (kget 0 b.pri n > b.thresh) && !(decide (n ≥ 48) && bit b.mute (n - 48))

/-- The contender with the highest PRI, on equal PRI the lowest number (R137). -/
def Bell.winner (b : Bell) : Option Nat :=
  (List.range 64).foldl (fun w n =>
    if b.contends n then
      (match w with
        | some m => if kget 0 b.pri m < kget 0 b.pri n then some n else w
        | none => some n)
    else w) none

/-- XCAUSE.SRC of a source (Table EXC-1): the source, or 0x100 plus the forwarded hub source. -/
def Bell.src (b : Bell) (n : Nat) : Nat := if n ≥ 48 then 0x100 + (kget 0 b.inputs (n - 48) - 1) else n

/-- The interrupt thread of a core. -/
def State.intThread (s : State) (c : Nat) : Nat := c * 16 + (s.core c).bell.ithr

/-- The interrupt thread stands where R135 lets an interrupt in, with ST.IE 1 and XACT and SKACT 0 (R49, R138), and no
evaluation window pauses it (R328). -/
def State.accepts (s : State) (c : Nat) : Bool :=
  let t := s.intThread c
  let th := s.thr t
  decide (th.st = .running) && s.mayStop t && stIe th.sr.st && !stXact th.sr.st && !stSkact th.sr.st && !s.gated t

/-- BELL_LATCH (R138). -/
def execBellLatch (c : CoreId) (s : State) : Res :=
  let b := (s.core c.val).bell
  .next (match b.latched, b.winner with
    | none, some n =>
      if s.accepts c.val then s.updCore c.val (fun k => { k with bell := { b with latched := some (n, b.src n) } }) else s
    | _, _ => s)

/-- What delivering source `n` does to the Bell: an edge source's PEND clears; an edge hub source is acknowledged
and its input muted (R137, R508). -/
def State.bellDeliver (s : State) (c n src : Nat) : State :=
  if n < 48 then s.updCore c (fun k => { k with bell := { k.bell with pend := putBit k.bell.pend n false } })
  else if hubLevel (src - 0x100) then s
  else
    let s1 := s.updCore c (fun k => { k with bell := { k.bell with mute := putBit k.bell.mute (n - 48) true } })
    { s1 with hub := { s1.hub with acks := s1.hub.acks ++ [(src - 0x100, c, n - 48)] } }

/-- INTERRUPT_ENTRY (R121, R138): to the source's vector, or spurious when it has stopped contending. A thread that a window
pauses enters when the window has closed (R328). -/
def execInterruptEntry (c : CoreId) (s : State) : Res :=
  let b := (s.core c.val).bell
  .next (match b.latched with
    | none => s
    | some l =>
      let t := s.intThread c.val
      let still := b.contends l.1
      if s.gated t then s
      else
      let s1 := s.updCore c.val (fun k => { k with bell := { k.bell with latched := none } })
      if !s.accepts c.val then s1
      else
        let s2 := (if still then s1.bellDeliver c.val l.1 l.2 else s1).closeMove t
        let vec := if still then kget 0 b.vec l.1 else b.spurVec
        let src := if still then l.2 else 0x3FF
        s2.updThr t (fun th => th.enterX th.pc th.sr.st (causeWord th true 0x10 src) 0 vec))

/-- BELL_SET (R137): raises SWI0 to SWI3. -/
def execBellSet (c : CoreId) (v : Word) (s : State) : Res :=
  .next (s.byReg (s.byCore c.val (0xC08) (s.updCore c.val (fun k => { k with bell := { k.bell with
    pend := k.bell.pend ||| BitVec.ofNat 64 (fld v 3 0 * 16) } }))))

/-! ### Hub Bell -/

/-- HUB_BELL_SET (R139): bit k raises source 0x80 + k. -/
def execHubBellSet (v : Word) (s : State) : Res :=
  .next (s.byReg ((List.range 64).foldl (fun s k => if bit v k then s.hubRaise (0x80 + k) else s) s))

/-- HUB_BELL_CFG_WRITE (R139): EN is written; a 1 at PEND clears it for an edge source. -/
def execHubBellCfgWrite (n : Fin 256) (v : Word) (s : State) : Res :=
  let x := s.hubSrc n.val
  .next (s.byReg (s.hubPut n.val { x with en := bit v 7, pend := x.pend && !(bit v 6 && !hubLevel n.val) }))

/-- The source forwarded to input `j` of core `c`: highest PRI, then lowest number (R139). -/
def State.forwarded (s : State) (c j : Nat) : Option Nat :=
  s.hub.srcs.foldl (fun w p =>
    if p.2.contends && decide (p.2.dtype = 1) && decide (p.2.tgt / 32 = c) && decide (p.2.tgt % 16 = j) then
      (match w with
        | some m => if (s.hubSrc m).pri < p.2.pri then some p.1 else w
        | none => some p.1)
    else w) none

/-- HUB_BELL_ACK (R508): the acknowledgment of a delivered edge source clears its PEND. -/
def execHubBellAck (n : Fin 256) (s : State) : Res :=
  .next (match s.hub.acks.find? (fun a => decide (a.1 = n.val)) with
    | none => s
    | some a =>
      let s1 : State := { s with hub := { s.hub with acks := s.hub.acks.erase a } }
      s1.hubPut n.val { s1.hubSrc n.val with pend := false })

/-- HUB_INPUT_CHANGE (R139, R140, R508): the forwarded source of an input is visible at the core; the input contends
again once no acknowledgment of it is under way. -/
def execHubInputChange (c : CoreId) (j : Fin 16) (s : State) : Res :=
  let v := match s.forwarded c.val j.val with
    | some n => n + 1
    | none => 0
  let owed := s.hub.acks.any (fun a => decide (a.2 = (c.val, j.val)))
  .next (s.updCore c.val (fun k => { k with bell := { k.bell with
    inputs := kset 0 k.bell.inputs j.val v
    mute := if owed then k.bell.mute else putBit k.bell.mute j.val false } }))

/-! ### Pins -/

/-- EVT_IN_EDGE (R141): the pin has held a level for N samples and the filter output takes it; the output's transition to the
active level raises the source; not while the hub is held in reset (R31). -/
def execEvtInEdge (k : Fin 4) (level : Bool) (s : State) : Res :=
  let f := kget {} s.hub.filters k.val
  let s1 : State := { s with hub := { s.hub with filters := kset {} s.hub.filters k.val { f with level := level } } }
  .next (if !s.ref25 then s else if decide (level ≠ f.level) && (level != f.pol) then s1.hubRaise k.val else s1)

/-- EVT_OUT_PULSE_END (R411). -/
def execEvtOutPulseEnd (pin : Fin 2) (s : State) : Res :=
  .next { s with hub := { s.hub with pulse := putBit s.hub.pulse pin.val false } }

end Sys2Proof.Machine
end

