-- ==== Sys2Proof/Machine/Registers.lean ====
section
/-! DEFINITION. The registers (R11 to R15): where each stands in BAR0, what it reads and what a write of it does. -/

namespace Sys2Proof.Machine

/-- The registers, with their numbers. -/
inductive Reg where
  | hqCfg (q : Nat) | hqBase (q : Nat) | hqCqbase (q : Nat) | hqTail (q : Nat) | hqCqhead (q : Nat) | hqStatus (q : Nat)
  | hqCtl (q : Nat)
  | hIdent | hBar2Base | hWinBase
  | msixAddr (n : Nat) | msixData (n : Nat) | pba (k : Nat)
  | mbxCtl
  | gearState | gearLoadAddr | gearLoadCtl | gearResult0 | gearResult1 | gearChal (k : Nat) | gearActive
  | evrMap | evtFatal0 | evtFatal1 | evrCfg (r : Nat) | evrBase (r : Nat) | evrHead (r : Nat) | evrTail (r : Nat)
  | clkSnapCtl | clkSnap (id : Nat) | evtDrop (id : Nat) | clkCount (id : Nat)
  | pelTree (t : Nat) | pelRank (t : Nat) | pelDl (t : Nat) | pelDl2 (t : Nat) | pelBtab (t : Nat) | pelHandoff (t : Nat)
  | pelNote (t : Nat) | pelCnt (t k : Nat)
  | stepCfg | stepStatus | stepCtl | evalLimit | evalDefer | stepTokens
  | cadCfg | cadRaster | cadStatus | cadFbase | cadCtl | cadCh0 (c : Nat) | cadCh1 (c : Nat) | cadSubmit | cadCommit
  | cadPool0 (p : Nat) | cadPool1 (p : Nat) | cadPoolBusy (p : Nat) | cadPoolNext (p : Nat) | cadCnt (k : Nat)
  | lnkCfg (p : Nat) | lnkStatus (p : Nat) | lnkCtl (p : Nat) | lnkCnt (p k : Nat) | lnkGlobal | lnkRoute (d : Nat)
  | lnkExp0 (w : Nat) | lnkExp1 (w : Nat)
  | hubBellCfg (n : Nat) | hubBellSet | gfCtl (k : Nat) | gfDiv (m : Nat)
  | seCfg (e : Nat) | seFloor (e : Nat) | seSlots (e : Nat) | seCancelDropped (e : Nat) | seOverrun (e : Nat)
  | seBankhold (e : Nat) | seHead (x : Nat) | seCtl (x : Nat) | seStatus (x : Nat) | seDone (x : Nat)
  | xlatInv (u : Nat)
  | pwrDom0 | pwrDom1 | pwrInput | pwrDie (d : Nat) | pwrHub | pwrCause
  | memRegion (r : Nat) | memCfg | poolCfg (d : Nat) | partRoot (p : Nat) | memBkt (g c : Nat) | memErr (g k : Nat)
  | seqEntry (e : Nat) | seqBase (e : Nat)
  | cacheMask (c n : Nat) | cacheLfsr (c : Nat) | issueFloor (c : Nat) | tmrCount (c k : Nat) | tmrCtl (c k : Nat)
  | thrStatus (t : Nat) | thrCtl (t : Nat) | thrPc (t : Nat) | thrYield (t : Nat) | thrAflags (t : Nat) | thrAtrap (t : Nat)
  | bellCfg (c n : Nat) | bellVec (c n : Nat) | bellPend (c : Nat) | bellSet (c : Nat) | bellCtl (c : Nat)
  | bellSpurVec (c : Nat) | tileAttr (c j : Nat) | accOwn (c : Nat) | tilePwr (c : Nat) | tileLatchHit (c : Nat)
  | arrStatus (c : Nat) | arrCnt (c a k : Nat) | xlatReason (t : Nat)
  deriving DecidableEq, Repr

/-! ### The map -/

/-- Registers of a host queue. -/
def regHq (q o : Nat) : Option Reg :=
  match o with
  | 0x00 => some (.hqCfg q)
  | 0x08 => some (.hqBase q)
  | 0x10 => some (.hqCqbase q)
  | 0x18 => some (.hqTail q)
  | 0x20 => some (.hqCqhead q)
  | 0x28 => some (.hqStatus q)
  | 0x30 => some (.hqCtl q)
  | _ => none

/-- Registers of the host block, the mailbox and the gearing unit. -/
def regLow (o : Nat) : Option Reg :=
  if o < 0x40000 then regHq (o / 0x1000) (o % 0x1000)
  else if 0xF0000 ≤ o ∧ o < 0xF8000 then
    (if o % 16 = 0 then some (.msixAddr ((o - 0xF0000) / 16)) else if o % 16 = 8 then some (.msixData ((o - 0xF0000) / 16)) else none)
  else if 0xF8000 ≤ o ∧ o < 0xF8100 then (if o % 8 = 0 then some (.pba ((o - 0xF8000) / 8)) else none)
  else
    match o with
    | 0x40000 => some .hIdent
    | 0x40008 => some .hBar2Base
    | 0x40010 => some .hWinBase
    | 0x100000 => some .mbxCtl
    | 0x200000 => some .gearState
    | 0x200008 => some .gearLoadAddr
    | 0x200010 => some .gearLoadCtl
    | 0x200018 => some .gearResult0
    | 0x200020 => some .gearResult1
    | 0x200028 => some (.gearChal 0)
    | 0x200030 => some (.gearChal 1)
    | 0x200038 => some .gearActive
    | _ => none

/-- An array of registers of 8 bytes. -/
def regRow (o n : Nat) (f : Nat → Reg) : Option Reg := if o % 8 = 0 ∧ o / 8 < n then some (f (o / 8)) else none

/-- The domains of Table CLK-1. -/
def clockIds : List Nat :=
  [0, 1, 2, 3, 0x10, 0x11, 0x12, 0x13] ++ (List.range 16).map (0x20 + ·) ++ [0x40] ++ (List.range 8).map (0x50 + ·)
    ++ [0x60, 0x70, 0x80, 0x90]

/-- A register of each domain. -/
def regClk (o : Nat) (f : Nat → Reg) : Option Reg :=
  if o % 8 = 0 ∧ clockIds.contains (o / 8) = true then some (f (o / 8)) else none

/-- Registers of the event block and the cycle counters, from 0x300000. -/
def regEvt (o : Nat) : Option Reg :=
  if o = 0 then some .evrMap
  else if o = 0x40 then some .evtFatal0
  else if o = 0x48 then some .evtFatal1
  else if 0x100 ≤ o ∧ o < 0x200 then
    let r := (o - 0x100) / 0x20
    match o % 0x20 with
    | 0x00 => some (.evrCfg r)
    | 0x08 => some (.evrBase r)
    | 0x10 => some (.evrHead r)
    | 0x18 => some (.evrTail r)
    | _ => none
  else if o = 0xC0000 then some .clkSnapCtl
  else if 0xD0000 ≤ o ∧ o < 0xD8000 then regClk (o - 0xD0000) .clkSnap
  else if 0xE0000 ≤ o ∧ o < 0xE8000 then regClk (o - 0xE0000) .evtDrop
  else if 0xF0000 ≤ o ∧ o < 0xF8000 then regRow (o - 0xF0000) 4096 .clkCount
  else none

/-- Registers of a Peloton tree. -/
def regPel (t o : Nat) : Option Reg :=
  match o with
  | 0x00 => some (.pelTree t)
  | 0x08 => some (.pelRank t)
  | 0x10 => some (.pelDl t)
  | 0x18 => some (.pelDl2 t)
  | 0x20 => some (.pelBtab t)
  | 0x28 => some (.pelHandoff t)
  | 0x30 => some (.pelNote t)
  | _ => if 0x40 ≤ o then regRow (o - 0x40) 7 (.pelCnt t) else none

/-- Registers of Peloton and the step, from 0x400000. -/
def regStep (o : Nat) : Option Reg :=
  if o < 0x8000 then regPel (o / 0x1000) (o % 0x1000)
  else
    match o with
    | 0xF0000 => some .stepCfg
    | 0xF0008 => some .stepStatus
    | 0xF0010 => some .stepCtl
    | 0xF0018 => some .evalLimit
    | 0xF0020 => some .evalDefer
    | 0xF0028 => some .stepTokens
    | _ => none

/-- Registers of the cadence port, from 0x500000. -/
def regCad (o : Nat) : Option Reg :=
  if 0x100 ≤ o ∧ o < 0x140 then
    (if o % 16 = 0 then some (.cadCh0 ((o - 0x100) / 16)) else if o % 16 = 8 then some (.cadCh1 ((o - 0x100) / 16)) else none)
  else if 0x400 ≤ o ∧ o < 0x600 then
    let p := (o - 0x400) / 0x20
    match o % 0x20 with
    | 0x00 => some (.cadPool0 p)
    | 0x08 => some (.cadPool1 p)
    | 0x10 => some (.cadPoolBusy p)
    | 0x18 => some (.cadPoolNext p)
    | _ => none
  else if 0x800 ≤ o then regRow (o - 0x800) 7 .cadCnt
  else
    match o with
    | 0x00 => some .cadCfg
    | 0x08 => some .cadRaster
    | 0x10 => some .cadStatus
    | 0x18 => some .cadFbase
    | 0x20 => some .cadCtl
    | 0x200 => some .cadSubmit
    | 0x208 => some .cadCommit
    | _ => none

/-- Registers of the links, from 0x600000. -/
def regLnk (o : Nat) : Option Reg :=
  if o < 0x8000 then
    let p := o / 0x1000
    match o % 0x1000 with
    | 0x00 => some (.lnkCfg p)
    | 0x08 => some (.lnkStatus p)
    | 0x10 => some (.lnkCtl p)
    | x => if 0x40 ≤ x then regRow (x - 0x40) 6 (.lnkCnt p) else none
  else if o = 0x8000 then some .lnkGlobal
  else if 0x10000 ≤ o ∧ o < 0x12000 then regRow (o - 0x10000) 1024 .lnkRoute
  else if 0x12000 ≤ o ∧ o < 0x12100 then
    (if o % 16 = 0 then some (.lnkExp0 ((o - 0x12000) / 16)) else if o % 16 = 8 then some (.lnkExp1 ((o - 0x12000) / 16)) else none)
  else none

/-- Registers of a Stream Engine with `n` contexts from ID `x0`. -/
def regSe (e n x0 o : Nat) : Option Reg :=
  if 0x1000 ≤ o ∧ o < 0x1000 + n * 0x20 then
    let x := x0 + (o - 0x1000) / 0x20
    match o % 0x20 with
    | 0x00 => some (.seHead x)
    | 0x08 => some (.seCtl x)
    | 0x10 => some (.seStatus x)
    | 0x18 => some (.seDone x)
    | _ => none
  else
    match o with
    | 0x00 => some (.seCfg e)
    | 0x08 => some (.seFloor e)
    | 0x10 => some (.seSlots e)
    | 0x18 => some (.seCancelDropped e)
    | 0x20 => some (.seOverrun e)
    | 0x28 => some (.seBankhold e)
    | _ => none

/-- Registers of the hub Bell, the filters, the hub engines and power, from 0x700000. -/
def regHub (o : Nat) : Option Reg :=
  if o < 0x800 then regRow o 256 .hubBellCfg
  else if o = 0x800 then some .hubBellSet
  else if 0x900 ≤ o ∧ o < 0x920 then regRow (o - 0x900) 4 .gfCtl
  else if 0x940 ≤ o ∧ o < 0x950 then regRow (o - 0x940) 2 .gfDiv
  else if 0x40000 ≤ o ∧ o < 0x80000 then
    regSe (32 + (o - 0x40000) / 0x10000) 128 (10240 + (o - 0x40000) / 0x10000 * 128) (o % 0x10000)
  else if o = 0x80000 then some (.xlatInv 4)
  else if 0xC0020 ≤ o ∧ o < 0xC0040 then regRow (o - 0xC0020) 4 .pwrDie
  else
    match o with
    | 0xC0000 => some .pwrDom0
    | 0xC0008 => some .pwrDom1
    | 0xC0010 => some .pwrInput
    | 0xC0040 => some .pwrHub
    | 0xC0048 => some .pwrCause
    | _ => none

/-- Registers of a die's memory system. -/
def regMem (d o : Nat) : Option Reg :=
  if o < 0x20 then regRow o 4 .memRegion
  else if o = 0x20 then some .memCfg
  else if o = 0x28 then some (.poolCfg d)
  else if 0x40 ≤ o ∧ o < 0x60 then regRow (o - 0x40) 4 .partRoot
  else if o = 0x60 then some (.xlatInv d)
  else if 0x1000 ≤ o ∧ o < 0x1400 then
    let g := d * 4 + (o - 0x1000) / 0x100
    let x := o % 0x100
    if x < 0x20 then regRow x 4 (.memBkt g) else if 0x40 ≤ x then regRow (x - 0x40) 3 (.memErr g) else none
  else none

/-- Registers of a die: engines, memory and sequence table. -/
def regDie (d o : Nat) : Option Reg :=
  if 0x100000 ≤ o ∧ o < 0x180000 then
    let e := d * 8 + (o - 0x100000) / 0x10000
    regSe e 320 (e * 320) (o % 0x10000)
  else if 0x200000 ≤ o ∧ o < 0x202000 then regMem d (o - 0x200000)
  else if 0x300000 ≤ o ∧ o < 0x301000 then
    let e := d * 256 + (o - 0x300000) / 16
    if o % 16 = 0 then some (.seqEntry e) else if o % 16 = 8 then some (.seqBase e) else none
  else none

/-- Registers of a core. -/
def regCore (c o : Nat) : Option Reg :=
  if 0x10 ≤ o ∧ o < 0x30 then regRow (o - 0x10) 4 (.cacheMask c)
  else if o = 0x30 then some (.cacheLfsr c)
  else if o = 0x38 then some (.issueFloor c)
  else if 0x40 ≤ o ∧ o < 0x80 then
    (if o % 16 = 0 then some (.tmrCount c ((o - 0x40) / 16)) else if o % 16 = 8 then some (.tmrCtl c ((o - 0x40) / 16)) else none)
  else if 0x100 ≤ o ∧ o < 0x300 then
    let t := c * 16 + (o - 0x100) / 0x20
    match o % 0x20 with
    | 0x00 => some (.thrStatus t)
    | 0x08 => some (.thrCtl t)
    | 0x10 => some (.thrPc t)
    | 0x18 => some (.thrYield t)
    | _ => none
  else if 0x400 ≤ o ∧ o < 0x500 then
    let t := c * 16 + (o - 0x400) / 16
    if o % 16 = 0 then some (.thrAflags t) else if o % 16 = 8 then some (.thrAtrap t) else none
  else if 0x800 ≤ o ∧ o < 0xA00 then regRow (o - 0x800) 64 (.bellCfg c)
  else if 0xA00 ≤ o ∧ o < 0xC00 then regRow (o - 0xA00) 64 (.bellVec c)
  else if 0x1000 ≤ o ∧ o < 0x1100 then regRow (o - 0x1000) 32 (.tileAttr c)
  else if 0x1240 ≤ o ∧ o < 0x1280 then
    regRow (o % 0x20) 3 (.arrCnt c ((o - 0x1240) / 0x20))
  else if 0x1400 ≤ o ∧ o < 0x1480 then regRow (o - 0x1400) 16 (fun i => .xlatReason (c * 16 + i))
  else
    match o with
    | 0xC00 => some (.bellPend c)
    | 0xC08 => some (.bellSet c)
    | 0xC10 => some (.bellCtl c)
    | 0xC18 => some (.bellSpurVec c)
    | 0x1100 => some (.accOwn c)
    | 0x1108 => some (.tilePwr c)
    | 0x1110 => some (.tileLatchHit c)
    | 0x1200 => some (.arrStatus c)
    | _ => none

/-- The register at a BAR0 offset, `none` at an unoccupied one (R11, R291). -/
def regAt (o : Nat) : Option Reg :=
  if o < 0x300000 then regLow o
  else if o < 0x400000 then regEvt (o - 0x300000)
  else if o < 0x500000 then regStep (o - 0x400000)
  else if o < 0x600000 then regCad (o - 0x500000)
  else if o < 0x700000 then regLnk (o - 0x600000)
  else if o < 0x800000 then regHub (o - 0x700000)
  else if o < 0x1800000 then regDie ((o - 0x800000) / 0x400000) ((o - 0x800000) % 0x400000)
  else if 0x2000000 ≤ o ∧ o < 0x2000000 + 288 * 0x10000 then regCore ((o - 0x2000000) / 0x10000) (o % 0x10000)
  else none

/-! ### Reads (R12, R14) -/

/-- State codes (Tables CAD-2, LNK-7; GEAR_STATE). -/
def Genlock.code : Genlock → Nat
  | .off => 0
  | .acquire => 1
  | .locked => 2
  | .flywheel => 3
  | .holdover => 4
def PortState.code : PortState → Nat
  | .disabled => 0
  | .training => 1
  | .up => 2
  | .degraded => 3
  | .down => 4
def GState.code : GState → Nat
  | .noImage => 0
  | .validating => 1
  | .waiting => 2
  | .applying => 3
  | .active => 4

/-- A word of fields: values with their lowest bits. -/
def wordOf (l : List (Nat × Nat)) : Word := BitVec.ofNat 64 (l.map (fun p => p.1 * 2 ^ p.2)).sum

/-- THR_STATUS (R44, R49): the wait conditions are those of the state, with the next instruction as memory holds it. -/
def State.thrStatus (s : State) (t : Nat) : Word :=
  let th := s.thr t
  if th.st = .unallotted then 0
  else
    let run := decide (th.st = .running)
    let w := s.waitBits t
    wordOf [(if run && decide (w ≠ 0) then 3 else th.st.code, 0), (b2n (decide ((s.core (coreOf t)).bell.ithr = t % 16)), 4),
      (th.pass.code, 5), (th.cls.code, 8), (if run then w else 0, 10)]

/-- Reads of the host, mailbox and gearing registers. -/
def State.readHost (s : State) : Reg → Word
  | .hqCfg q => (s.hq q).cfg
  | .hqBase q => (s.hq q).base
  | .hqCqbase q => (s.hq q).cqbase
  | .hqStatus q =>
    let x := s.hq q
    wordOf [(x.st.code, 0), (b2n x.phase, 3), (x.accepted % 2 ^ 16, 16), (x.cqtail, 32), (x.head, 48)]
  | .hIdent => wordOf [(s.sec.order % 16, 0), (if s.capAM then 768 else 1536, 16), (s.stepping.toNat, 32)]
  | .hBar2Base => s.host.bar2Base
  | .hWinBase => s.host.winBase
  | .msixAddr n => kget 0 s.host.msixAddr n
  | .msixData n => wordOf [((kget 0 s.host.msixData n).toNat, 0), (b2n (!kget false s.host.msixOpen n), 32)]
  | .pba k => wordOf ((List.range 64).map (fun i => (b2n (s.host.pba.contains (k * 64 + i)), i)))
  | .mbxCtl => wordOf [(b2n s.sec.mbxBusy, 1), (b2n s.sec.mbxDone, 2), (b2n s.inSag, 3), (s.sec.rlen % 2 ^ 20, 44)]
  | .gearState => wordOf [(s.gear.st.code, 0), (b2n s.gear.memReady, 3), (s.gear.dbg, 4), (s.waitp, 8), (s.gear.seq.toNat, 32)]
  | .gearLoadAddr => s.gear.loadAddr
  | .gearResult0 => s.gear.result0
  | .gearResult1 => s.gear.result1
  | .gearChal k => BitVec.ofNat 64 (fld s.gear.chal (64 * k + 63) (64 * k))
  | .gearActive => s.gear.active
  | .pwrDom0 => BitVec.ofNat 64 (fld s.power.on 63 0)
  | .pwrDom1 => BitVec.ofNat 64 (fld s.power.on 79 64)
  | .pwrInput => wordOf [(s.power.vin.toNat, 0), (s.power.power % 2 ^ 16, 16), (s.power.plim, 48)]
  | .pwrDie d => wordOf [(if bit s.power.on (d * 18 + 16) then kget 0 s.power.cclk d else 0, 0), (kget 0 s.power.tmax d % 256, 32),
      (s.limitOf d, 40)]
  | .pwrHub => wordOf [(s.power.hubT % 256, 0), (s.power.memT % 256, 8)]
  | .pwrCause => s.power.cause
  | _ => 0

/-- Reads of the event, clock, Peloton and step registers. DEDUCED (log 47): while a write of STEP_CFG waits for the next
fence (R326), a read returns the value last written, as R12 says of RW. -/
def State.readEvt (s : State) : Reg → Word
  | .evrMap => wordOf [(s.events.ringOf.toNat, 0), (s.events.dis.toNat, 18)]
  | .evtFatal0 => wordOf [(b2n s.events.fatalValid, 0), (s.events.fatalDomain, 36), (s.events.fatalCode, 48)]
  | .evtFatal1 => s.events.fatalLoc
  | .evrCfg r =>
    let x := s.ring r
    wordOf [(x.size, 0), (x.vec, 36), (b2n x.arm, 61), (b2n x.space, 62), (b2n x.en, 63)]
  | .evrBase r => (s.ring r).base
  | .evrHead r => wordOf [((s.ring r).head.toNat, 0)]
  | .evrTail r => wordOf [((s.ring r).tail.toNat, 0), ((s.ring r).lost.toNat, 32)]
  | .clkSnapCtl => wordOf [(b2n s.snapDone, 1)]
  | .clkSnap id => kget 0 s.snap id
  | .evtDrop id => kget 0 s.events.drop id
  | .clkCount id => s.count id
  | .pelTree t =>
    let x := s.tree t
    wordOf [(b2n x.en, 0), (b2n x.intra, 1), (x.eng, 2), (x.part, 8), (x.n, 32), (x.stg, 48)]
  | .pelRank t =>
    let r (d : Nat) : Nat := kget 0 (s.tree t).ranks d
    wordOf ((List.range 4).flatMap (fun d => [(r d - 1, 16 * d), (b2n (decide (r d ≠ 0)), 16 * d + 15)]))
  | .pelDl t => wordOf [((s.tree t).dlExp.toNat, 0), ((s.tree t).dlData.toNat, 32)]
  | .pelDl2 t => wordOf [((s.tree t).dlRes.toNat, 0), ((s.tree t).dlChk.toNat, 32)]
  | .pelBtab t => (s.tree t).btab
  | .pelNote t => (s.tree t).note
  | .pelCnt t k => kget 0 (s.tree t).cnt k
  | .stepCfg => s.stepc.cfgWait.getD s.stepc.cfg
  | .stepStatus => wordOf [(b2n s.stepc.evalOpen, 1), (b2n s.stepc.evpend, 2), (s.stepc.applied, 16), (s.stepc.step.toNat, 32)]
  | .evalLimit => wordOf [(s.stepc.limit.toNat, 0)]
  | .evalDefer => s.stepc.defer
  | .stepTokens => s.stepTokens
  | .seqEntry e => s.seqOf e
  | .seqBase e => kget 0 s.seqBase e
  | _ => 0

/-- Reads of the cadence, link and hub Bell registers. -/
def State.readPort (s : State) : Reg → Word
  | .cadCfg => s.cad.cfg
  | .cadRaster => s.cad.raster
  | .cadStatus => wordOf [(s.cad.gl.code, 0), (b2n s.cad.rlpend, 3), (b2n s.cad.link, 4), (s.cad.fnum.toNat, 32)]
  | .cadFbase => BitVec.ofNat 64 s.cad.fbase
  | .cadCh0 c =>
    let x := s.chan c
    wordOf [(x.actw, 32), (x.nslot, 48), (x.fmt, 60), (b2n x.en, 63)]
  | .cadCh1 c => BitVec.ofNat 64 (s.chan c).ring
  | .cadPool0 p =>
    let x := s.pool p
    wordOf [(x.rsig.toNat, 0), (x.qdepth, 32), (x.nthr, 36), (x.cfirst, 40), (x.clast, 49), (x.part, 58), (b2n x.en, 63)]
  | .cadPool1 p =>
    let x := s.pool p
    wordOf [(x.ctxfirst, 0), (x.nctx, 14), (x.mrate, 25), (x.gosem, 36)]
  | .cadPoolBusy p => BitVec.ofNat 64 (s.pool p).busy
  | .cadPoolNext p => (s.pool p).next ||| wordOf [((s.queuedJobs p).length, 0)]
  | .cadCnt k => kget 0 s.cad.cnt k
  | .lnkCfg p =>
    let x := s.port p
    wordOf [(b2n x.en, 0), (x.width, 1), (b2n x.degrade, 3), (x.peer, 16)]
  | .lnkStatus p =>
    let x := s.port p
    wordOf [(x.st.code, 0), (x.reason, 4), (x.widthNow, 12), (x.peerId, 14), (x.lanef.toNat, 24), (b2n x.chg, 32)]
  | .lnkCnt p k => kget 0 (s.port p).cnt k
  | .lnkGlobal => wordOf [(s.lnkId.toNat, 0), (s.lnkStall.toNat, 16), (s.lnkTmo.toNat, 32)]
  | .lnkRoute d =>
    let r := kget {} s.routes d
    wordOf [(r.port, 0), (b2n r.en, 4), (r.hset, 6)]
  | .lnkExp0 w =>
    let x := kget {} s.exports w
    wordOf [(x.sid, 0), (b2n x.any, 60), (b2n x.r, 61), (b2n x.w, 62), (b2n x.en, 63)] ||| BitVec.ofNat 64 x.base
  | .lnkExp1 w => BitVec.ofNat 64 (kget {} s.exports w).limit
  | .hubBellCfg n =>
    let x := s.hubSrc n
    wordOf [(x.pri, 0), (b2n x.pend, 6), (b2n x.en, 7), (x.tgt, 16), (x.dtype, 30)]
  | .gfCtl k =>
    let x := kget {} s.hub.filters k
    wordOf [(b2n (x.level != x.pol), 0), (b2n x.pol, 1), (x.n, 8)]
  | .gfDiv m => BitVec.ofNat 64 (kget 0 s.hub.div m)
  | _ => 0

/-- Reads of the engine and memory registers. -/
def State.readMemory (s : State) : Reg → Word
  | .seCfg e => wordOf [((s.engine e).fwTotal, 0), ((s.engine e).rsvCad, 32)]
  | .seFloor e => wordOf [((s.engine e).floors.toNat, 0)]
  | .seSlots e =>
    let l := (s.engineSlots e).1
    wordOf [(min l.length 1024, 0), (min (l.filter (·.2)).length 1024, 32)]
  | .seCancelDropped e => (s.engine e).cancelDropped
  | .seOverrun e => (s.engine e).overrun
  | .seBankhold e => (s.engine e).bankhold
  | .seHead x => (s.ctx x).head
  | .seStatus x =>
    let k := s.ctx x
    if k.st = .unallotted then 0
    else wordOf [(k.st.code, 0), (k.part, 8), (k.cls.code, 10), (k.fwb, 34), (k.err, 44), (k.seqNow % 2 ^ 16, 48)]
  | .seDone x => (s.ctx x).done
  | .xlatInv u =>
    let x := s.xinvOf u
    wordOf [(b2n x.all, 1), (x.part, 2), (b2n x.busy, 15), (x.vpn.toNat, 16)]
  | .memRegion r =>
    let x := kget {} s.regions r
    wordOf [(b2n x.en, 0), (b2n x.mode, 2), (x.igc, 3), (x.base / 0x18000000, 16), (x.size / 0x18000000, 32)]
  | .memCfg => wordOf [(s.memRate, 0), (b2n s.capAM, 4)]
  | .poolCfg d => wordOf [((kget 0 s.poolCfg d).toNat, 0)]
  | .partRoot p => BitVec.ofNat 64 (s.part p).root
  | .memBkt g c =>
    let b := kget {} s.bkts (g * 4 + c)
    wordOf [(b.rate, 0), (b2n b.borrow, 19), (b.depth, 20), (b.level / 256, 32)]
  | .memErr g k => kget 0 s.memErr (g * 3 + k)
  | _ => 0

/-- Reads of the per-core registers. -/
def State.readCore (s : State) : Reg → Word
  | .cacheMask c n => wordOf [((kget 0 (s.core c).masks n).toNat, 0)]
  | .cacheLfsr c => wordOf [((s.core c).dcache.lfsr.toNat, 0), ((s.core c).icache.lfsr.toNat, 16)]
  | .issueFloor c => wordOf [((s.core c).floors.toNat, 0)]
  | .tmrCount c k => wordOf [((s.timer c k).count.toNat, 0)]
  | .tmrCtl c k =>
    let x := s.timer c k
    wordOf [(b2n x.en, 0), (b2n x.periodic, 1), (x.reload.toNat, 16)]
  | .thrStatus t => s.thrStatus t
  | .thrPc t => (s.thr t).pc
  | .thrYield t => (s.thr t).yieldCnt
  | .thrAflags t => wordOf [((s.thr t).aflags.toNat, 0)]
  | .thrAtrap t => wordOf [((s.thr t).atrap.toNat, 0)]
  | .bellCfg c n =>
    let b := (s.core c).bell
    wordOf [(kget 0 b.pri n, 0), (b2n (bit b.en n), 5)]
  | .bellVec c n => kget 0 (s.core c).bell.vec n
  | .bellPend c => wordOf ((List.range 64).map (fun n => (b2n ((s.core c).bell.isPend n), n)))
  | .bellCtl c => wordOf [((s.core c).bell.thresh, 0), ((s.core c).bell.ithr, 8)]
  | .bellSpurVec c => (s.core c).bell.spurVec
  | .tileAttr c j => (s.tile c j).attr
  | .accOwn c => wordOf ((List.range 4).map (fun a => ((kget ({} : Acc) (s.core c).accs a).owner, 5 * a)))
  | .tilePwr c =>
    let k := s.core c
    wordOf [(b2n k.latch, 0), (b2n k.gate, 1), (k.bankOn.toNat, 4)]
  | .tileLatchHit c => (s.core c).latchHits
  | .arrStatus c => wordOf [((s.core c).arrStatus.toNat, 0)]
  | .arrCnt c a k => kget 0 (s.core c).arrCnt (a * 3 + k)
  | .xlatReason t => (s.thr t).xreason
  | _ => 0

/-- What a register reads; every register belongs to one of the five groups, and the others give 0 for it. -/
def State.readReg (s : State) (r : Reg) : Word :=
  s.readHost r ||| s.readEvt r ||| s.readPort r ||| s.readMemory r ||| s.readCore r

/-! ### Writes (R12 to R14) -/

/-- The state that a command's meaning answers. -/
def landed (r : Host.Outcome State Fault Refusal) (s : State) : State :=
  match r with
  | .next t => t
  | _ => s

/-- The MSI-X mask bit of a vector is written: a held message leaves when it clears (R423). -/
def State.msixMask (s : State) (n : Nat) (masked : Bool) : State :=
  let s1 : State := { s with host := { s.host with msixOpen := kset false s.host.msixOpen n (!masked) } }
  if !masked && s1.host.pba.contains n && s1.host.bme && s1.host.msix then
    ({ s1 with host := { s1.host with pba := s1.host.pba.filter (fun m => decide (m ≠ n)) } } : State).emit (.msix n)
  else s1

/-- A write of MBX_CTL (R452), which the SC serves while it runs: DONE is cleared by a 1; GO starts a request of LEN bytes unless one
is served. -/
def State.writeMbx (s : State) (v : Word) : State :=
  let c := s.sec
  let go := bit v 0 && !c.mbxBusy
  if c.phase = .off then s
  else { s with sec := { c with
    mbxDone := c.mbxDone && !bit v 2 && !go, mbxBusy := c.mbxBusy || go, mbxLen := if go then fld v 43 24 else c.mbxLen } }

/-- A write of SE_CTX_CTL: CANCEL wins (R256, R280). -/
def State.writeSeCtl (s : State) (x : Nat) (v : Word) : State := if bit v 1 then s.seCancel x else if bit v 0 then s.seGo x else s

/-- A write of CACHE_LFSR: a field of 0 is ignored. -/
def Core.writeLfsr (k : Core) (v : Word) : Core :=
  { k with
    icache := if fld v 31 16 = 0 then k.icache else { k.icache with lfsr := BitVec.ofNat 16 (fld v 31 16) }
    dcache := if fld v 15 0 = 0 then k.dcache else { k.dcache with lfsr := BitVec.ofNat 16 (fld v 15 0) } }

/-- Change a core's Bell. -/
def State.updBell (s : State) (c : Nat) (f : Bell → Bell) : State := s.updCore c (fun k => { k with bell := f k.bell })

/-- A ring's register is written. -/
def State.updRing (s : State) (r : Nat) (f : Ring → Ring) : State := s.setRing r (f (s.ring r))

/-- Writes of the host, event, Peloton, step and power registers. `w` is the writer (R319). -/
def State.writeSys (s : State) (w : Writer) (r : Reg) (v : Word) : State :=
  match r with
  | .hqCfg q => s.hqEnable q v
  | .hqBase q => s.updHq q (fun x => { x with base := v &&& ~~~0xFFF#64 })
  | .hqCqbase q => s.updHq q (fun x => { x with cqbase := v &&& ~~~0xFFF#64 })
  | .hqTail q => s.hqDoorbell q v
  | .hqCqhead q => s.hqFree q v
  | .hqCtl q => if bit v 0 then s.hqHalt q else s
  | .hBar2Base => { s with host := { s.host with bar2Base := v &&& 0x0000FFF000000000#64 } }
  | .hWinBase => { s with host := { s.host with winBase := v &&& 0xFFFFFC0000000000#64 } }
  | .msixAddr n => { s with host := { s.host with msixAddr := kset 0 s.host.msixAddr n v } }
  | .msixData n =>
    ({ s with host := { s.host with msixData := kset 0 s.host.msixData n (BitVec.ofNat 32 (fld v 31 0)) } } : State).msixMask n (bit v 32)
  | .mbxCtl => s.writeMbx v
  | .gearLoadAddr => { s with gear := { s.gear with loadAddr := v &&& ~~~0x3F#64 } }
  | .gearLoadCtl => s.gearCtl v
  | .evrMap => { s with events := { s.events with ringOf := BitVec.ofNat 18 (fld v 17 0), dis := BitVec.ofNat 6 (fld v 22 18) } }
  | .evtFatal0 => landed (execEvtFatal0Write v s) s
  | .evtFatal1 => { s with events := { s.events with fatalLoc := v } }
  | .evrCfg k => if h : k < 8 then landed (execEvrCfgWrite ⟨k, h⟩ v s) s else s
  | .evrBase k => s.updRing k (fun x => { x with base := v &&& ~~~0xFFF#64 })
  | .evrHead k => s.updRing k (fun x => { x with head := BitVec.ofNat 32 (fld v 31 0) })
  | .clkSnapCtl => if bit v 0 then s.snapGo else s
  | .evtDrop id => { s with events := { s.events with drop := kset 0 s.events.drop id v } }
  | .pelBtab t => s.updTree t (fun x => { x with btab := v &&& ~~~0x1FF#64 })
  | .pelHandoff t => if h : t < 8 then s.handoff w ⟨t, h⟩ v (bit v 12) else s
  | .pelCnt t k => s.updTree t (fun x => { x with cnt := kset 0 x.cnt k v })
  | .stepCfg => s.writeStepCfg v
  | .stepCtl => s.stepCtl v
  | .evalLimit => { s with stepc := { s.stepc with limit := BitVec.ofNat 48 (fld v 47 0) } }
  | .evalDefer => { s with stepc := { s.stepc with defer := v } }
  | .seqEntry e => s.writeSeq e v
  | .seqBase e => { s with seqBase := kset 0 s.seqBase e v }
  | .pwrCause => { s with power := { s.power with
      trip := bit v 0, rail := bit v 1, memhot := bit v 2, railId := BitVec.ofNat 8 (fld v 15 8) } }
  | _ => s

/-- Writes of the cadence, link, hub Bell, engine and memory registers. -/
def State.writeUnit (s : State) (r : Reg) (v : Word) : State :=
  match r with
  | .cadCtl =>
    let s1 := if bit v 1 then landed (execCadCtlRetrain s) s else s
    if bit v 0 then landed (execCadCtlRelock s1) s1 else s1
  | .cadSubmit => landed (execCadSubmit v s) s
  | .cadCommit => s.commitSlice v
  | .cadCnt k => s.setCad { s.cad with cnt := kset 0 s.cad.cnt k v }
  | .lnkStatus p => if bit v 32 then (s.updPort p (fun x => { x with chg := false })).hubLine (8 + p) false else s
  | .lnkCtl p => s.lnkCtl p v
  | .lnkCnt p k => s.updPort p (fun x => { x with cnt := kset 0 x.cnt k v })
  | .hubBellCfg n => if h : n < 256 then landed (execHubBellCfgWrite ⟨n, h⟩ v s) s else s
  | .hubBellSet => landed (execHubBellSet v s) s
  | .seCancelDropped e => s.updEngine e (fun x => { x with cancelDropped := v })
  | .seOverrun e => s.updEngine e (fun x => { x with overrun := v })
  | .seBankhold e => s.updEngine e (fun x => { x with bankhold := v })
  | .seHead x => s.updCtx x (fun k => if k.st = .idle then { k with head := v &&& ~~~0xFF#64 } else k)
  | .seCtl x => s.writeSeCtl x v
  | .xlatInv u => if h : u < 5 then landed (execXlatInv ⟨u, h⟩ v s) s else s
  | .memErr g k => { s with memErr := kset 0 s.memErr (g * 3 + k) v }
  | _ => s

/-- The core of a per-core register. -/
def Reg.core : Reg → Option Nat
  | .cacheMask c _ => some c
  | .cacheLfsr c => some c
  | .issueFloor c => some c
  | .tmrCount c _ => some c
  | .tmrCtl c _ => some c
  | .thrStatus t => some (coreOf t)
  | .thrCtl t => some (coreOf t)
  | .thrPc t => some (coreOf t)
  | .thrYield t => some (coreOf t)
  | .thrAflags t => some (coreOf t)
  | .thrAtrap t => some (coreOf t)
  | .bellCfg c _ => some c
  | .bellVec c _ => some c
  | .bellPend c => some c
  | .bellSet c => some c
  | .bellCtl c => some c
  | .bellSpurVec c => some c
  | .tileAttr c _ => some c
  | .accOwn c => some c
  | .tilePwr c => some c
  | .tileLatchHit c => some c
  | .arrStatus c => some c
  | .arrCnt c _ _ => some c
  | .xlatReason t => some (coreOf t)
  | _ => none

/-- Writes of the per-core registers. -/
def State.writeCore (s : State) (r : Reg) (v : Word) : State :=
  match r with
  | .cacheLfsr c => s.updCore c (fun k => k.writeLfsr v)
  | .tmrCount c k => if h : c < 288 ∧ k < 4 then landed (execTmrCountWrite ⟨c, h.1⟩ ⟨k, h.2⟩ v s) s else s
  | .tmrCtl c k => if h : c < 288 ∧ k < 4 then landed (execTmrCtlWrite ⟨c, h.1⟩ ⟨k, h.2⟩ v s) s else s
  | .thrCtl t => s.thrCtl t v
  | .thrPc t => s.updThr t (fun th => if th.st = .halted then { th with pc := v &&& ~~~7#64 } else th)
  | .thrYield t => s.updThr t (fun th => { th with yieldCnt := v })
  | .thrAflags t => s.updThr t (fun th => { th with aflags := th.aflags &&& ~~~(BitVec.ofNat 7 (fld v 6 0)) })
  | .thrAtrap t => s.updThr t (fun th => { th with atrap := BitVec.ofNat 7 (fld v 6 0) })
  | .bellCfg c n => s.updBell c (fun b => { b with en := putBit b.en n (bit v 5) })
  | .bellVec c n => s.updBell c (fun b => { b with vec := kset 0 b.vec n (v &&& ~~~7#64) })
  | .bellPend c => s.updBell c (fun b => { b with pend := b.pend &&& ~~~(v &&& 0x0000FFFFFFFFFFFF#64) })
  | .bellSet c => if h : c < 288 then landed (execBellSet ⟨c, h⟩ v s) s else s
  | .bellCtl c => s.updBell c (fun b => { b with thresh := fld v 3 0 })
  | .bellSpurVec c => s.updBell c (fun b => { b with spurVec := v &&& ~~~7#64 })
  | .tileLatchHit c => s.updCore c (fun k => { k with latchHits := v })
  | .arrStatus c => s.updCore c (fun k => { k with arrStatus := k.arrStatus &&& ~~~(BitVec.ofNat 13 (fld v 12 0)) })
  | .arrCnt c a k => s.updCore c (fun x => { x with arrCnt := kset 0 x.arrCnt (a * 3 + k) v })
  | _ => s

/-- A write of a register: a per-core register of an OFF core group is not written and reports CORE_OFFWR (R465). -/
def State.writeReg (s : State) (w : Writer) (off : Nat) (r : Reg) (v : Word) : State :=
  match r.core with
  | some c => if s.coreOn c then s.writeCore r v else s.raiseCore c 0x0104 evConfig off 0
  | none => (s.writeSys w r v).writeUnit r v

/-! ### Accesses -/

/-- The power registers and MBX_CTL, which the module serves while it is held off (R470). -/
def Reg.kept : Reg → Bool
  | .mbxCtl => true
  | .pwrDom0 => true
  | .pwrDom1 => true
  | .pwrInput => true
  | .pwrDie _ => true
  | .pwrHub => true
  | .pwrCause => true
  | _ => false

/-- The register is served: all of them, or those of R470 while the module is held off, or MBX_CTL in Sag mode (R460); none
while the SC holds the other domains in reset for want of REF25 (R31). -/
def State.served (s : State) (r : Reg) : Bool :=
  if !s.ref25 then false
  else if s.power.down then r.kept else if s.inSag then decide (r = .mbxCtl) else true

/-- A register read that reaches BAR0 offset `off`: its value, and what the read leaves: CLK_BADID (R35), and the free
values of the registers that show some. -/
def State.regGet (s : State) (off : Nat) : Word × State :=
  match regAt off with
  | none => (0, s)
  | some r =>
    if !s.served r then (0, s)
    else
      match r with
      | .clkCount id => if clockIds.contains id then (s.count id, s) else (0, s.raiseHub 0x0002 evConfig off id)
      | _ => (s.readReg r, s)

/-- A register write that reaches BAR0 offset `off`; an unoccupied offset ignores it (R291). A Stream Engine writes only
CAD_COMMIT (R275, R276). -/
def State.regPut (s : State) (w : Writer) (off : Nat) (v : Word) : State :=
  match regAt off with
  | none => s
  | some r =>
    let bySe := match w with
      | .ctx _ => true
      | _ => false
    if !s.served r || (bySe && decide (r ≠ .cadCommit)) then s else s.writeReg w off r v

/-- A PROT region gives the register to the Security Controller alone (R118). -/
def State.scReg (s : State) (off : Nat) : Bool := (s.protHit (0x22000000000 + off) 8 (fun r => r.sconly)).isSome

/-- REGISTER_WRITE (R12): a write from the host through BAR0 while the function is ready, or one of a thread or context that has
reached the register. -/
def execRegisterWrite (w : Writer) (off : BitVec 26) (v : Word) (s : State) : Res :=
  let host := match w with
    | .host => true
    | _ => false
  .next (if (host && !s.fnReady) || s.scReg off.toNat then s else s.regPut w off.toNat v)

/-- CLK_COUNT_READ (R34, R35). -/
def execClkCountRead (id : BitVec 12) (s : State) : Res :=
  let r := s.regGet (0x3F0000 + id.toNat * 8)
  .next (r.2.emit (.regRead (0x3F0000 + id.toNat * 8) r.1))

end Sys2Proof.Machine
end

