-- ==== Sys2Proof/Machine/LoadStore.lean ====
section
/-! DEFINITION. LD and SD (R93, R94): through the data cache, to non-cacheable pages, other modules, the host window and
register space. -/

namespace Sys2Proof.Machine

/-- How the place of a translated address is reached (R67, R94). -/
inductive Way where
  | cached
  /-- memory of this module, past the cache -/
  | memory
  /-- another module, past the cache -/
  | remote
  | host (off : Nat)
  | regs (off : Nat)
  deriving DecidableEq, Repr

/-- The way to global address `pa` through leaf `leaf`. -/
def State.way (s : State) (leaf : Word) (pa : Nat) : Way :=
  if !s.isLocal pa then (if leafNc leaf then .remote else .cached)
  else
    match s.place (localOf pa) with
    | .regs off => .regs off
    | .host off => .host off
    | _ => if leafNc leaf then .memory else .cached

/-- The position of a load, which keeps LC as it is when the load stands at LE (Table EXC-3). -/
def Thread.loadPos (th : Thread) : Pos :=
  if th.atLe then { th.pos with lc := some (th.sr.lc0, th.sr.lc1) } else th.pos

/-- A pending load of register `r`. -/
def Thread.pendLoad (th : Thread) (r : Nat) (va : Word) (src : Source) (v : Word)
    (grans : List (Nat × List (Nat × Nat)) := []) : Thread :=
  { th with pend := th.pend ++ [{ left := 3, src := src, writes := [.g r v], pos := th.loadPos, va := va, grans := grans }] }

/-- An access of `size` bytes, other than 8, to register space: ALIGN, ahead of a failure of its translation (R93,
R119). -/
def State.regAlign (s : State) (t : Nat) (va : Word) (size : Nat) : Bool :=
  decide (size ≠ 8) && s.inRegs (.core (coreOf t)) (s.core (coreOf t)).part va.toNat

/-- A load that misses: it joins the fill of its line, which is fetched (R68, R70, R91). -/
def State.loadMiss (s : State) (t rd la off size : Nat) (sx : Bool) (va leaf : Word) : State :=
  let c := coreOf t
  let after := s.storesAhead c la
  let s1 := s.demand c true { la := la, cls := (s.thr t).cls, prefetch := false, store := none, fetcher := none
                              tag := leafTag leaf, np := leafNp leaf }
  s1.updThr t (fun th => th.pendLoad rd va (.line la off size sx after) 0)

/-- The load of `size` bytes at translated address `pa`. -/
def State.loadAt (s : State) (t rd size : Nat) (sx : Bool) (va leaf : Word) (pa : Nat) : Act :=
  let c := coreOf t
  let acs := s.acsOf t leaf
  match s.way leaf pa with
  | .regs off =>
    let r := s.regGet off
    .retire (r.2.updThr t (fun th => th.pendLoad rd va .load r.1))
  | .host off =>
    if !s.host.bme then .exc (s.hostBme off) (dataErr va)
    else if h : t < 4608 then
      .retire ((s.hostLoad (.thread ⟨t, h⟩) off size).updThr t (fun th => th.pendLoad rd va (.host s.hostTag size sx) 0))
    else .hold s
  | .remote =>
    .retire ((s.remoteRead (.load t) pa size acs).updThr t (fun th => th.pendLoad rd va (.remote s.nextXid (pa % 64) size sx) 0))
  | .memory =>
    let a := localOf pa
    let s1 := s.touch a size acs
    if s.anyBad a size acs.tag then .exc s1 (dataErr va)
    else .retire (s1.updThr t (fun th => th.pendLoad rd va .load (loadVal size sx (s.bytes a size)) [(a / 32, [])]))
  | .cached =>
    let la := pa / 256
    let w := pa % 256 / 8
    let r := s.lookup c true la w w
    match r.1 with
    | .hit e =>
      let v := loadVal size sx (lineBytes (r.2.centry c true e).data (pa % 256) size)
      .retire (r.2.updThr t (fun th => th.pendLoad rd va .ready v))
    | .bad => .exc r.2 (dataErr va)
    | _ => .retire (r.2.loadMiss t rd la (pa % 256) size sx va leaf)

/-- LD (R93, R94). -/
def execLd (t : ThreadId) (cond : BitVec 4) (f : BitVec 52) (s : State) : Res :=
  .next (s.issue t.val cond (Body.okM f && !(Body.sx f && decide (Body.sz f = 3))) (fun s =>
    let va := Body.ea f (s.thr t.val)
    let size := 2 ^ Body.sz f
    if va.toNat % size ≠ 0 ∨ s.regAlign t.val va size = true then .exc s (excOf exAlign va)
    else
      let r := s.dataXlat t.val .read va
      match r.1 with
      | .fail _ _ => .exc r.2 (excOf exDataXlat va)
      | .ok leaf _ pa => r.2.loadAt t.val (Body.rd f) size (Body.sx f) va leaf pa))

/-- Store bytes inside one 256-byte block at translated address `pa`; the number of the uncorrectable word it meets when it
meets one (R74). -/
def State.storeAt (s : State) (t : Nat) (leaf : Word) (pa : Nat) (bs : List Byte) : Except (State × Nat) State :=
  let c := coreOf t
  let acs := s.acsOf t leaf
  match s.way leaf pa with
  | .regs off =>
    if h : t < 4608 then
      .ok ((List.range (bs.length / 8)).foldl (fun s i =>
        s.regPut (.thread ⟨t, h⟩) (off + 8 * i) (BitVec.ofNat 64 (ofBytes ((bs.drop (8 * i)).take 8)))) s)
    else .ok s
  | .host off => .ok (s.hostStore off bs)
  | .remote => .ok (s.put (.store t) pa bs acs)
  | .memory => .ok (s.put (.store t) pa bs acs)
  | .cached =>
    let la := pa / 256
    let r := s.lookup c true la (pa % 256 / 8) ((pa % 256 + bs.length - 1) / 8)
    match r.1 with
    | .hit e =>
      let x := r.2.centry c true e
      .ok (r.2.setCentry c true e { x with
        dirty := true, data := lineSet x.data (pa % 256) bs, tag := acs.tag, np := acs.np })
    | .bad =>
      let w := match (s.findLine c true la).map (fun e => (s.centry c true e).err) with
        | some (.double w) => w.val
        | _ => 0
      .error (r.2, w)
    | _ => .ok (r.2.demand c true {
        la := la, cls := (s.thr t).cls, prefetch := false, fetcher := none, tag := leafTag leaf, np := leafNp leaf
        store := some {
          off := pa % 256, bytes := bs, thread := t, cls := (s.thr t).cls, tag := acs.tag, np := acs.np } })

/-- Address of word `w` of the 256-byte block of an address. -/
def wordAddr (va : Word) (w : Nat) : Word := BitVec.ofNat 64 (va.toNat / 256 * 256 + 8 * w)

/-- SD (R93, R94). -/
def execSd (t : ThreadId) (cond : BitVec 4) (f : BitVec 52) (s : State) : Res :=
  .next (s.issue t.val cond (Body.okM f && !Body.sx f) (fun s =>
    let th := s.thr t.val
    let va := Body.ea f th
    let size := 2 ^ Body.sz f
    if va.toNat % size ≠ 0 ∨ s.regAlign t.val va size = true then .exc s (excOf exAlign va)
    else
      let r := s.dataXlat t.val .write va
      match r.1 with
      | .fail _ _ => .exc r.2 (excOf exDataXlat va)
      | .ok leaf _ pa =>
        match r.2.storeAt t.val leaf pa (toBytes size (th.rg (Body.rd f)).toNat) with
        | .error (s1, w) => .exc s1 (excOf exDataErr (wordAddr va w))
        | .ok s1 => .retire s1))

end Sys2Proof.Machine
end

