-- ==== Sys2Proof/Machine/Strings.lean ====
section
/-! DEFINITION. String instructions (R106 to R110): chunks, their reads, their writes and their stop conditions. -/

namespace Sys2Proof.Machine

/-! ### Pieces -/

/-- A part of a chunk's source or destination inside one 256-byte block: address and bytes. -/
structure Piece where
  va : Word
  n : Nat
  write : Bool
  deriving DecidableEq, Repr

/-- The pieces of `n` bytes from an address. -/
def piecesOf (va : Word) (n : Nat) (write : Bool) : List Piece :=
  let k := min n (256 - va.toNat % 256)
  if k = n then [⟨va, n, write⟩] else [⟨va, k, write⟩, ⟨va + BitVec.ofNat 64 k, n - k, write⟩]

/-- A piece with its translation. -/
structure Placed where
  p : Piece
  leaf : Word
  pa : Nat
  deriving DecidableEq, Repr

def Piece.kind (p : Piece) : Access := if p.write then .write else .read

/-- The first piece that lies in register space while the elements are not 8 bytes (R93). -/
def State.pieceAlign (s : State) (t esz : Nat) (l : List Piece) : Option Piece := l.find? (fun p => s.regAlign t p.va esz)

/-- Translate pieces in order. -/
def State.placeAll (s : State) (t : Nat) : List Piece → Except (State × Exc) (List Placed × State)
  | [] => .ok ([], s)
  | p :: l =>
    let r := s.dataXlat t p.kind p.va
    match r.1 with
    | .fail _ _ => .error (r.2, excOf exDataXlat p.va)
    | .ok leaf _ pa =>
      match r.2.placeAll t l with
      | .error e => .error e
      | .ok (q, s1) => .ok (⟨p, leaf, pa⟩ :: q, s1)

/-! ### Reads -/

/-- Outcome of reading a piece. -/
inductive Taken where
  | got (bytes : List Byte) (s : State)
  | wait (s : State)
  | bad (s : State) (e : Exc)

/-- The first poisoned granule among bytes `[o, o + n)` of an answer: DATA_ERR at its first word that is read. -/
def Placed.poisonAt (p : Placed) (o : Nat) (poison : Nat → Bool) : Option Exc :=
  ((granules o p.p.n).find? poison).map (fun g => dataErr (p.p.va + BitVec.ofNat 64 (max (g * 32) o - o)))

/-- Bytes from an answer to the piece's request, at offset `o` of it. -/
def State.fromAnswer (s : State) (p : Placed) (o : Nat) (a : Answer) : Taken :=
  match p.poisonAt o (fun g => decide (a.2.2 ≠ 0) || a.2.1.getD g false) with
  | some e => .bad s e
  | none => .got ((a.1.drop o).take p.p.n) s

/-- Wait for a request of the thread, sent once. -/
def State.farWait (s : State) (t : Nat) (p : Placed) (r : FarRead) (o : Nat) (send : State → State) : Taken :=
  match (s.thr t).far.find? (fun f => decide (f.addr = r.addr) && decide (f.desc = r.desc)) with
  | some f =>
    (match f.answer with
      | some a => s.fromAnswer p o a
      | none => .wait (if r.desc then send s else s))
  | none => .wait (send (s.updThr t (fun th => { th with far := th.far ++ [r] })))

/-- Read a piece (R94, R110). -/
def State.takePiece (s : State) (t : Nat) (p : Placed) : Taken :=
  let c := coreOf t
  let acs := s.acsOf t p.leaf
  let n := p.p.n
  match s.way p.leaf p.pa with
  | .regs off =>
    let r := (List.range (n / 8)).foldl (fun (a : List Byte × State) i =>
      let g := a.2.regGet (off + 8 * i)
      (a.1 ++ toBytes 8 g.1.toNat, g.2)) ([], s)
    .got r.1 r.2
  | .host off =>
    if !s.host.bme then .bad (s.hostBme off) (dataErr p.p.va)
    else if h : t < 4608 then
      s.farWait t p { addr := 0x40000000000 + off, n := n } 0 (fun s => s.hostLoad (.thread ⟨t, h⟩) off n)
    else .wait s
  | .remote =>
    let base := p.pa / 64 * 64
    s.farWait t p { addr := base, n := n } (p.pa % 64) (fun s => s.remoteRead (.load t) p.pa n acs)
  | .memory =>
    let a := localOf p.pa
    let s1 := s.touch a n acs
    match p.poisonAt (a % 256) (fun g => s.bad (a / 256 * 8 + g) acs.tag) with
    | some e => .bad s1 e
    | none => .got (s.bytes a n) s1
  | .cached =>
    let la := p.pa / 256
    let o := p.pa % 256
    let r := s.lookup c true la (o / 8) ((o + n - 1) / 8)
    match r.1 with
    | .hit e => .got (lineBytes (r.2.centry c true e).data o n) r.2
    | .bad =>
      let w := match (s.findLine c true la).map (fun e => (s.centry c true e).err) with
        | some (.double w) => w.val
        | _ => 0
      .bad r.2 (excOf exDataErr (wordAddr p.p.va w))
    | _ => r.2.farWait t p { addr := la * 256, n := 256, desc := true } o (fun s =>
        s.demand c true { la := la, cls := (s.thr t).cls, prefetch := false, store := none, fetcher := none
                          tag := leafTag p.leaf, np := leafNp p.leaf })

/-- Read pieces in order. -/
def State.takeAll (s : State) (t : Nat) : List Placed → Taken
  | [] => .got [] s
  | p :: l =>
    match s.takePiece t p with
    | .got b s1 => (match s1.takeAll t l with
        | .got b2 s2 => .got (b ++ b2) s2
        | x => x)
    | x => x

/-! ### The instructions -/

/-- The registers and fields of a string instruction make it illegal (R106). -/
def Body.okS (f : Body) : Bool :=
  decide (f.resS = 0) && decide (f.rd ≠ f.ra) && decide (f.rd ≠ f.rb) && decide (f.ra ≠ f.rb) && decide (f.rd ≠ 0)
    && decide (f.ra ≠ 0) && decide (f.rb ≠ 0)

/-- Cut bytes into `n` elements of `w` bytes. -/
def elems (w : Nat) : Nat → List Byte → List (List Byte)
  | 0, _ => []
  | n + 1, bs => bs.take w :: elems w n (bs.drop w)

/-- Set F. -/
def Thread.setF (th : Thread) (b : Bool) : Thread := { th with sr := { th.sr with st := stPutF th.sr.st b } }

/-- What a chunk does to the registers: elements passed, and F and C when the instruction stops. -/
structure ChunkEnd where
  k : Nat
  f : Option Bool := none
  c : Option Bool := none
  deriving DecidableEq, Repr

/-- The registers after a chunk (R107, R109). -/
def Thread.endChunk (th : Thread) (f : Body) (src : Bool) (w : Nat) (e : ChunkEnd) : Thread :=
  let adv (r : Nat) (th : Thread) : Thread := th.wg r (th.rg r + BitVec.ofNat 64 (e.k * w))
  let th1 := (adv f.rd th).wg f.rb (th.rg f.rb - BitVec.ofNat 64 e.k)
  let th2 := if src then adv f.ra th1 else th1
  let th3 := match e.f with
    | some b => th2.setF b
    | none => th2
  let th4 : Thread := match e.c with
    | some b => { th3 with sr := { th3.sr with st := putBit th3.sr.st 1 b } }
    | none => th3
  { th4 with far := [] }

/-- Finish a chunk: REP goes on while the instruction has not stopped (R107). -/
def State.chunkDone (s : State) (t : Nat) (f : Body) (src : Bool) (w : Nat) (e : ChunkEnd) : Act :=
  let s1 := s.updThr t (fun th => th.endChunk f src w e)
  if f.rep && e.f.isNone then .part s1 else .retire s1

/-- A string instruction: `src` says that RSRC points to memory, `reads` and `writes` which sides are read and written, and
`act` what the chunk does with the source and destination bytes. DEDUCED (log 61): a misaligned pointer takes its alignment fault
also when RCNT is 0 (R106, R107). -/
def State.string (s : State) (t : Nat) (cond : BitVec 4) (f : Body) (src readDst write : Bool)
    (act : State → List Placed → List Byte → List Byte → Nat → Nat → Act) : State :=
  s.issue t cond f.okS (fun s =>
    let th := s.thr t
    let w := 2 ^ f.esz
    let dst := th.rg f.rd
    let from_ := th.rg f.ra
    let cnt := (th.rg f.rb).toNat
    if dst.toNat % w ≠ 0 then .exc s (excOf exAlign dst)
    else if src ∧ from_.toNat % w ≠ 0 then .exc s (excOf exAlign from_)
    else if cnt = 0 then .retire (s.updThr t (fun th => th.setF false))
    else
      let n := min cnt ((256 - dst.toNat % 256) / w)
      let ps := if src then piecesOf from_ (n * w) false else []
      let pd : List Piece := (if readDst then [⟨dst, n * w, false⟩] else []) ++ (if write then [⟨dst, n * w, true⟩] else [])
      match s.pieceAlign t w (ps ++ pd) with
      | some p => .exc s (excOf exAlign p.va)
      | none =>
        match s.placeAll t (ps.take 1 ++ pd ++ ps.drop 1) with
        | .error (s1, e) => .exc s1 e
        | .ok (l, s1) =>
          let a := (ps.take 1).length
          let src1 := l.take a ++ l.drop (a + pd.length)
          let d := (l.drop a).take pd.length
          let dstR := d.filter (fun p => !p.p.write)
          let dstW := d.filter (fun p => p.p.write)
          match s1.takeAll t src1 with
          | .wait s2 => .hold s2
          | .bad s2 e => .exc s2 e
          | .got bs s2 =>
            match s2.takeAll t dstR with
            | .wait s3 => .hold s3
            | .bad s3 e => .exc s3 e
            | .got bd s3 => act s3 (src1 ++ dstW) bs bd n w)

/-- Write a chunk's bytes at its destination. -/
def State.chunkWrite (s : State) (t : Nat) (l : List Placed) (bs : List Byte) (done : State → Act) : Act :=
  match l.find? (fun p => p.p.write) with
  | none => done s
  | some p =>
    match s.storeAt t p.leaf p.pa bs with
    | .error (s1, w) => .exc s1 (excOf exDataErr (wordAddr p.p.va w))
    | .ok s1 => done s1

/-- The bytes that copying one element at a time in ascending order writes (R109): a source element that an earlier one has
overwritten is read as written. `sa` and `da` are the physical addresses of the bytes. -/
def copyUp (w : Nat) (sa : List Nat) (da : Nat) : Nat → Nat → List Byte → List Byte → List Byte
  | 0, _, _, out => out
  | n + 1, i, bs, out =>
    let one := (List.range w).map (fun j =>
      let a := sa.getD (i * w + j) 0
      if da ≤ a ∧ a < da + i * w then out.getD (a - da) 0 else bs.getD (i * w + j) 0)
    copyUp w sa da n (i + 1) bs (out ++ one)

/-- Physical address of every byte of the source. -/
def srcAddrs (l : List Placed) : List Nat :=
  (l.filter (fun p => !p.p.write)).flatMap (fun p => (List.range p.p.n).map (· + p.pa))

/-- MOVS (R109). -/
def execMovs (t : ThreadId) (cond : BitVec 4) (f : BitVec 52) (s : State) : Res :=
  .next (s.string t.val cond f true false true (fun s l bs _ n w =>
    let da := match l.find? (fun p => p.p.write) with
      | some p => p.pa
      | none => 0
    s.chunkWrite t.val l (copyUp w (srcAddrs l) da n 0 bs []) (fun s =>
      let last := decide (n = ((s.thr t.val).rg (Body.rb f)).toNat)
      s.chunkDone t.val f true w { k := n, f := if last then some false else none })))

/-- FILLS (R109). -/
def execFills (t : ThreadId) (cond : BitVec 4) (f : BitVec 52) (s : State) : Res :=
  .next (s.string t.val cond f false false true (fun s l _ _ n w =>
    let v := toBytes w ((s.thr t.val).rg (Body.ra f)).toNat
    s.chunkWrite t.val l ((List.replicate n v).flatten) (fun s =>
      let last := decide (n = ((s.thr t.val).rg (Body.rb f)).toNat)
      s.chunkDone t.val f false w { k := n, f := if last then some false else none })))

/-- Index of the first element of a list that satisfies `p`. -/
def firstAt {α : Type} (p : α → Bool) : List α → Option Nat
  | [] => none
  | x :: l => if p x then some 0 else (firstAt p l).map (· + 1)

/-- SCANS (R109). -/
def execScans (t : ThreadId) (cond : BitVec 4) (f : BitVec 52) (s : State) : Res :=
  .next (s.string t.val cond f false true false (fun s _ _ bd n w =>
    let v := toBytes w ((s.thr t.val).rg (Body.ra f)).toNat
    let last := decide (n = ((s.thr t.val).rg (Body.rb f)).toNat)
    s.chunkDone t.val f false w (match firstAt (fun e => decide (e = v)) (elems w n bd) with
      | some i => { k := i, f := some true }
      | none => { k := n, f := if last then some false else none })))

/-- CMPS (R109). -/
def execCmps (t : ThreadId) (cond : BitVec 4) (f : BitVec 52) (s : State) : Res :=
  .next (s.string t.val cond f true true false (fun s _ bs bd n w =>
    let last := decide (n = ((s.thr t.val).rg (Body.rb f)).toNat)
    let d := elems w n bd
    let x := elems w n bs
    s.chunkDone t.val f true w (match firstAt (fun p => decide (p.1 ≠ p.2)) (d.zip x) with
      | some i => { k := i, f := some true, c := some (decide (ofBytes (d.getD i []) < ofBytes (x.getD i []))) }
      | none => { k := n, f := if last then some false else none, c := if last then some false else none })))

end Sys2Proof.Machine
end

