-- ==== Sys2Proof/Machine/Tap.lean ====
section
/-! DEFINITION. The TAP and the I3C target (R496, R498 to R501), and instruction words whose opcode is unassigned (R81). -/

namespace Sys2Proof.Machine

/-- The always-on domain is on, so that J3 works, whether or not the SC has started. -/
def State.awake (s : State) : Bool := bit s.power.on 72

/-- SETDASA (R496): the I3C target takes a dynamic address from its static address, which the settings hold. -/
def execSetdasa (addr : BitVec 7) (s : State) : Res :=
  .next (if s.awake then { s with sec := { s.sec with i3cDyn := some addr } } else s)

/-! ### TAP instructions (Table PIN-6) -/

/-- Select a TAP instruction. -/
def State.tapTo (s : State) (i : Tap) : State := if s.awake then { s with tap := i } else s

/-- Select a TAP instruction and shift its data register out. -/
def State.tapOut (s : State) (i : Tap) (v : BitVec 128) : State :=
  if s.awake then (s.tapTo i).emit (.tdo v) else s

/-- The identification code (R498). -/
def State.idCode (s : State) : Nat :=
  fld s.stepping 3 0 * 2 ^ 28 + 0x7200 * 2 ^ 12 + Config.jedec.toNat * 2 + 1

/-- IDCODE (R498). -/
def execIdcode (s : State) : Res := .next (s.tapOut .idcode (BitVec.ofNat 128 s.idCode))

/-- SAMPLE_PRELOAD (R499): pins are not architectural state. -/
def execSamplePreload (s : State) : Res := .next (s.tapTo .sample)

/-- An EXTEST-class instruction: BYPASS unless PERST_N is low (Table PIN-6). -/
def State.tapExtest (s : State) (i : Tap) : State := s.tapTo (if s.power.perstHigh then .bypass else i)

/-- EXTEST (R499). -/
def execExtest (s : State) : Res := .next (s.tapExtest .extest)
/-- EXTEST_PULSE (R499). -/
def execExtestPulse (s : State) : Res := .next (s.tapExtest .extestPulse)
/-- EXTEST_TRAIN (R499). -/
def execExtestTrain (s : State) : Res := .next (s.tapExtest .extestTrain)

/-- The 64 bits of DBG_STAT. -/
def State.dbgStat (s : State) : Nat :=
  fld (s.readReg .gearState) 31 0 + fld (s.readReg .pwrCause) 7 0 * 2 ^ 32 + s.stepping.toNat * 2 ^ 40

/-- DBG_STAT (Table PIN-6). -/
def execDbgStat (s : State) : Res := .next (s.tapOut .dbgStat (BitVec.ofNat 128 s.dbgStat))

/-! ### Debug accesses (R501) -/

/-- A PROT region with SCONLY holds part of the doubleword. -/
def State.scOnly (s : State) (a : Nat) : Bool := (s.protHit a 8 (fun r => r.sconly)).isSome

/-- The doubleword that a debug read captures, `none` while the host has still to answer a read of its window, and what the read
leaves. An address that is not 8-byte aligned gives a free value, and so does a host-window read without bus mastering, which
delivers poison (log 57). -/
def State.dbgGet (s : State) (a : Nat) : Option Word × State :=
  if a % 8 ≠ 0 then (some s.drawn, s.draw)
  else if s.scOnly a then (some 0, s)
  else
    match s.place a with
    | .regs off => (some (s.regGet off).1, (s.regGet off).2)
    | .host off => if s.host.bme then (none, s.hostLoad .host off 8) else (some s.drawn, s.draw.hostBme off)
    | .none => (some 0, s)
    | _ => (some (BitVec.ofNat 64 (s.word a 8)), s.touch a 8 { cls := .bulk })

/-- A debug write (R501); one whose address is not 8-byte aligned is discarded (log 57), and so is one while the SC holds the other
domains in reset (R31). -/
def State.dbgPut (s : State) (a : Nat) (v : Word) : State :=
  if a % 8 ≠ 0 ∨ s.scOnly a = true ∨ s.ref25 = false then s
  else
    match s.place a with
    | .regs off => s.regPut .host off v
    | .host off => s.hostStore off (toBytes 8 v.toNat)
    | .none => s
    | _ => s.store a (toBytes 8 v.toNat) { cls := .bulk }

/-- DBG_READ (R499, R501): BYPASS below level INSPECT. A read of the host window shifts its data out once the host has answered. -/
def execDbgRead (addr : BitVec 48) (s : State) : Res :=
  .next (if s.gear.dbg < 1 then s.tapTo .bypass
    else
      let r := s.dbgGet addr.toNat
      if !s.awake then s
      else
        match r.1 with
        | some v => r.2.tapOut .dbgRead (dbgReg addr v)
        | none => r.2.tapTo .dbgRead)

/-- DBG_WRITE (R499, R501): BYPASS below level FULL. -/
def execDbgWrite (addr : BitVec 48) (v : Word) (s : State) : Res :=
  .next (if s.gear.dbg < 2 then s.tapTo .bypass
    else if s.awake then (s.dbgPut addr.toNat v).tapTo .dbgWrite else s)

/-- The code selects an instruction of Table PIN-6 other than BYPASS at the level in effect (R499). -/
def State.tapPermits (s : State) (code : Byte) : Bool :=
  match code.toNat with
  | 0x01 => true
  | 0x02 => true
  | 0x03 => !s.power.perstHigh
  | 0x04 => !s.power.perstHigh
  | 0x05 => !s.power.perstHigh
  | 0x10 => true
  | 0x11 => decide (s.gear.dbg ≥ 1)
  | 0x12 => decide (s.gear.dbg ≥ 2)
  | _ => false

/-- BYPASS (R499): its own code, a code of no instruction, or one that the debug level or PERST_N bars. -/
def execBypass (code : Byte) (s : State) : Res :=
  .next (if s.tapPermits code then s else s.tapTo .bypass)

/-! ### Unassigned opcodes (R81) -/

/-- Table ISA-3 or Table VEC-3 assigns the opcode. -/
def opAssigned (op : Nat) : Bool :=
  decide (op ≤ 0x11) || decide (op = 0x18) || decide (op = 0x19) || (decide (0x20 ≤ op) && decide (op ≤ 0x2E))
    || decide (op = 0x30) || decide (op = 0x31) || decide (op = 0x40) || decide (op = 0x41) || decide (op = 0x42)
    || decide (op = 0x44) || (decide (0x50 ≤ op) && decide (op ≤ 0x53)) || decide (op = 0x58)
    || (decide (0x60 ≤ op) && decide (op ≤ 0x63)) || (decide (0x68 ≤ op) && decide (op ≤ 0x6C))
    || (decide (0x70 ≤ op) && decide (op ≤ 0x75)) || (decide (0x80 ≤ op) && decide (op ≤ 0x96))
    || (decide (0x98 ≤ op) && decide (op ≤ 0x9A)) || (decide (0x9C ≤ op) && decide (op ≤ 0xA3))
    || (decide (0xB0 ≤ op) && decide (op ≤ 0xBD)) || (decide (0xC0 ≤ op) && decide (op ≤ 0xC9))

/-- Some instruction has the word: its opcode is assigned, and where a field selects the operation of the opcode the field
names one: RD of CMO (Table ISA-6), OP of TEW (R233). -/
def wordAssigned (w : Word) : Bool :=
  let op := fld w 59 52
  opAssigned op && !(decide (op = 0x44) && decide (6 ≤ fld w 51 47)) && !(decide (op = 0xC8) && decide (4 ≤ fld w 36 34))

/-- UNASSIGNED_OPCODE (R81): the word issues and is illegal; a word of some instruction is no such word (log 5). -/
def execUnassignedOpcode (t : ThreadId) (w : Word) (s : State) : Res :=
  .next (if wordAssigned w then s
    else s.issue t.val (BitVec.ofNat 4 (fld w 63 60)) false Act.retire)

end Sys2Proof.Machine
end

