-- ==== Sys2Proof/Machine/VecMem.lean ====
section
/-! DEFINITION. Vector memory (R145, R167 to R173): contiguous, structure, gather, scatter and predicate accesses. -/

namespace Sys2Proof.Machine

/-- One access of a vector instruction: element number, address, bytes, and where they stand: byte `byte` of register `reg`
(32 + p for predicate p). -/
structure VAcc where
  el : Nat
  va : Word
  n : Nat
  reg : Nat
  byte : Nat
  deriving DecidableEq, Repr

/-- An access with its translation. -/
structure VRes where
  a : VAcc
  leaf : Word
  pa : Nat
  deriving DecidableEq, Repr

/-- G[RG] + OFF (R167). -/
def Body.eaV (f : Body) (th : Thread) : Word := th.rg f.rgM + sx64 24 f.offV

/-! ### Accesses of each form -/

/-- Contiguous and structure accesses: field `i` of `n` of every active element (R169). -/
def accLinear (w n : Nat) (p : PReg) (vd : Nat) (base : Word) : List VAcc :=
  (List.range (lanes w)).flatMap (fun k =>
    if p.active w k then (List.range n).map (fun i => ⟨k, base + BitVec.ofNat 64 ((k * n + i) * w), w, vd + i, k * w⟩) else [])

/-- Span of the index group (Table VEC-6). -/
def idxSpan (w : Nat) (ix : Bool) : Nat := max 1 ((lanes w * (if ix then 8 else 4)) / 256)

/-- Index element `k` of the group, and whether its granule is poisoned (R170). -/
def Thread.index (th : Thread) (f : Body) (k : Nat) : Int × Bool :=
  let iw := if f.ix then 8 else 4
  (signed (8 * iw) (th.groupLane iw f.vb k), th.groupBad iw f.vb k)

/-- Gather and scatter accesses of active elements whose index is not poisoned (R170). -/
def accIndexed (w : Nat) (th : Thread) (f : Body) (p : PReg) (base : Word) : List VAcc :=
  (List.range (lanes w)).filterMap (fun k =>
    let i := th.index f k
    if p.active w k && !i.2 then some ⟨k, base + BitVec.ofInt 64 (i.1 * w), w, f.vd, k * w⟩ else none)

/-- The 32 bytes of a predicate (R151). -/
def accPred (vd : Nat) (base : Word) : List VAcc :=
  (List.range 32).map (fun k => ⟨k, base + BitVec.ofNat 64 k, 1, 32 + vd, k⟩)

/-! ### Checks before the first access (R167, R172, R173) -/

/-- Translate the accesses in element order. -/
def State.vxlat (s : State) (t : Nat) (k : Access) : List VAcc → Except (State × Exc) (List VRes × State)
  | [] => .ok ([], s)
  | a :: l =>
    let r := s.dataXlat t k a.va
    match r.1 with
    | .fail _ _ => .error (r.2, excOf exDataXlat a.va)
    | .ok leaf _ pa =>
      match r.2.vxlat t k l with
      | .error e => .error e
      | .ok (q, s1) => .ok (⟨a, leaf, pa⟩ :: q, s1)

/-- The access lies in register space. -/
def State.isReg (s : State) (r : VRes) : Bool :=
  match s.way r.leaf r.pa with
  | .regs _ => true
  | _ => false

/-- All checks: alignment, then translation, then register space for stores; the lowest element of the first failing check
supplies XADDR, but a misaligned contiguous or structure access its own address `lin` (R167). `w` is the width that
addresses must be multiples of. -/
def State.vcheck (s : State) (t w : Nat) (store : Bool) (l : List VAcc) (lin : Option Word := none) :
    Except (State × Exc) (List VRes × State) :=
  match l.find? (fun a => decide (a.va.toNat % w ≠ 0)) with
  | some a => .error (s, excOf exAlign (lin.getD a.va))
  | none =>
    match s.vxlat t (if store then .write else .read) l with
    | .error e => .error e
    | .ok (q, s1) =>
      match if store then q.find? s1.isReg else none with
      | some r => .error (s1, excOf exRegSpace r.a.va)
      | none => .ok (q, s1)

/-! ### Loads -/

/-- What a load has gathered: the register writes so far and the parts under way. -/
structure VLoad where
  writes : List RegWrite
  parts : List FarPart
  s : State
  /-- local granules read, with what they bring -/
  grans : List (Nat × List (Nat × Nat)) := []

/-- The key of a request: the global 32-byte granule and the leaf (R168). -/
def VRes.key (r : VRes) : Nat × Word := (r.pa / 32, r.leaf)

/-- Distinct keys in order of first use. -/
def keysOf (l : List VRes) : List (Nat × Word) := l.foldl (fun ks r => if ks.contains r.key then ks else ks ++ [r.key]) []

/-- Put the bytes of an access into the register writes: `val` and `bad` by byte of the granule. -/
def putAcc (w : List RegWrite) (r : VRes) (val : Nat → Byte) (bad : Bool) : List RegWrite :=
  (List.range r.a.n).foldl (fun w j => w.map (RegWrite.putByte r.a.reg (r.a.byte + j) (val (r.pa % 32 + j)) bad)) w

/-- Where the bytes of an answer go, from offset `o` of it. -/
def movesOf (l : List VRes) (o : Nat) : List (Nat × Nat × Nat) :=
  l.flatMap (fun r => (List.range r.a.n).map (fun j => (o + r.pa % 32 + j, r.a.reg, r.a.byte + j)))

/-- Read one granule for the accesses `l` in it. -/
def VLoad.granule (v : VLoad) (t : Nat) (key : Nat × Word) (l : List VRes) : VLoad :=
  let s := v.s
  let pa := key.1 * 32
  let acs := s.acsOf t key.2
  let give (s : State) (val : Nat → Byte) (bad : Bool) : VLoad :=
    { v with writes := l.foldl (fun w r => putAcc w r val bad) v.writes, s := s }
  match s.way key.2 pa with
  | .regs off =>
    let words := (List.range 4).filter (fun i => l.any (fun r => decide (r.pa % 32 / 8 = i)))
    let r := words.foldl (fun (a : KMap Word × State) i =>
      let g := a.2.regGet (off + 8 * i)
      (kset 0 a.1 i g.1, g.2)) ([], s)
    give r.2 (fun j => BitVec.ofNat 8 (fld (kget 0 r.1 (j / 8)) (j % 8 * 8 + 7) (j % 8 * 8))) false
  | .host off =>
    if !s.host.bme then
      let b := (s.hostBme off).freeBytes 32
      give b.2 (fun j => b.1.getD j 0) true
    else if h : t < 4608 then
      { v with
        parts := v.parts ++ [{ tag := s.hostTag, host := true, moves := movesOf l 0 }]
        s := s.hostLoad (.thread ⟨t, h⟩) off 32 }
    else v
  | .remote =>
    { v with
      parts := v.parts ++ [{ tag := s.nextXid, host := false, moves := movesOf l (pa % 64) }]
      s := s.remoteRead (.load t) pa 32 acs }
  | _ =>
    if s.isLocal pa then
      let a := localOf pa
      { give (s.touch a 32 acs) (fun j => s.byte (a + j)) (s.bad (a / 32) acs.tag) with
        grans := v.grans ++ [(a / 32, (movesOf l 0).map (·.2))] }
    else
      { v with
        parts := v.parts ++ [{ tag := s.nextXid, host := false, moves := movesOf l (pa % 64) }]
        s := s.remoteRead (.load t) pa 32 acs }

/-- Perform the loads of checked accesses into `writes`. -/
def State.vload (s : State) (t : Nat) (writes : List RegWrite) (l : List VRes) : Act :=
  let v := (keysOf l).foldl (fun (v : VLoad) k => v.granule t k (l.filter (fun r => decide (r.key = k)))) { writes := writes, parts := [], s := s }
  .retire (v.s.updThr t (fun th => { th with pend := th.pend ++ [{
    left := 3, src := if v.parts.isEmpty then .load else .vmem v.parts, writes := v.writes, pos := th.pos, grans := v.grans }] }))

/-- The value of a destination register before its active elements arrive: inactive ones merged or zeroed, with the poison
of the predicate, of merged elements and of poisoned index granules (R145, R149, R170). -/
def vbase (w : Nat) (p : PReg) (zm : Bool) (old : VReg) (idxBad : Nat → Bool) (free : Nat → Nat) : VReg :=
  let ks := List.range (lanes w)
  let bad (g : Nat) : Bool := bit p.poison g || (!zm && p.someIdle w g && bit old.poison g)
    || ks.any (fun k => decide (k * w / 32 = g) && p.active w k && idxBad k)
  { data := packLanes w (ks.map (fun k =>
      if p.active w k then (if idxBad k then free k else 0) else if zm then 0 else laneOf w old.data k))
    poison := poisonBits bad }

/-- Legality of form V-M: reserved bits, ET, and the fields that the instruction uses (R148, R151). -/
def Body.okVM (f : Body) (vb zm ix : Bool) : Bool :=
  decide (f.resVM = 0) && decide (f.et ≠ 7) && (vb || decide (f.vb = 0)) && (zm || !f.zm) && (ix || !f.ix)

/-- VLD and VLDn (R167, R169). -/
def State.vldn (s : State) (t : Nat) (cond : BitVec 4) (f : Body) (n : Nat) : State :=
  s.issue t cond (f.okVM false true false && decide (f.vd + n ≤ 32)) (fun s =>
    let th := s.thr t
    let w := etWidth f.et
    let p := th.gov f
    match s.vcheck t w false (accLinear w n p f.vd (f.eaV th)) (some (f.eaV th)) with
    | .error (s1, e) => .exc s1 e
    | .ok (l, s1) => s1.vload t ((List.range n).map (fun i =>
        .v (f.vd + i) (vbase w p f.zm (th.rv (f.vd + i)) (fun _ => false) (fun _ => 0)))) l)

/-- VLD. -/
def execVld (t : ThreadId) (cond : BitVec 4) (f : BitVec 52) (s : State) : Res := .next (s.vldn t.val cond f 1)
/-- VLD2. -/
def execVld2 (t : ThreadId) (cond : BitVec 4) (f : BitVec 52) (s : State) : Res := .next (s.vldn t.val cond f 2)
/-- VLD3. -/
def execVld3 (t : ThreadId) (cond : BitVec 4) (f : BitVec 52) (s : State) : Res := .next (s.vldn t.val cond f 3)
/-- VLD4. -/
def execVld4 (t : ThreadId) (cond : BitVec 4) (f : BitVec 52) (s : State) : Res := .next (s.vldn t.val cond f 4)

/-- VGATH (R170): elements with a poisoned index take free bytes, poisoned. -/
def execVgath (t : ThreadId) (cond : BitVec 4) (f : BitVec 52) (s : State) : Res :=
  .next (s.issue t.val cond (Body.okVM f true true true && groupOk (Body.vb f) (idxSpan (etWidth (Body.et f)) (Body.ix f))) (fun s =>
    let th := s.thr t.val
    let w := etWidth (Body.et f)
    let p := th.gov f
    match s.vcheck t.val w false (accIndexed w th f p (Body.eaV f th)) with
    | .error (s1, e) => .exc s1 e
    | .ok (l, s1) =>
      let idxBad (k : Nat) : Bool := (th.index f k).2
      let fr := s1.freeBytes (if (List.range (lanes w)).any (fun k => p.active w k && idxBad k) then 256 else 0)
      fr.2.vload t.val [.v (Body.vd f) (vbase w p (Body.zm f) (th.rv (Body.vd f)) idxBad
        (fun k => ofBytes ((fr.1.drop (k * w)).take w)))] l))

/-- PLD (R151). -/
def execPld (t : ThreadId) (cond : BitVec 4) (f : BitVec 52) (s : State) : Res :=
  .next (s.issue t.val cond (Body.okVM f false false false && decide (Body.et f = 0) && decide (Body.psel f = 0)
      && decide (Body.vd f < 8)) (fun s =>
    match s.vcheck t.val 1 false (accPred (Body.vd f) (Body.eaV f (s.thr t.val))) with
    | .error (s1, e) => .exc s1 e
    | .ok (l, s1) => s1.vload t.val [.p (Body.vd f) {}] l))

/-! ### Stores -/

/-- A byte to be written: offset in its granule, value, poison. -/
abbrev VByte := Nat × Byte × Bool

/-- Maximal runs of written bytes from offset `i` on. -/
def runsOf (m : Nat → Option Byte) : Nat → Nat → List (Nat × List Byte)
  | 0, _ => []
  | n + 1, i =>
    match m i with
    | none => runsOf m n (i + 1)
    | some b =>
      match runsOf m n (i + 1) with
      | (j, bs) :: l => if j = i + 1 then (i, b :: bs) :: l else (i, [b]) :: (j, bs) :: l
      | [] => [(i, [b])]

/-- Write bytes of one granule (R168, R170, R316, R429): `m` gives the bytes that stand after the last element. -/
def State.vput (s : State) (t : Nat) (key : Nat × Word) (l : List VByte) : State :=
  let pa := key.1 * 32
  let acs := s.acsOf t key.2
  let m (j : Nat) : Option Byte := (l.reverse.find? (fun b => decide (b.1 = j))).map (·.2.1)
  let poison := l.any (·.2.2)
  let whole := (List.range 32).all (fun j => (m j).isSome)
  let runs := runsOf m 32 0
  let away : State :=
    let o := pa % 64
    let img := (List.range 64).map (fun j => if o ≤ j ∧ j < o + 32 then (m (j - o)).getD 0 else 0)
    let en := runs.foldl (fun (w : Word) r => w ||| blockEnables (o + r.1) r.2.length) 0
    s.request (.store t) 2 (pa / 64 * 64) 2 acs en (cutGranules (fun g => poison && decide (g = o / 32)) 0 2 img)
  match s.way key.2 pa with
  | .regs _ => s
  | .host off =>
    if poison then s.raise .pcie 0x60 0x0906 evPoisoned (localOf pa) 0
    else if !s.host.bme then s.hostStore off []
    else runs.foldl (fun s r => s.hostStore (off + r.1) r.2) s
  | .remote => away
  | _ =>
    if !s.isLocal pa then away
    else
      let a := localOf pa
      let s1 := runs.foldl (fun s r => s.poke (a + r.1) r.2) (s.sealAs (a / 32) whole acs poison)
      match s1.place a with
      | .lpddr => s1.send a (if whole then 32 else 31) true acs
      | _ => s1

/-- Perform the stores of checked accesses: `val` gives byte `b` of register `r` and its poison. -/
def State.vstore (s : State) (t : Nat) (val : Nat → Nat → Byte × Bool) (l : List VRes) : Act :=
  .retire ((keysOf l).foldl (fun s k =>
    s.vput t k ((l.filter (fun r => decide (r.key = k))).flatMap (fun r =>
      (List.range r.a.n).map (fun j => (r.pa % 32 + j, val r.a.reg (r.a.byte + j)))))) s)

/-- Byte `b` of vector register `r`, poisoned with its granule or with the predicate's. -/
def Thread.vbyte (th : Thread) (p : PReg) (r b : Nat) : Byte × Bool :=
  let x := th.rv r
  (BitVec.ofNat 8 (fld x.data (8 * b + 7) (8 * b)), bit x.poison (b / 32) || bit p.poison (b / 32))

/-- VST and VSTn (R167, R169). -/
def State.vstn (s : State) (t : Nat) (cond : BitVec 4) (f : Body) (n : Nat) : State :=
  s.issue t cond (f.okVM false false false && decide (f.vd + n ≤ 32)) (fun s =>
    let th := s.thr t
    let w := etWidth f.et
    let p := th.gov f
    match s.vcheck t w true (accLinear w n p f.vd (f.eaV th)) (some (f.eaV th)) with
    | .error (s1, e) => .exc s1 e
    | .ok (l, s1) => s1.vstore t (th.vbyte p) l)

/-- VST. -/
def execVst (t : ThreadId) (cond : BitVec 4) (f : BitVec 52) (s : State) : Res := .next (s.vstn t.val cond f 1)
/-- VST2. -/
def execVst2 (t : ThreadId) (cond : BitVec 4) (f : BitVec 52) (s : State) : Res := .next (s.vstn t.val cond f 2)
/-- VST3. -/
def execVst3 (t : ThreadId) (cond : BitVec 4) (f : BitVec 52) (s : State) : Res := .next (s.vstn t.val cond f 3)
/-- VST4. -/
def execVst4 (t : ThreadId) (cond : BitVec 4) (f : BitVec 52) (s : State) : Res := .next (s.vstn t.val cond f 4)

/-- VSCAT (R170): elements with a poisoned index are not written. -/
def execVscat (t : ThreadId) (cond : BitVec 4) (f : BitVec 52) (s : State) : Res :=
  .next (s.issue t.val cond (Body.okVM f true false true && groupOk (Body.vb f) (idxSpan (etWidth (Body.et f)) (Body.ix f))) (fun s =>
    let th := s.thr t.val
    let w := etWidth (Body.et f)
    let p := th.gov f
    match s.vcheck t.val w true (accIndexed w th f p (Body.eaV f th)) with
    | .error (s1, e) => .exc s1 e
    | .ok (l, s1) => s1.vstore t.val (th.vbyte p) l))

/-- PST (R151, R146): its 32 bytes are poisoned with the predicate's granules of 4 bytes. -/
def execPst (t : ThreadId) (cond : BitVec 4) (f : BitVec 52) (s : State) : Res :=
  .next (s.issue t.val cond (Body.okVM f false false false && decide (Body.et f = 0) && decide (Body.psel f = 0)
      && decide (Body.vd f < 8)) (fun s =>
    let th := s.thr t.val
    let x := th.rp (Body.vd f)
    match s.vcheck t.val 1 true (accPred (Body.vd f) (Body.eaV f th)) with
    | .error (s1, e) => .exc s1 e
    | .ok (l, s1) => s1.vstore t.val (fun _ b => (BitVec.ofNat 8 (fld x.bits (8 * b + 7) (8 * b)), bit x.poison (b / 4))) l))

end Sys2Proof.Machine
end

