-- ==== Sys2Proof/Machine/Dispatch.lean ====
section
/-! DEFINITION. One arm per command: its meaning. -/

namespace Sys2Proof.Machine

def exec (i : Instr) (s : State) : Host.Outcome State Fault Refusal :=
  match i with
  | .registerWrite w off v => Sys2Proof.Machine.execRegisterWrite w off v s
  | .clkCountRead id => Sys2Proof.Machine.execClkCountRead id s
  | .thrCtlRun t => Sys2Proof.Machine.execThrCtlRun t s
  | .thrCtlHalt t => Sys2Proof.Machine.execThrCtlHalt t s
  | .threadHaltAtBoundary t => Sys2Proof.Machine.execThreadHaltAtBoundary t s
  | .thrCtlClear t => Sys2Proof.Machine.execThrCtlClear t s
  | .timerExpiry c k => Sys2Proof.Machine.execTimerExpiry c k s
  | .tmrCountWrite c k v => Sys2Proof.Machine.execTmrCountWrite c k v s
  | .tmrCtlWrite c k v => Sys2Proof.Machine.execTmrCtlWrite c k v s
  | .cacheFill c data e err => Sys2Proof.Machine.execCacheFill c data e err s
  | .loadDataReturns t => Sys2Proof.Machine.execLoadDataReturns t s
  | .add t cond f => Sys2Proof.Machine.execAdd t cond f s
  | .sub t cond f => Sys2Proof.Machine.execSub t cond f s
  | .and t cond f => Sys2Proof.Machine.execAnd t cond f s
  | .or t cond f => Sys2Proof.Machine.execOr t cond f s
  | .xor t cond f => Sys2Proof.Machine.execXor t cond f s
  | .andn t cond f => Sys2Proof.Machine.execAndn t cond f s
  | .sll t cond f => Sys2Proof.Machine.execSll t cond f s
  | .srl t cond f => Sys2Proof.Machine.execSrl t cond f s
  | .sra t cond f => Sys2Proof.Machine.execSra t cond f s
  | .ror t cond f => Sys2Proof.Machine.execRor t cond f s
  | .min t cond f => Sys2Proof.Machine.execMin t cond f s
  | .max t cond f => Sys2Proof.Machine.execMax t cond f s
  | .minu t cond f => Sys2Proof.Machine.execMinu t cond f s
  | .maxu t cond f => Sys2Proof.Machine.execMaxu t cond f s
  | .cmp t cond f => Sys2Proof.Machine.execCmp t cond f s
  | .popc t cond f => Sys2Proof.Machine.execPopc t cond f s
  | .mul t cond f => Sys2Proof.Machine.execMul t cond f s
  | .mulh t cond f => Sys2Proof.Machine.execMulh t cond f s
  | .mfs t cond f => Sys2Proof.Machine.execMfs t cond f s
  | .mts t cond f => Sys2Proof.Machine.execMts t cond f s
  | .addi t cond f => Sys2Proof.Machine.execAddi t cond f s
  | .subi t cond f => Sys2Proof.Machine.execSubi t cond f s
  | .andi t cond f => Sys2Proof.Machine.execAndi t cond f s
  | .ori t cond f => Sys2Proof.Machine.execOri t cond f s
  | .xori t cond f => Sys2Proof.Machine.execXori t cond f s
  | .andni t cond f => Sys2Proof.Machine.execAndni t cond f s
  | .slli t cond f => Sys2Proof.Machine.execSlli t cond f s
  | .srli t cond f => Sys2Proof.Machine.execSrli t cond f s
  | .srai t cond f => Sys2Proof.Machine.execSrai t cond f s
  | .rori t cond f => Sys2Proof.Machine.execRori t cond f s
  | .mini t cond f => Sys2Proof.Machine.execMini t cond f s
  | .maxi t cond f => Sys2Proof.Machine.execMaxi t cond f s
  | .minui t cond f => Sys2Proof.Machine.execMinui t cond f s
  | .maxui t cond f => Sys2Proof.Machine.execMaxui t cond f s
  | .cmpi t cond f => Sys2Proof.Machine.execCmpi t cond f s
  | .movi t cond f => Sys2Proof.Machine.execMovi t cond f s
  | .movhi t cond f => Sys2Proof.Machine.execMovhi t cond f s
  | .ld t cond f => Sys2Proof.Machine.execLd t cond f s
  | .sd t cond f => Sys2Proof.Machine.execSd t cond f s
  | .prf t cond f => Sys2Proof.Machine.execPrf t cond f s
  | .dcwb t cond f => Sys2Proof.Machine.execDcwb t cond f s
  | .dcwbi t cond f => Sys2Proof.Machine.execDcwbi t cond f s
  | .dcinv t cond f => Sys2Proof.Machine.execDcinv t cond f s
  | .icinv t cond f => Sys2Proof.Machine.execIcinv t cond f s
  | .icinvall t cond f => Sys2Proof.Machine.execIcinvall t cond f s
  | .dcwbiall t cond f => Sys2Proof.Machine.execDcwbiall t cond f s
  | .b t cond f => Sys2Proof.Machine.execB t cond f s
  | .bl t cond f => Sys2Proof.Machine.execBl t cond f s
  | .jr t cond f => Sys2Proof.Machine.execJr t cond f s
  | .jlr t cond f => Sys2Proof.Machine.execJlr t cond f s
  | .rpt t cond f => Sys2Proof.Machine.execRpt t cond f s
  | .movs t cond f => Sys2Proof.Machine.execMovs t cond f s
  | .fills t cond f => Sys2Proof.Machine.execFills t cond f s
  | .scans t cond f => Sys2Proof.Machine.execScans t cond f s
  | .cmps t cond f => Sys2Proof.Machine.execCmps t cond f s
  | .wait t cond f => Sys2Proof.Machine.execWait t cond f s
  | .waitConditionVisible t => Sys2Proof.Machine.execWaitConditionVisible t s
  | .waitTakeReply t => Sys2Proof.Machine.execWaitTakeReply t s
  | .waitTimeout t => Sys2Proof.Machine.execWaitTimeout t s
  | .sig t cond f => Sys2Proof.Machine.execSig t cond f s
  | .semrd t cond f => Sys2Proof.Machine.execSemrd t cond f s
  | .semset t cond f => Sys2Proof.Machine.execSemset t cond f s
  | .semSignalApplied sem n => Sys2Proof.Machine.execSemSignalApplied sem n s
  | .semTakeApplied sem n => Sys2Proof.Machine.execSemTakeApplied sem n s
  | .semReadApplied sem n => Sys2Proof.Machine.execSemReadApplied sem n s
  | .fence t cond f => Sys2Proof.Machine.execFence t cond f s
  | .syscall t cond f => Sys2Proof.Machine.execSyscall t cond f s
  | .sysret t cond f => Sys2Proof.Machine.execSysret t cond f s
  | .xret t cond f => Sys2Proof.Machine.execXret t cond f s
  | .csave t cond f => Sys2Proof.Machine.execCsave t cond f s
  | .cload t cond f => Sys2Proof.Machine.execCload t cond f s
  | .brk t cond f => Sys2Proof.Machine.execBrk t cond f s
  | .bellLatch c => Sys2Proof.Machine.execBellLatch c s
  | .interruptEntry c => Sys2Proof.Machine.execInterruptEntry c s
  | .bellSet c v => Sys2Proof.Machine.execBellSet c v s
  | .hubBellSet v => Sys2Proof.Machine.execHubBellSet v s
  | .hubBellCfgWrite n v => Sys2Proof.Machine.execHubBellCfgWrite n v s
  | .hubBellAck n => Sys2Proof.Machine.execHubBellAck n s
  | .hubInputChange c j => Sys2Proof.Machine.execHubInputChange c j s
  | .evtInEdge k level => Sys2Proof.Machine.execEvtInEdge k level s
  | .evtOutPulseEnd pin => Sys2Proof.Machine.execEvtOutPulseEnd pin s
  | .vadd t cond f => Sys2Proof.Machine.execVadd t cond f s
  | .vsub t cond f => Sys2Proof.Machine.execVsub t cond f s
  | .vmul t cond f => Sys2Proof.Machine.execVmul t cond f s
  | .vfma t cond f => Sys2Proof.Machine.execVfma t cond f s
  | .vfms t cond f => Sys2Proof.Machine.execVfms t cond f s
  | .vmin t cond f => Sys2Proof.Machine.execVmin t cond f s
  | .vmax t cond f => Sys2Proof.Machine.execVmax t cond f s
  | .vabs t cond f => Sys2Proof.Machine.execVabs t cond f s
  | .vand t cond f => Sys2Proof.Machine.execVand t cond f s
  | .vor t cond f => Sys2Proof.Machine.execVor t cond f s
  | .vxor t cond f => Sys2Proof.Machine.execVxor t cond f s
  | .vshl t cond f => Sys2Proof.Machine.execVshl t cond f s
  | .vshr t cond f => Sys2Proof.Machine.execVshr t cond f s
  | .vrcp t cond f => Sys2Proof.Machine.execVrcp t cond f s
  | .vrsq t cond f => Sys2Proof.Machine.execVrsq t cond f s
  | .vexp2 t cond f => Sys2Proof.Machine.execVexp2 t cond f s
  | .vcmp t cond f => Sys2Proof.Machine.execVcmp t cond f s
  | .vsel t cond f => Sys2Proof.Machine.execVsel t cond f s
  | .vbcast t cond f => Sys2Proof.Machine.execVbcast t cond f s
  | .vext t cond f => Sys2Proof.Machine.execVext t cond f s
  | .vins t cond f => Sys2Proof.Machine.execVins t cond f s
  | .vperm t cond f => Sys2Proof.Machine.execVperm t cond f s
  | .vslide t cond f => Sys2Proof.Machine.execVslide t cond f s
  | .vrsum t cond f => Sys2Proof.Machine.execVrsum t cond f s
  | .vrmax t cond f => Sys2Proof.Machine.execVrmax t cond f s
  | .vrmin t cond f => Sys2Proof.Machine.execVrmin t cond f s
  | .pand t cond f => Sys2Proof.Machine.execPand t cond f s
  | .por t cond f => Sys2Proof.Machine.execPor t cond f s
  | .pxor t cond f => Sys2Proof.Machine.execPxor t cond f s
  | .pcnt t cond f => Sys2Proof.Machine.execPcnt t cond f s
  | .vcvt t cond f => Sys2Proof.Machine.execVcvt t cond f s
  | .vqmx t cond f => Sys2Proof.Machine.execVqmx t cond f s
  | .vdqmx t cond f => Sys2Proof.Machine.execVdqmx t cond f s
  | .vblkz t cond f => Sys2Proof.Machine.execVblkz t cond f s
  | .vld t cond f => Sys2Proof.Machine.execVld t cond f s
  | .vst t cond f => Sys2Proof.Machine.execVst t cond f s
  | .vld2 t cond f => Sys2Proof.Machine.execVld2 t cond f s
  | .vld3 t cond f => Sys2Proof.Machine.execVld3 t cond f s
  | .vld4 t cond f => Sys2Proof.Machine.execVld4 t cond f s
  | .vst2 t cond f => Sys2Proof.Machine.execVst2 t cond f s
  | .vst3 t cond f => Sys2Proof.Machine.execVst3 t cond f s
  | .vst4 t cond f => Sys2Proof.Machine.execVst4 t cond f s
  | .vgath t cond f => Sys2Proof.Machine.execVgath t cond f s
  | .vscat t cond f => Sys2Proof.Machine.execVscat t cond f s
  | .pld t cond f => Sys2Proof.Machine.execPld t cond f s
  | .pst t cond f => Sys2Proof.Machine.execPst t cond f s
  | .vtrd t cond f => Sys2Proof.Machine.execVtrd t cond f s
  | .vtwr t cond f => Sys2Proof.Machine.execVtwr t cond f s
  | .tload t cond f => Sys2Proof.Machine.execTload t cond f s
  | .tstore t cond f => Sys2Proof.Machine.execTstore t cond f s
  | .tileMoveCompletes c j => Sys2Proof.Machine.execTileMoveCompletes c j s
  | .tzero t cond f => Sys2Proof.Machine.execTzero t cond f s
  | .trel t cond f => Sys2Proof.Machine.execTrel t cond f s
  | .tcfgRead t cond f => Sys2Proof.Machine.execTcfgRead t cond f s
  | .tcfgAttr t cond f => Sys2Proof.Machine.execTcfgAttr t cond f s
  | .tcfgOwner t cond f => Sys2Proof.Machine.execTcfgOwner t cond f s
  | .tcfgOwnerAttr t cond f => Sys2Proof.Machine.execTcfgOwnerAttr t cond f s
  | .tmma t cond f => Sys2Proof.Machine.execTmma t cond f s
  | .tldacc t cond f => Sys2Proof.Machine.execTldacc t cond f s
  | .tdrain t cond f => Sys2Proof.Machine.execTdrain t cond f s
  | .tewAdd t cond f => Sys2Proof.Machine.execTewAdd t cond f s
  | .tewMul t cond f => Sys2Proof.Machine.execTewMul t cond f s
  | .tewMax t cond f => Sys2Proof.Machine.execTewMax t cond f s
  | .tewScale t cond f => Sys2Proof.Machine.execTewScale t cond f s
  | .tsync t cond f => Sys2Proof.Machine.execTsync t cond f s
  | .arrayOperationBegins c a upsets => Sys2Proof.Machine.execArrayOperationBegins c a upsets s
  | .arrayOperationCompletes c a => Sys2Proof.Machine.execArrayOperationCompletes c a s
  | .bankGate c b => Sys2Proof.Machine.execBankGate c b s
  | .bankWake c b => Sys2Proof.Machine.execBankWake c b s
  | .seGo x => Sys2Proof.Machine.execSeGo x s
  | .seCancel x => Sys2Proof.Machine.execSeCancel x s
  | .seCopy x => Sys2Proof.Machine.execSeCopy x s
  | .seGather x => Sys2Proof.Machine.execSeGather x s
  | .seScatter x => Sys2Proof.Machine.execSeScatter x s
  | .seDispatch x => Sys2Proof.Machine.execSeDispatch x s
  | .seCombine x => Sys2Proof.Machine.execSeCombine x s
  | .seTakeGranted x out => Sys2Proof.Machine.execSeTakeGranted x out s
  | .seReadReturn x => Sys2Proof.Machine.execSeReadReturn x s
  | .seWriteAccepted x => Sys2Proof.Machine.execSeWriteAccepted x s
  | .memoryAdmission g => Sys2Proof.Machine.execMemoryAdmission g s
  | .bankServe ch bank syn => Sys2Proof.Machine.execBankServe ch bank syn s
  | .refresh ch => Sys2Proof.Machine.execRefresh ch s
  | .poolCacheLookup d => Sys2Proof.Machine.execPoolCacheLookup d s
  | .xlatInv u v => Sys2Proof.Machine.execXlatInv u v s
  | .xlatInvComplete u => Sys2Proof.Machine.execXlatInvComplete u s
  | .lpddr6TrainingDone failed => Sys2Proof.Machine.execLpddr6TrainingDone failed s
  | .memReady => Sys2Proof.Machine.execMemReady s
  | .packageOverTemperature pkg temp => Sys2Proof.Machine.execPackageOverTemperature pkg temp s
  | .stepCfgWrite v => Sys2Proof.Machine.execStepCfgWrite v s
  | .stepCtlReset => Sys2Proof.Machine.execStepCtlReset s
  | .evalOpen => Sys2Proof.Machine.execEvalOpen s
  | .evalClose => Sys2Proof.Machine.execEvalClose s
  | .evalLimitExpiry => Sys2Proof.Machine.execEvalLimitExpiry s
  | .seqEntryWrite e v => Sys2Proof.Machine.execSeqEntryWrite e v s
  | .stepTokensRead => Sys2Proof.Machine.execStepTokensRead s
  | .handoff w tr v => Sys2Proof.Machine.execHandoff w tr v s
  | .handoffAbsent w tr v => Sys2Proof.Machine.execHandoffAbsent w tr v s
  | .handoffChecked tr b d => Sys2Proof.Machine.execHandoffChecked tr b d s
  | .pelExp d m => Sys2Proof.Machine.execPelExp d m s
  | .pelScale d m => Sys2Proof.Machine.execPelScale d m s
  | .pelData d m => Sys2Proof.Machine.execPelData d m s
  | .pelResult d m => Sys2Proof.Machine.execPelResult d m s
  | .pelGather d m => Sys2Proof.Machine.execPelGather d m s
  | .pelCheck d m => Sys2Proof.Machine.execPelCheck d m s
  | .dlExpExpiry tr b d => Sys2Proof.Machine.execDlExpExpiry tr b d s
  | .dlDataExpiry tr b d => Sys2Proof.Machine.execDlDataExpiry tr b d s
  | .dlResExpiry tr b d => Sys2Proof.Machine.execDlResExpiry tr b d s
  | .dlChkExpiry tr b d => Sys2Proof.Machine.execDlChkExpiry tr b d s
  | .bucketApplied tr b d => Sys2Proof.Machine.execBucketApplied tr b d s
  | .frameReceived p f => Sys2Proof.Machine.execFrameReceived p f s
  | .ackTimeout p => Sys2Proof.Machine.execAckTimeout p s
  | .lnkRd p m => Sys2Proof.Machine.execLnkRd p m s
  | .lnkWr p m => Sys2Proof.Machine.execLnkWr p m s
  | .rdrsp m => Sys2Proof.Machine.execRdrsp m s
  | .wrack m => Sys2Proof.Machine.execWrack m s
  | .errrsp m => Sys2Proof.Machine.execErrrsp m s
  | .localTimeout xid => Sys2Proof.Machine.execLocalTimeout xid s
  | .creditStallExpiry p vc h => Sys2Proof.Machine.execCreditStallExpiry p vc h s
  | .laneLossOfLock p lanes => Sys2Proof.Machine.execLaneLossOfLock p lanes s
  | .trainingDone p peer width => Sys2Proof.Machine.execTrainingDone p peer width s
  | .trainingTimeout p => Sys2Proof.Machine.execTrainingTimeout p s
  | .lnkCtlDown p => Sys2Proof.Machine.execLnkCtlDown p s
  | .lnkCtlRetrain p => Sys2Proof.Machine.execLnkCtlRetrain p s
  | .cadSyncEdge => Sys2Proof.Machine.execCadSyncEdge s
  | .syncMissing => Sys2Proof.Machine.execSyncMissing s
  | .cadRefclkLoss => Sys2Proof.Machine.execCadRefclkLoss s
  | .vclkPllLock => Sys2Proof.Machine.execVclkPllLock s
  | .frameStart => Sys2Proof.Machine.execFrameStart s
  | .cadCtlRelock => Sys2Proof.Machine.execCadCtlRelock s
  | .cadCtlRetrain => Sys2Proof.Machine.execCadCtlRetrain s
  | .cadenceRetrainDone => Sys2Proof.Machine.execCadenceRetrainDone s
  | .cadenceLaneLossOfLock lanes => Sys2Proof.Machine.execCadenceLaneLossOfLock lanes s
  | .cadCommit w v => Sys2Proof.Machine.execCadCommit w v s
  | .sliceComplete ch err => Sys2Proof.Machine.execSliceComplete ch err s
  | .checkInstant frame slice => Sys2Proof.Machine.execCheckInstant frame slice s
  | .cadSubmit v => Sys2Proof.Machine.execCadSubmit v s
  | .admissionDecision => Sys2Proof.Machine.execAdmissionDecision s
  | .jobStart p => Sys2Proof.Machine.execJobStart p s
  | .gearLoad v => Sys2Proof.Machine.execGearLoad v s
  | .gearFlashLoad v => Sys2Proof.Machine.execGearFlashLoad v s
  | .gearAbort => Sys2Proof.Machine.execGearAbort s
  | .imageValidation img => Sys2Proof.Machine.execImageValidation img s
  | .quiescenceObserved => Sys2Proof.Machine.execQuiescenceObserved s
  | .applyComplete => Sys2Proof.Machine.execApplyComplete s
  | .hqCfgWrite q v => Sys2Proof.Machine.execHqCfgWrite q v s
  | .hqTail q v => Sys2Proof.Machine.execHqTail q v s
  | .hqNop q e => Sys2Proof.Machine.execHqNop q e s
  | .hqXfer q e => Sys2Proof.Machine.execHqXfer q e s
  | .xferComplete q => Sys2Proof.Machine.execXferComplete q s
  | .hqSig q e => Sys2Proof.Machine.execHqSig q e s
  | .hqWait q e => Sys2Proof.Machine.execHqWait q e s
  | .hqWaitTimeout q => Sys2Proof.Machine.execHqWaitTimeout q s
  | .hqCqhead q v => Sys2Proof.Machine.execHqCqhead q v s
  | .hqStop q => Sys2Proof.Machine.execHqStop q s
  | .bar2Read off n => Sys2Proof.Machine.execBar2Read off n s
  | .bar2Write off bytes ep => Sys2Proof.Machine.execBar2Write off bytes ep s
  | .hostWindowCompletion tag status bytes => Sys2Proof.Machine.execHostWindowCompletion tag status bytes s
  | .hostWindowReadTimeout tag => Sys2Proof.Machine.execHostWindowReadTimeout tag s
  | .functionLevelReset kind => Sys2Proof.Machine.execFunctionLevelReset kind s
  | .atsInvalidateRequest page => Sys2Proof.Machine.execAtsInvalidateRequest page s
  | .ideIntegrityFailure => Sys2Proof.Machine.execIdeIntegrityFailure s
  | .getVersion path => Sys2Proof.Machine.execGetVersion path s
  | .getCapabilities path => Sys2Proof.Machine.execGetCapabilities path s
  | .negotiateAlgorithms path => Sys2Proof.Machine.execNegotiateAlgorithms path s
  | .getDigests path => Sys2Proof.Machine.execGetDigests path s
  | .getCertificate path slot off len => Sys2Proof.Machine.execGetCertificate path slot off len s
  | .challenge path slot nonce => Sys2Proof.Machine.execChallenge path slot nonce s
  | .getMeasurements path index nonce => Sys2Proof.Machine.execGetMeasurements path index nonce s
  | .keyExchange path share => Sys2Proof.Machine.execKeyExchange path share s
  | .finish path mac => Sys2Proof.Machine.execFinish path mac s
  | .endSession path => Sys2Proof.Machine.execEndSession path s
  | .keyUpdate path => Sys2Proof.Machine.execKeyUpdate path s
  | .vendorDefinedRequest path body => Sys2Proof.Machine.execVendorDefinedRequest path body s
  | .getInfo p tag => Sys2Proof.Machine.execGetInfo p tag s
  | .updBegin p tag len => Sys2Proof.Machine.execUpdBegin p tag len s
  | .updData p tag off bytes => Sys2Proof.Machine.execUpdData p tag off bytes s
  | .updEnd p tag => Sys2Proof.Machine.execUpdEnd p tag s
  | .activate p tag slot => Sys2Proof.Machine.execActivate p tag slot s
  | .restart p tag => Sys2Proof.Machine.execRestart p tag s
  | .keyEnroll p tag role key sigs => Sys2Proof.Machine.execKeyEnroll p tag role key sigs s
  | .keyRevoke p tag role key sigs => Sys2Proof.Machine.execKeyRevoke p tag role key sigs s
  | .gearSvn p tag svn sigs => Sys2Proof.Machine.execGearSvn p tag svn sigs s
  | .logRead p tag first count => Sys2Proof.Machine.execLogRead p tag first count s
  | .sagBegin p tag len => Sys2Proof.Machine.execSagBegin p tag len s
  | .sagData p tag off bytes => Sys2Proof.Machine.execSagData p tag off bytes s
  | .sagEnd p tag => Sys2Proof.Machine.execSagEnd p tag s
  | .pwrOkRise inRange => Sys2Proof.Machine.execPwrOkRise inRange s
  | .pwrOkFall => Sys2Proof.Machine.execPwrOkFall s
  | .romStart => Sys2Proof.Machine.execRomStart s
  | .bootWatchdogExpiry => Sys2Proof.Machine.execBootWatchdogExpiry s
  | .bootConfirmation => Sys2Proof.Machine.execBootConfirmation s
  | .perstNAssert => Sys2Proof.Machine.execPerstNAssert s
  | .perstNDeassert => Sys2Proof.Machine.execPerstNDeassert s
  | .limitEvaluation power temps => Sys2Proof.Machine.execLimitEvaluation power temps s
  | .cclkChangeComplete d => Sys2Proof.Machine.execCclkChangeComplete d s
  | .thermalTrip die temp => Sys2Proof.Machine.execThermalTrip die temp s
  | .railFault rail => Sys2Proof.Machine.execRailFault rail s
  | .eventCollection => Sys2Proof.Machine.execEventCollection s
  | .evrCfgWrite r v => Sys2Proof.Machine.execEvrCfgWrite r v s
  | .evtFatal0Write v => Sys2Proof.Machine.execEvtFatal0Write v s
  | .clkSnap => Sys2Proof.Machine.execClkSnap s
  | .snapshotLatch id => Sys2Proof.Machine.execSnapshotLatch id s
  | .setdasa addr => Sys2Proof.Machine.execSetdasa addr s
  | .idcode => Sys2Proof.Machine.execIdcode s
  | .samplePreload => Sys2Proof.Machine.execSamplePreload s
  | .extest => Sys2Proof.Machine.execExtest s
  | .extestPulse => Sys2Proof.Machine.execExtestPulse s
  | .extestTrain => Sys2Proof.Machine.execExtestTrain s
  | .dbgStat => Sys2Proof.Machine.execDbgStat s
  | .dbgRead addr => Sys2Proof.Machine.execDbgRead addr s
  | .dbgWrite addr v => Sys2Proof.Machine.execDbgWrite addr v s
  | .bypass code => Sys2Proof.Machine.execBypass code s
  | .unassignedOpcode t w => Sys2Proof.Machine.execUnassignedOpcode t w s
  | .inputVoltageInRange => Sys2Proof.Machine.execInputVoltageInRange s
  | .ref25Loss => Sys2Proof.Machine.execRef25Loss s
  | .ref25Return => Sys2Proof.Machine.execRef25Return s
  | .pcieLinkUp width rate cfg => Sys2Proof.Machine.execPcieLinkUp width rate cfg s

end Sys2Proof.Machine
end

