-- ==== Sys2Proof/Machine/Tick.lean ====
section
/-! DEFINITION. What happens at the cycles of the clock domains when no command is commanded (R29, R32, R60, R282, R307;
log 3): counters count, timers run down, token buckets fill and due clocks advance. -/

namespace Sys2Proof.Machine

/-- The domains of Table CLK-1. -/
def domains : List Nat :=
  [0, 1, 2, 3, 0x10, 0x11, 0x12, 0x13] ++ (List.range 16).map (0x20 + ·) ++ [0x40] ++ (List.range 8).map (0x50 + ·)
    ++ [0x60, 0x70, 0x80, 0x90]

/-- A timer that counts loses one, but its passage from 1 to 0 is the command TIMER_EXPIRY (R60). A count written 0 while
EN is set stays 0 (DESIGN CHOICE, log 60). -/
def Timer.tick (x : Timer) : Timer := if x.en ∧ x.count.toNat > 1 then { x with count := x.count - 1 } else x

/-- A yield of a thread (R55): it is a candidate beside another one of its core; whether the core issued that one to the
thread's pipe is free. -/
def State.yields (s : State) (t : Nat) : Bool :=
  s.candidate t && s.threads.any (fun p => decide (coreOf p.1 = coreOf t) && decide (p.1 ≠ t) && s.candidate p.1)
    && Config.yieldAt t s.ticks

/-- One CCLK cycle of a die: the timers of its cores whose group is ON (R60, R62), and the yields of its threads (R55). -/
def State.tickCores (s : State) (d : Nat) : State :=
  { s with
    cores := s.cores.map (fun p =>
      if dieOf p.1 = d ∧ s.coreOn p.1 = true then (p.1, { p.2 with timers := p.2.timers.map (fun q => (q.1, q.2.tick)) }) else p)
    threads := s.threads.map (fun p =>
      if dieOf (coreOf p.1) = d ∧ s.yields p.1 = true then
        (p.1, { p.2 with yieldCnt := p.2.yieldCnt + 1 }) else p) }

/-- One CCLK cycle of a die's arrays (R227 to R229). -/
def State.tickArrays (s : State) (d : Nat) : State :=
  s.cores.foldl (fun s p => if dieOf p.1 = d then (s.arrTick p.1 0).arrTick p.1 1 else s) s

/-- One cycle of the engines of a domain: the due clocks of their contexts (R282), and SE_BANKHOLD (R56). -/
def State.tickEngines (s : State) (dom : Nat) : State :=
  let s1 := s.ctxs.foldl (fun s p => if engineDomain (engineOf p.1) = dom then s.dueTick p.1 else s) s
  (List.range 36).foldl (fun s e => if engineDomain e = dom then s.bankTick e else s) s1

/-- One cycle of a domain: its counter advances (R32), then what its units do in a cycle. -/
def State.tickDomain (s : State) (id : Nat) : State :=
  let s1 : State := { s with clk := kset 0 s.clk id (s.count id + 1) }
  if id < 4 then (s1.tickCores id).tickArrays id
  else if 0x10 ≤ id ∧ id < 0x14 then s1.tickEngines id
  else if 0x20 ≤ id ∧ id < 0x30 then s1.fillBuckets (id - 0x20)
  else if id = 0x40 then (s1.tickEngines id).localAnswers
  else s1

/-- One idle step: every domain whose clock runs and which has a cycle now passes one cycle (log 3). -/
def State.tick (s : State) : State :=
  let s1 : State := { s with ticks := s.ticks + 1 }
  domains.foldl (fun s2 id =>
    if !s2.clkOff.contains id && Config.cycleAt id s.ticks then s2.tickDomain id else s2) s1

end Sys2Proof.Machine
end

