-- ==== Sys2Proof/Safety.lean ====
section
/-! DEFINITION. The terms in which the statements speak: outcomes, when an instruction fires, what a command keeps. -/

namespace Sys2Proof.Machine

/-- The outcome is a next state. -/
def Completes (o : Host.Outcome State Fault Refusal) : Prop := ∃ t, o = .next t

/-- The outcome is a next state with a property. -/
def CompletesWith (o : Host.Outcome State Fault Refusal) (p : State → Prop) : Prop := ∃ t, o = .next t ∧ p t

/-- An instruction of thread `t` issues and executes: the thread may issue, its fetch delivers, COND is not the reserved code
and holds, and the position allows it; `br` says that it is one of the instructions of R100. -/
def Fires (s : State) (t : ThreadId) (cond : BitVec 4) (br : Bool) : Prop :=
  s.mayIssue t.val = true ∧ (s.fetch t.val).1 = .ready ∧ cond ≠ 15#4 ∧ (s.thr t.val).posIllegal br = false
    ∧ condHolds cond (s.thr t.val).sr.st = true

/-- Everything but thread `t`, what a fetch leaves (instruction cache, cached translations, requests of a table walk, events
and their counts) and nothing else is as before: other threads, memory byte by byte and its detection codes, semaphores,
data caches, timers, Bells, tiles, accumulators, arrays, engines' contexts, trees, links, cadence port, gearing, host, security
and power. -/
structure Kept (s s' : State) (t : Nat) : Prop where
  threads : ∀ u, u ≠ t → s'.thr u = s.thr u
  memory : ∀ a, s'.byte a = s.byte a
  codes : ∀ g, s'.granule g = s.granule g
  semaphores : ∀ n, s'.semCount n = s.semCount n
  tiles : ∀ c, (s'.core c).tiles = (s.core c).tiles ∧ (s'.core c).moves = (s.core c).moves
  arrays : ∀ c, (s'.core c).accs = (s.core c).accs ∧ (s'.core c).arrays = (s.core c).arrays
  core : ∀ c, (s'.core c).timers = (s.core c).timers ∧ (s'.core c).bell = (s.core c).bell
    ∧ (s'.core c).dcache = (s.core c).dcache
  engines : s'.ctxs = s.ctxs ∧ s'.stepc = s.stepc ∧ s'.seqEntry = s.seqEntry
  trees : s'.trees = s.trees
  links : s'.ports = s.ports ∧ s'.remotes = s.remotes
  ports : s'.cad = s.cad ∧ s'.host = s.host ∧ s'.hub = s.hub
  system : s'.gear = s.gear ∧ s'.sec = s.sec ∧ s'.power = s.power
  time : s'.clk = s.clk ∧ s'.pending = s.pending
  requests : s'.semQ = s.semQ ∧ s'.takeReply = s.takeReply ∧ s'.readReply = s.readReply

/-- Memory, its detection codes and the semaphore counts are in canonical form. -/
def State.Canonical (s : State) : Prop := Memory.wf s.mem = true ∧ kwf {} s.gran = true ∧ kwf 0 s.sem = true

end Sys2Proof.Machine
end

