-- ==== Sys2Proof/Certificates/Slice0/Obligations.lean ====
section
/-! DEFINITION. The statements of this slice, for the provers: first the terms they are written in, family by family, then the
parts of the larger statements, then one definition per statement. -/

namespace Sys2Proof.Machine

/-- The shape of a thread instruction's constructor. -/
abbrev Mk := ThreadId → BitVec 4 → BitVec 52 → Instr

/-! ### Scalar operations -/

/-- Arithmetic shift right by `k`, as an integer quotient. -/
def sraSpec (a : Word) (k : Nat) : Word := BitVec.ofInt 64 (a.toInt / 2 ^ k)

/-- Rotation right by `k` from 0 to 63. -/
def rorSpec (a : Word) (k : Nat) : Word := if k = 0 then a else (a >>> k) ||| (a <<< (64 - k))

/-- The two-operand operations of opcodes 0x00 to 0x0D, written with integers. -/
def opSpecs : List (Word → Word → Word) :=
  [fun a b => BitVec.ofNat 64 (a.toNat + b.toNat), fun a b => BitVec.ofInt 64 ((a.toNat : Int) - b.toNat),
    fun a b => a &&& b, fun a b => a ||| b, fun a b => a ^^^ b, fun a b => a &&& ~~~b,
    fun a b => BitVec.ofNat 64 (a.toNat * 2 ^ (b.toNat % 64)), fun a b => BitVec.ofNat 64 (a.toNat / 2 ^ (b.toNat % 64)),
    fun a b => sraSpec a (b.toNat % 64), fun a b => rorSpec a (b.toNat % 64),
    fun a b => BitVec.ofInt 64 (min a.toInt b.toInt), fun a b => BitVec.ofInt 64 (max a.toInt b.toInt),
    fun a b => BitVec.ofNat 64 (min a.toNat b.toNat), fun a b => BitVec.ofNat 64 (max a.toNat b.toNat)]

/-- Register forms, in the order of `opSpecs`. -/
def regOps : List Mk :=
  [.add, .sub, .and, .or, .xor, .andn, .sll, .srl, .sra, .ror, .min, .max, .minu, .maxu]

/-- Immediate forms, in the order of `opSpecs`. -/
def immOps : List Mk :=
  [.addi, .subi, .andi, .ori, .xori, .andni, .slli, .srli, .srai, .rori, .mini, .maxi, .minui, .maxui]

/-- The immediates of ADDI, SUBI, MINI and MAXI are sign-extended, the others zero-extended (R88). -/
def immSpec (n : Nat) (f : BitVec 52) : Word :=
  if n = 0 ∨ n = 1 ∨ n = 10 ∨ n = 11 then (f.extractLsb' 0 40).signExtend 64 else (f.extractLsb' 0 40).zeroExtend 64

/-- ST with N, Z, C and V of a result (R87): C is the carry of operation 0 and the borrow of operation 1, V signed overflow of
both; the others clear C and V. -/
def flagsSpec (st : Word) (n : Nat) (a b r : Word) : Word :=
  let c := if n = 0 then decide (2 ^ 64 ≤ a.toNat + b.toNat) else if n = 1 then decide (a.toNat < b.toNat) else false
  let x : Int := if n = 0 then a.toInt + b.toInt else if n = 1 then a.toInt - b.toInt else 0
  let v := decide (x < -2 ^ 63) || decide (2 ^ 63 ≤ x)
  BitVec.ofNat 64 (st.toNat / 16 * 16 + (if r.toInt < 0 then 8 else 0) + (if r = 0 then 4 else 0) + (if c then 2 else 0)
    + (if v then 1 else 0))

/-- The thread after operation `n` with operands `a` and `b`: RD (G0 discards), and the flags when SF is set. -/
def aluAfter (th : Thread) (n rd : Nat) (a b : Word) (sf : Bool) : Thread :=
  let r := (opSpecs.getD n (fun _ _ => 0)) a b
  let th1 := th.wg rd r
  if sf then { th1 with sr := { th1.sr with st := flagsSpec th.sr.st n a b r } } else th1

/-- The effect of an instruction on its thread alone: the thread becomes `g` of what it was, and retires. -/
def ThreadStep (i : Instr) (s : State) (t : ThreadId) (g : Thread → Thread) : Prop :=
  ∃ s', exec i s = .next s' ∧ s'.thr t.val = (g (s.thr t.val)).retire ∧ Kept s s' t.val

/-! ### Special registers, branches, system entry -/

/-- The thread becomes `h` of what it was; everything else is kept. -/
def ThreadBy (i : Instr) (s : State) (t : ThreadId) (h : Thread → Thread) : Prop :=
  ∃ s', exec i s = .next s' ∧ s'.thr t.val = h (s.thr t.val) ∧ Kept s s' t.val

/-- The bits of special register `sn` that a write reaches (Table ISA-2, R122); TID, and XCAUSE and SCAUSE whose fields are RO (R12),
take none. -/
def srMask (sn : Nat) : Word :=
  if sn = 5 ∨ sn = 8 then 0xFFFFFFFF#64 else if sn = 17 then 0xFFFFFFFFFFFFFFF8#64 else if sn = 18 then 0xFFFFFFFFFFFFF000#64
  else if sn = 19 then 0x1F#64 else if sn = 11 ∨ sn = 15 ∨ sn = 20 then 0 else 0xFFFFFFFFFFFFFFFF#64

/-- A result whose value is ready and that becomes visible before the next instruction (R89). -/
def DueNext (p : Pend) : Prop := p.left ≤ 1 ∧ p.src = .ready

/-- The bits of special register `sn` that CLOAD restores: with those that MTS writes, XCAUSE and SCAUSE (Table CORE-6). -/
def loadMask (sn : Nat) : Word := if sn = 11 ∨ sn = 15 then 0xC000000000FF03FF#64 else srMask sn

/-- Two threads agree but for their special registers. -/
def SameButSr (x y : Thread) : Prop := { x with sr := y.sr } = y

/-- The instructions that take a privilege fault at U whatever their operands (R117). -/
def sOnly : List Mk := [.semset, .csave, .cload, .dcinv, .icinvall, .dcwbiall]

/-- The instruction is legal in its encoding, and none of the fields that it leaves unused is set. -/
def plainBody (i : Nat) (f : BitVec 52) : Prop :=
  if i = 0 then Body.rt f = 0 ∧ Body.timm f = 0
  else if i = 1 ∨ i = 2 then Body.resR f = 0
  else Body.resM f = 0 ∧ Body.rd f = (if i = 3 then 2 else if i = 4 then 4 else 5)

/-- A saved status keeps every bit of the status but DS (Table EXC-3). -/
def savedSt (st : Word) (ds : Bool) : Word := if ds then st ||| 0x2000#64 else st &&& ~~~0x2000#64

/-- The loop counters that an entry at position `q` finds: those of the issue of a load at LE (Table EXC-3). -/
def loopsAt (q : Pos) (r : SRegs) : SRegs :=
  match q.lc with
  | some l => { r with lc0 := l.1, lc1 := l.2 }
  | none => r

/-- No take request of a WAIT of the thread is out. -/
def NoTake (th : Thread) : Prop := ∀ w, th.wait = some w → w.sent = false

/-- The status inside an entry: PRIV 1, IE, PM and DS 0, the bits `act` (XACT, at Skid SKACT too) 1, the rest as it was (R120, R131). -/
def insideSt (st act : Word) : Word := ((st &&& ~~~0x3E00#64) ||| 0x200#64) ||| act

/-! ### Memory and the scalar caches -/

/-- The translated data access that an instruction at RA + OFF makes after its fetch: leaf, global address, and the state that the
translation leaves. -/
def Reaches (s : State) (t : ThreadId) (f : BitVec 52) (k : Access) (leaf : Word) (pa : Nat) (s2 : State) : Prop :=
  ∃ level, (s.fetch t.val).2.dataXlat t.val k (Body.ea f (s.thr t.val)) = (.ok leaf level pa, s2)

/-- `v` is the number that bytes `b 0` to `b (n - 1)` hold, little-endian, sign-extended when `sx` (R9, R93). -/
def HoldsBytes (v : Word) (n : Nat) (sx : Bool) (b : Nat → Byte) : Prop :=
  (∀ i, i < n → v.extractLsb' (8 * i) 8 = b i)
    ∧ ∀ j, 8 * n ≤ j → j < 64 → v.getLsbD j = (sx && v.getLsbD (8 * n - 1))

/-- The bytes of a line with waiting stores applied to it, the oldest first. -/
def storesOver (b : Nat → Byte) (l : List LineStore) : Nat → Byte :=
  l.foldl (fun b w i => if w.off ≤ i ∧ i < w.off + w.bytes.length then w.bytes.getD (i - w.off) 0 else b i) b

/-- Byte `i` of a cache line. -/
def lineByte (d : BitVec 2048) (i : Nat) : Byte := d.extractLsb' (8 * i) 8

/-- Every byte of memory outside `[a, a + n)` reads as before. -/
def MemOutside (s s' : State) (a n : Nat) : Prop := ∀ b, (b < a ∨ a + n ≤ b) → s'.byte b = s.byte b

/-- A line is being fetched, or its miss waits for an entry. -/
def LineComes (s : State) (c : Nat) (la : Nat) : Prop :=
  (∃ e, s.findLine c true la = some e ∧ (s.centry c true e).inflight = true) ∨ ∃ m ∈ (s.core c).dmiss, m.la = la

/-! ### Strings -/

/-- Elements of the next chunk: the count, cut at the next 256-byte boundary of RDST (R107). -/
def chunkLen (cnt : Nat) (dst : Word) (w : Nat) : Nat := min cnt ((256 - dst.toNat % 256) / w)

/-- The thread after a chunk of `k` elements passed: pointers and count, F and C where the instruction stops. -/
def chunkRegs (th : Thread) (f : BitVec 52) (src : Bool) (k w : Nat) (fF fC : Option Bool) : Thread :=
  let th1 := (th.wg (Body.rd f) (th.rg (Body.rd f) + BitVec.ofNat 64 (k * w))).wg (Body.rb f) (th.rg (Body.rb f) - BitVec.ofNat 64 k)
  let th2 := if src then th1.wg (Body.ra f) (th.rg (Body.ra f) + BitVec.ofNat 64 (k * w)) else th1
  let st := match fF with
    | some true => th2.sr.st ||| 0x10#64
    | some false => th2.sr.st &&& ~~~0x10#64
    | none => th2.sr.st
  let st1 := match fC with
    | some true => st ||| 2#64
    | some false => st &&& ~~~2#64
    | none => st
  { th2 with sr := { th2.sr with st := st1 }, far := [] }

/-- The thread goes on at the next chunk under REP while the instruction has not stopped, else it retires (R107, R108). -/
def chunkNext (rep stop : Bool) (th : Thread) : Thread :=
  if rep && !stop then { th with strBusy := true, ifetch := none, ifar := none } else th.retire

/-- A piece of a chunk reaches sound memory of this module past the cache, at local address `a`. -/
def SoundAt (s : State) (p : Placed) (a : Nat) : Prop :=
  s.way p.leaf p.pa = .memory ∧ s.isMem a = true ∧ localOf p.pa = a ∧ s.anyBad a p.p.n (leafTag p.leaf) = false

/-- Element `i` of `w` bytes at an address, as a number. -/
def elemAt (s : State) (a w i : Nat) : Nat := ofBytes ((List.range w).map (fun j => s.byte (a + i * w + j)))

/-- The encoding and the registers that a string instruction needs (R106). -/
def StringOk (th : Thread) (f : BitVec 52) (src : Bool) : Prop :=
  Body.okS f = true ∧ (th.rg (Body.rd f)).toNat % 2 ^ Body.esz f = 0
    ∧ (src = true → (th.rg (Body.ra f)).toNat % 2 ^ Body.esz f = 0)

/-! ### Conditions, waits, semaphores, threads, timers and Bells -/

/-- Every thread instruction that COND alone can skip (R86): all but the branches of R98. -/
def condOps : List Mk :=
  regOps ++ immOps ++ [.cmp, .cmpi, .popc, .movi, .movhi, .mul, .mulh, .mfs, .mts]
    ++ [.ld, .sd, .prf, .movs, .fills, .scans, .cmps]
    ++ [.wait, .sig, .semrd, .semset, .fence, .csave, .cload, .brk]
    ++ [.vadd, .vsub, .vmul, .vfma, .vfms, .vmin, .vmax, .vabs, .vand, .vor, .vxor, .vshl, .vshr, .vrcp, .vrsq, .vexp2, .vcmp,
      .vsel, .vbcast, .vext, .vins, .vperm, .vslide, .vrsum, .vrmax, .vrmin, .pand, .por, .pxor, .pcnt, .vcvt, .vqmx, .vdqmx,
      .vblkz, .vld, .vst, .vld2, .vld3, .vld4, .vst2, .vst3, .vst4, .vgath, .vscat, .pld, .pst, .vtrd, .vtwr]
    ++ [.tload, .tstore, .tzero, .trel, .tmma, .tldacc, .tdrain, .tsync]

/-- The instructions that a field of the word selects, each with its field, and the number it has there: RD of Table ISA-6, FLD
of Table TIL-4, OP of R233 (R81, R97, R181). -/
def selOps : List (Mk × (BitVec 52 → Nat) × Nat) :=
  [(.dcwb, Body.rd, 0), (.dcwbi, Body.rd, 1), (.dcinv, Body.rd, 2), (.icinv, Body.rd, 3), (.icinvall, Body.rd, 4),
    (.dcwbiall, Body.rd, 5), (.tcfgRead, Body.fldT, 0), (.tcfgAttr, Body.fldT, 1), (.tcfgOwner, Body.fldT, 2),
    (.tcfgOwnerAttr, Body.fldT, 3), (.tewAdd, Body.modeA, 0), (.tewMul, Body.modeA, 1), (.tewMax, Body.modeA, 2),
    (.tewScale, Body.modeA, 3)]

/-- A thread instruction and its body: one of `condOps` with any body, or one of `selOps` with a body that selects it. -/
def Skippable (mk : Mk) (f : BitVec 52) : Prop := mk ∈ condOps ∨ ∃ p ∈ selOps, p.1 = mk ∧ p.2.1 f = p.2.2

/-- The branches and jumps of R98, and the other instructions that R100 bars from a delay slot. -/
def branchOps : List Mk := [.b, .bl, .jr, .jlr]
def barredOps : List Mk := [.rpt, .syscall, .sysret, .xret]

/-- The encoding is legal: in some state the instruction issues under COND 0 and does not take ILLEGAL. -/
def LegalBody (mk : Mk) (br : Bool) (f : BitVec 52) : Prop :=
  ∃ (t : ThreadId) (s : State), Fires s t 0#4 br ∧ exec (mk t 0#4 f) s
    ≠ .next ((s.fetch t.val).2.takeExc t.val { code := 3, xaddr := 0 } (s.thr t.val).pos)

/-- The opcodes that Tables ISA-3 and VEC-3 assign. -/
def assignedOps : List Nat :=
  [0x00, 0x01, 0x02, 0x03, 0x04, 0x05, 0x06, 0x07, 0x08, 0x09, 0x0A, 0x0B, 0x0C, 0x0D, 0x0E, 0x0F, 0x10, 0x11, 0x18, 0x19]
    ++ [0x20, 0x21, 0x22, 0x23, 0x24, 0x25, 0x26, 0x27, 0x28, 0x29, 0x2A, 0x2B, 0x2C, 0x2D, 0x2E, 0x30, 0x31]
    ++ [0x40, 0x41, 0x42, 0x44, 0x50, 0x51, 0x52, 0x53, 0x58, 0x60, 0x61, 0x62, 0x63, 0x68, 0x69, 0x6A, 0x6B, 0x6C]
    ++ [0x70, 0x71, 0x72, 0x73, 0x74, 0x75]
    ++ [0x80, 0x81, 0x82, 0x83, 0x84, 0x85, 0x86, 0x87, 0x88, 0x89, 0x8A, 0x8B, 0x8C, 0x8D, 0x8E, 0x8F]
    ++ [0x90, 0x91, 0x92, 0x93, 0x94, 0x95, 0x96, 0x98, 0x99, 0x9A, 0x9C, 0x9D, 0x9E, 0x9F, 0xA0, 0xA1, 0xA2, 0xA3]
    ++ [0xB0, 0xB1, 0xB2, 0xB3, 0xB4, 0xB5, 0xB6, 0xB7, 0xB8, 0xB9, 0xBA, 0xBB, 0xBC, 0xBD]
    ++ [0xC0, 0xC1, 0xC2, 0xC3, 0xC4, 0xC5, 0xC6, 0xC7, 0xC8, 0xC9]

/-- ST with F as given. -/
def withF (st : Word) (b : Bool) : Word := if b then st ||| 0x10#64 else st &&& ~~~0x10#64

/-- A thread whose WAIT ends with F. -/
def waitEnds (b : Bool) (th : Thread) : Thread := { th with wait := none, sr := { th.sr with st := withF th.sr.st b } }

/-- The timeout of a WAIT (R111): TIMM with RT 0, else G[RT] bits 47:0; all ones is none. -/
def waitLimit (f : BitVec 52) (th : Thread) : Option Nat :=
  let n := if Body.rt f = 0 then Body.timm f else (th.rg (Body.rt f)).toNat % 2 ^ 48
  if n = (if Body.rt f = 0 then 2 ^ 17 - 1 else 2 ^ 48 - 1) then none else some n

/-- More than T cycles of the die's CCLK have passed since a WAIT issued (R39, Table CLK-4). -/
def Late (s : State) (t : Nat) (w : WaitRec) : Prop :=
  ∃ n, w.limit = some n ∧ n < (s.count (dieOf (coreOf t)) - w.at_).toNat

/-- Nothing but thread `t` and the requests and replies at semaphores differs among threads, counts and memory. -/
def SemOnly (s s' : State) (t : Nat) : Prop :=
  (∀ u, u ≠ t → s'.thr u = s.thr u) ∧ (∀ n, s'.semCount n = s.semCount n) ∧ (∀ a, s'.byte a = s.byte a)

/-- No valid line of core `c`'s data cache is dirty. -/
def CleanCache (s : State) (c : Nat) : Prop := ∀ e, e < 48 → (s.centry c true e).valid = true → (s.centry c true e).dirty = false

/-- Register writes reach the module: no trip or rail fault holds it, and no Sag session (R461, R470). -/
def RegOpen (s : State) : Prop := s.power.down = false ∧ s.sec.phase ≠ .sag ∧ s.ref25 = true

/-- A signal request at a semaphore waits behind no remote write. -/
def clearSignal (sem : Nat) (r : SemReq) : Prop := r.sem = sem ∧ r.ask.isSignal = true → r.behind = []

/-- No host queue runs a WAIT. -/
def NoHostWait (s : State) : Prop := ∀ q e, (s.hq q).running = some e → HqEntry_op e ≠ 3

/-- The sender of a signal is no host queue and no engine context, whose work goes on when its signal is visible (R279, R433). -/
def plainSender (r : SemReq) : Prop := r.who < 0x8000 ∨ (0x8000 + 10752 ≤ r.who ∧ r.who < 0xD000) ∨ 0xD040 ≤ r.who

/-- R137: a source contends when it is pending, enabled and above THRESH (a hub input, 48 to 63, also not between an entry and
its acknowledgment, R508). -/
def Contends (b : Bell) (n : Nat) : Prop :=
  (if n < 48 then b.pend.getLsbD n = true else kget 0 b.inputs (n - 48) ≠ 0 ∧ b.mute.getLsbD (n - 48) = false)
    ∧ b.en.getLsbD n = true ∧ b.thresh < kget 0 b.pri n

/-- A hub source routed to input `j` of core `c` contends (R139). -/
def RoutedHere (x : HubSrc) (c j : Nat) : Prop :=
  x.pend = true ∧ x.en = true ∧ x.pri ≠ 0 ∧ x.dtype = 1 ∧ x.tgt / 32 = c ∧ x.tgt % 16 = j

/-! ### Long vectors -/

/-- A vector instruction: its register writes and flags become visible before the third following instruction (R153). -/
def VecStep (i : Instr) (s : State) (t : ThreadId) (w : List RegWrite) (fl : Flg) : Prop :=
  ThreadStep i s t (fun th => { th with pend := th.pend ++ [{ left := 3, src := .unit, writes := w, flags := fl.bits, pos := th.pos }] })

/-- Element `k` of width `w` is active under `p` (R144). -/
def activeAt (p : PReg) (w k : Nat) : Prop := p.bits.getLsbD (k * w) = true

/-- The flags of a set of elements. -/
def flagsAre (n : Nat) (on : Nat → Prop) (op : Nat → Flg) (fl : Flg) : Prop :=
  (fl.nv = true ↔ ∃ k, k < n ∧ on k ∧ (op k).nv = true) ∧ (fl.dz = true ↔ ∃ k, k < n ∧ on k ∧ (op k).dz = true)
    ∧ (fl.ofl = true ↔ ∃ k, k < n ∧ on k ∧ (op k).ofl = true) ∧ (fl.uf = true ↔ ∃ k, k < n ∧ on k ∧ (op k).uf = true)
    ∧ (fl.nx = true ↔ ∃ k, k < n ∧ on k ∧ (op k).nx = true)

/-- The result of an element-wise operation (R144, R145, R149): active elements take `op`, the others are merged or zeroed; a granule
is poisoned by its predicate, by a poisoned source of an active element, or by a poisoned element that is merged; flags come
from active elements of sound granules. -/
def lanesAre (w : Nat) (p : PReg) (zm : Bool) (old : VReg) (src : Nat → Prop) (op : Nat → Nat × Flg) (r : VReg) (fl : Flg) : Prop :=
  (∀ k, k < 256 / w → (activeAt p w k → laneOf w r.data k = (op k).1)
      ∧ (¬ activeAt p w k → laneOf w r.data k = if zm then 0 else laneOf w old.data k))
    ∧ (∀ g, g < 8 → (r.poison.getLsbD g = true ↔ p.poison.getLsbD g = true
      ∨ (∃ k, k < 256 / w ∧ k * w / 32 = g ∧ activeAt p w k ∧ src g)
      ∨ zm = false ∧ old.poison.getLsbD g = true ∧ ∃ k, k < 256 / w ∧ k * w / 32 = g ∧ ¬ activeAt p w k))
    ∧ flagsAre (256 / w) (fun k => activeAt p w k ∧ r.poison.getLsbD (k * w / 32) = false) (fun k => (op k).2) fl

/-- The element-wise operations: VADD, VSUB, VMUL, VFMA, VFMS, VMIN, VMAX, VABS, VAND, VOR, VXOR, VSHL, VSHR, VRCP, VRSQ, VEXP2. -/
def laneOps : List Mk :=
  [.vadd, .vsub, .vmul, .vfma, .vfms, .vmin, .vmax, .vabs, .vand, .vor, .vxor, .vshl, .vshr, .vrcp, .vrsq, .vexp2]

/-- Sources of operation `n`. -/
def laneSrcs (n : Nat) (f : BitVec 52) : List Nat :=
  if n = 3 ∨ n = 4 then [Body.va f, Body.vb f, Body.vc f] else if n = 7 ∨ n ≥ 13 then [Body.va f] else [Body.va f, Body.vb f]

/-- The encoding of operation `n` is legal (R148, R151): unused fields are 0, US too with VAND, VOR, VXOR and VSHL, FN only with
VADD and VSUB, where it saturates integers. -/
def laneLegal (n : Nat) (f : BitVec 52) : Prop :=
  Body.resA f = 0 ∧ Body.rg f = 0 ∧ ((n ≠ 3 ∧ n ≠ 4) → Body.vc f = 0) ∧ ((n = 7 ∨ n ≥ 13) → Body.vb f = 0)
    ∧ (Body.fn f = 0 ∨ n ≤ 1 ∧ Body.fn f = 1 ∧ Body.et f ≤ 3) ∧ (8 ≤ n ∧ n ≤ 11 → Body.us f = false)

/-- An element as an integer, and an integer as an element of `w` bytes. -/
def toI (w : Nat) (us : Bool) (x : Nat) : Int := if us ∨ 2 * x < 2 ^ (8 * w) then x else (x : Int) - (2 : Int) ^ (8 * w)
def ofI (w : Nat) (v : Int) : Nat := (v % (2 : Int) ^ (8 * w)).toNat

/-- R156: saturation to the type's range. -/
def clampI (w : Nat) (us : Bool) (v : Int) : Int :=
  if us then max 0 (min ((2 : Int) ^ (8 * w) - 1) v) else max (-(2 : Int) ^ (8 * w - 1)) (min ((2 : Int) ^ (8 * w - 1) - 1) v)

/-- Operations 0 to 12 on integers (R151, R156). -/
def intLane (n w : Nat) (us sat : Bool) (a b c : Nat) : Nat :=
  let x := toI w us a
  let y := toI w us b
  let z := toI w us c
  let fit (v : Int) : Nat := ofI w (if sat then clampI w us v else v)
  match n with
  | 0 => fit (x + y)
  | 1 => fit (x - y)
  | 2 => ofI w (x * y)
  | 3 => ofI w (x * y + z)
  | 4 => ofI w (z - x * y)
  | 5 => ofI w (min x y)
  | 6 => ofI w (max x y)
  | 7 => ofI w |x|
  | 8 => Nat.land a b
  | 9 => Nat.lor a b
  | 10 => Nat.xor a b
  | 11 => a * 2 ^ (b % (8 * w)) % 2 ^ (8 * w)
  | _ => ofI w (x / (2 : Int) ^ (b % (8 * w)))

/-- The exact value of floating operations 0 to 6 and 13 to 15, which is rounded once to nearest even (R151, R154). -/
def fpExact (n : Nat) (x y z : FV) : FV :=
  match n with
  | 0 => x.add y
  | 1 => x.add y.neg
  | 2 => x.mul y
  | 3 => (x.mul y).add z
  | 4 => (x.mul y).neg.add z
  | 5 => x.min y
  | 6 => x.max y
  | 13 => (FV.fin false 1 0).div x
  | 14 => x.rsqrt
  | _ => x.exp2

/-- A floating element's result and flags (R154, R155): NV for an invalid operation or a signalling operand, DZ for a reciprocal
of a zero, the rest from the rounding; VABS clears the sign and rounds nothing. -/
def fpLane (n : Nat) (fm : Fmt) (a b c : Nat) : Nat × Flg :=
  let ops := if n = 3 ∨ n = 4 then [a, b, c] else if n = 7 ∨ n ≥ 13 then [a] else [a, b]
  let nan (x : Nat) : Bool := (fm.decode x).isNaN
  let v := fpExact n (fm.decode a) (fm.decode b) (fm.decode c)
  let p := (fm.decode a).mul (fm.decode b)
  let nv := ops.any fm.isSNaN || (v.isNaN && !ops.any nan)
    || ((decide (n = 3) || decide (n = 4)) && p.isNaN && !nan a && !nan b)
  if n = 7 then (a % fm.sign, { nv := fm.isSNaN a })
  else
    let r := fm.round .rne v
    (r.1, { r.2 with nv := nv, dz := (decide (n = 13) || decide (n = 14)) && (fm.decode a).isZero })

/-- Unused fields of form V-A are 0; each argument says that its field is used. -/
def vaFields (f : BitVec 52) (vd va vb vc fn rg : Bool) : Prop :=
  Body.resA f = 0 ∧ (vd = false → Body.vd f = 0) ∧ (va = false → Body.va f = 0) ∧ (vb = false → Body.vb f = 0)
    ∧ (vc = false → Body.vc f = 0) ∧ (fn = false → Body.fn f = 0) ∧ (rg = false → Body.rg f = 0)

/-- Width of element type `et`, and its format when it is floating (Table VEC-2). -/
def typeWidth (et : Nat) : Nat := if et = 0 then 1 else if et = 1 ∨ et = 4 ∨ et = 5 then 2 else if et = 3 then 8 else 4
def typeFmt (et : Nat) : Fmt := if et = 4 then ⟨5, 10⟩ else if et = 5 then ⟨8, 7⟩ else ⟨8, 23⟩

/-- A type that the encoding allows: not 7, and US only with integers (R148). -/
def typeOk (f : BitVec 52) : Prop := Body.et f ≤ 6 ∧ (4 ≤ Body.et f → Body.us f = false)

/-- The conditions of VCMP (R158) and whether they set NV. -/
def cmpHolds (et : Nat) (us : Bool) (c a b : Nat) : Bool × Bool :=
  if et ≤ 3 then
    let x := toI (typeWidth et) us a
    let y := toI (typeWidth et) us b
    ([decide (x = y), decide (x ≠ y), decide (x < y), decide (x ≤ y), decide (y < x), decide (y ≤ x), false].getD c false, false)
  else
    let x := (typeFmt et).decode a
    let y := (typeFmt et).decode b
    let un := x.isNaN || y.isNaN
    ([x.eqv y, !x.eqv y, x.lt y, x.lt y || x.eqv y, y.lt x, y.lt x || x.eqv y, un].getD c false,
      (typeFmt et).isSNaN a || (typeFmt et).isSNaN b || (un && decide (2 ≤ c ∧ c ≤ 5)))

/-- The value at element `j` of the tree of R157 after `k` levels over `n` elements. -/
def treeAt {α : Type} (op : α → α → α) (leaf : Nat → α) (n : Nat) : Nat → Nat → α
  | 0, j => leaf j
  | k + 1, j => if j + 2 ^ k < n then op (treeAt op leaf n k j) (treeAt op leaf n k (j + 2 ^ k)) else treeAt op leaf n k j

/-- Two numbers, either of which may be missing. -/
def pickBy (op : Nat → Nat → Nat) : Option Nat → Option Nat → Option Nat
  | none, y => y
  | x, none => x
  | some a, some b => some (op a b)

/-- The larger or smaller of two elements of a type (R154). -/
def extremeOf (mx : Bool) (et : Nat) (us : Bool) (a b : Nat) : Nat :=
  if et ≤ 3 then
    let x := toI (typeWidth et) us a
    let y := toI (typeWidth et) us b
    ofI (typeWidth et) (if mx then max x y else min x y)
  else
    let x := (typeFmt et).decode a
    let y := (typeFmt et).decode b
    ((typeFmt et).round .rne (if mx then x.max y else x.min y)).1

/-- What VRMAX and VRMIN give without an active element (R157). -/
def extremeNone (mx : Bool) (et : Nat) (us : Bool) : Nat :=
  let w := typeWidth et
  if et ≤ 3 then
    ofI w (if mx then (if us then 0 else -(2 : Int) ^ (8 * w - 1)) else (if us then (2 : Int) ^ (8 * w) - 1 else (2 : Int) ^ (8 * w - 1) - 1))
  else (if mx then (typeFmt et).sign else 0) + (typeFmt et).infCode

/-- Rounding mode `m` for element `i` with seed `seed` (R160, R161). -/
def roundMode (m : Nat) (seed : Word) (i : Nat) : Rm :=
  if m = 0 then .rne else if m = 1 then .rtz else .sr (srHash seed i)

/-- Conversion of an element (R159, R160, R505). -/
def cvtLane (src dst : Nat) (us : Bool) (rm : Rm) (a : Nat) : Nat × Flg :=
  let wd := typeWidth dst
  let top : Int := if us then (2 : Int) ^ (8 * wd) - 1 else (2 : Int) ^ (8 * wd - 1) - 1
  let low : Int := if us then 0 else -(2 : Int) ^ (8 * wd - 1)
  if src ≤ 3 then
    let v := toI (typeWidth src) us a
    if dst ≤ 3 then (ofI wd (clampI wd us v), {}) else (typeFmt dst).round rm (.fin (decide (v < 0)) v.natAbs 0)
  else
    let v := (typeFmt src).decode a
    if dst ≤ 3 then
      match v with
      | .nan => (0, { nv := true })
      | .inf n => (ofI wd (if n then low else top), { nv := true })
      | .fin n m e =>
        let r := scaleRound rm m e 0
        let x : Int := if n then -(r.1 : Int) else r.1
        if x < low ∨ top < x then (ofI wd (clampI wd us x), { ofl := true, nx := true }) else (ofI wd x, { nx := r.2 })
    else
      let r := (typeFmt dst).round rm v
      (r.1, { r.2 with nv := (typeFmt src).isSNaN a })

/-- Register span of the quantiser's groups (R162, R165, R166). -/
def groupSpan (et : Nat) : Nat := if et = 6 then 4 else if et = 0 then 1 else 2

/-- A register group of `n` from `r` on is aligned and inside V0 to V31 (R150). -/
def spanOk (r n : Nat) : Prop := r % n = 0 ∧ r + n ≤ 32

/-- Element `k` of the group that begins at `r`, and whether its granule is poisoned. -/
def groupElem (th : Thread) (w r k : Nat) : Nat := laneOf w (th.rv (r + k / (256 / w))).data (k % (256 / w))
def groupPoison (th : Thread) (w r k : Nat) : Bool := (th.rv (r + k / (256 / w))).poison.getLsbD (k % (256 / w) * w / 32)

/-! ### Vector memory -/

/-- A checked access of a vector instruction reaches sound memory of this module. -/
def VSound (s : State) (r : VRes) : Prop :=
  let g := r.pa / 32 * 32
  s.isLocal g = true ∧ s.isMem (localOf g) = true ∧ s.bad (localOf g / 32) (leafTag r.leaf) = false

/-- The little-endian number of `w` bytes of memory at `a`. -/
def numAt (s : State) (a w : Nat) : Nat := ofBytes ((List.range w).map (fun j => s.byte (a + j)))

/-- Two byte ranges of `w` bytes do not meet. -/
def Apart (a b w : Nat) : Prop := a + w ≤ b ∨ b + w ≤ a

/-- Base address of form V-M: G[RG] plus the sign-extended OFF (R167). -/
def vmBase (f : BitVec 52) (th : Thread) : Word := th.rg (Body.rgM f) + (f.extractLsb' 0 24).signExtend 64

/-- Address of field `i` of element `k` (R167, R169), and of an indexed element (R170). -/
def linAddr (f : BitVec 52) (th : Thread) (n w k i : Nat) : Word := vmBase f th + BitVec.ofNat 64 ((k * n + i) * w)
def idxElem (f : BitVec 52) (th : Thread) (k : Nat) : Int :=
  let iw := if Body.ix f then 8 else 4
  toI iw false (groupElem th iw (Body.vb f) k)
def idxAddr (f : BitVec 52) (th : Thread) (w k : Nat) : Word := vmBase f th + BitVec.ofInt 64 (idxElem f th k * w)

/-- No active element has a poisoned index. -/
def IndexSound (f : BitVec 52) (th : Thread) (w : Nat) : Prop :=
  ∀ k, k < 256 / w → activeAt (th.rp (Body.psel f)) w k → groupPoison th (if Body.ix f then 8 else 4) (Body.vb f) k = false

/-- The accesses of the active elements, in element order. -/
def linAccs (f : BitVec 52) (th : Thread) (n w : Nat) : List VAcc :=
  (List.range (256 / w)).flatMap (fun k => if (th.rp (Body.psel f)).bits.getLsbD (k * w) then
    (List.range n).map (fun i => { el := k, va := linAddr f th n w k i, n := w, reg := Body.vd f + i, byte := k * w }) else [])
def idxAccs (f : BitVec 52) (th : Thread) (w : Nat) : List VAcc :=
  (List.range (256 / w)).flatMap (fun k => if (th.rp (Body.psel f)).bits.getLsbD (k * w) then
    [{ el := k, va := idxAddr f th w k, n := w, reg := Body.vd f, byte := k * w }] else [])
def predAccs (f : BitVec 52) (th : Thread) : List VAcc :=
  (List.range 32).map (fun k => { el := k, va := vmBase f th + BitVec.ofNat 64 k, n := 1, reg := 32 + Body.vd f, byte := k })

/-- A pending vector load that needs no answer from outside; it names the granules that it reads. -/
def VLoads (i : Instr) (s : State) (t : ThreadId) (w : List RegWrite) : Prop :=
  ∃ gr, ThreadStep i s t (fun th => { th with pend := th.pend ++ [{ left := 3, src := .load, writes := w, pos := th.pos, grans := gr }] })

/-- A register after a load: active elements hold what memory holds at their access, the others are merged or zeroed. -/
def LoadedReg (s : State) (l : List VRes) (f : BitVec 52) (th : Thread) (w : Nat) (reg : Nat) (r : VReg) : Prop :=
  ∀ k, k < 256 / w → (activeAt (th.rp (Body.psel f)) w k → ∃ x ∈ l, x.a.el = k ∧ x.a.reg = reg ∧ laneOf w r.data k = numAt s (localOf x.pa) w)
    ∧ (¬ activeAt (th.rp (Body.psel f)) w k → laneOf w r.data k = if Body.zm f then 0 else laneOf w (th.rv reg).data k)

/-- A vector store: it retires, writes the bytes of its accesses where they do not overlap, and no other byte of memory. -/
def VStores (i : Instr) (s : State) (t : ThreadId) (l : List VRes) (w : Nat) (val : Nat → Nat → Byte) : Prop :=
  ∃ s', exec i s = .next s' ∧ s'.thr t.val = (s.thr t.val).retire ∧ (∀ u, u ≠ t.val → s'.thr u = s.thr u) ∧ s'.sem = s.sem
    ∧ (∀ x ∈ l, (∀ y ∈ l, y ≠ x → Apart (localOf x.pa) (localOf y.pa) w) → ∀ j, j < w →
      s'.byte (localOf x.pa + j) = val x.a.reg (x.a.byte + j))
    ∧ ∀ b, (∀ x ∈ l, b < localOf x.pa ∨ localOf x.pa + w ≤ b) → s'.byte b = s.byte b

/-- The instructions VLD, VLD2, VLD3, VLD4 and VST, VST2, VST3, VST4 by their number of fields. -/
def ldBy (n : Nat) : Mk := if n = 1 then .vld else if n = 2 then .vld2 else if n = 3 then .vld3 else .vld4
def stBy (n : Nat) : Mk := if n = 1 then .vst else if n = 2 then .vst2 else if n = 3 then .vst3 else .vst4

/-! ### Tiles and arrays -/

/-- A state of core `c` that differs in the tile file and its moves only: threads other than `t`, memory, semaphores and the other
cores stay. -/
def TileOnly (s s' : State) (t : Nat) : Prop :=
  (∀ u, u ≠ t → s'.thr u = s.thr u) ∧ MemOutside s s' 0 0 ∧ s'.sem = s.sem ∧ ∀ d, d ≠ coreOf t → (s'.core d).tiles = (s.core d).tiles

/-- A move of TLOAD (load) or TSTORE may take its next step: it is under way, or it is issued with the tile owned, in a state that
Table TIL-3 asks for, a port free, TSR in range and its addresses aligned (R186 to R188). -/
def MoveReady (s : State) (t : ThreadId) (f : BitVec 52) (load : Bool) : Prop :=
  let th := s.thr t.val
  let c := coreOf t.val
  (th.strBusy = true ∧ ∃ m ∈ (s.core c).moves, m.thread = t.val ∧ m.open_ = true ∧ m.tile = Body.tt f)
    ∨ (th.strBusy = false ∧ s.owns t.val (Body.tt f) = true ∧ (load = true → s.bankOn c (Body.tt f) = true ∧ s.settled c (Body.tt f) = true)
      ∧ (load = false → s.tileSt c (Body.tt f) = 2) ∧ s.movePort t.val ≠ none ∧ th.sr.tsr.toNat ≤ Body.nr f
      ∧ (Body.rowBase f th).toNat % 128 = 0 ∧ Body.stride f th % 128 = 0)

/-- Rows `r` and `r + 1` of a tile as a vector register (R171). -/
def rowPair (x : Tile) (r : Nat) : VReg :=
  { data := (x.row (r + 1)).data ++ (x.row r).data, poison := (x.row (r + 1)).poison ++ (x.row r).poison }

/-- Byte `j` of a row. -/
def rowByte (r : Row) (j : Nat) : Byte := r.data.extractLsb' (8 * j) 8

/-- The eight tiles of a bank are EMPTY, and none is owned by a CAD thread (R202). -/
def BankIdle (s : State) (c b : Nat) : Prop :=
  ∀ i, i < 8 → s.tileSt c (b * 8 + i) = 0
    ∧ (atOwner (s.tile c (b * 8 + i)).attr < 16 → (s.thr (c * 16 + atOwner (s.tile c (b * 8 + i)).attr)).pass ≠ .cad)

/-- Attributes that TCFG may write: no reserved FMT, no SP24 with FMT 8, 9 or 15 (Table TIL-4). -/
def attrFits (g : Word) : Prop := ¬ (10 ≤ atFmt g ∧ atFmt g ≤ 14) ∧ (atSp24 g = true → atFmt g ≠ 8 ∧ atFmt g ≠ 9 ∧ atFmt g ≠ 15)

/-- What an array holds as waiting after an instruction of thread `t` issued (R205 to R207, R182). -/
def opOf (s : State) (t : ThreadId) (f : BitVec 52) (k : ArrKind) : ArrOp :=
  let a (j : Nat) : Word := (s.tile (coreOf t.val) j).attr
  { kind := k, ta := Body.tt f, tb := fld f 43 39, acc := fld f 38 37, attrA := a (Body.tt f), attrA1 := a (Body.tt f + 1)
    attrB := a (fld f 43 39), rows := ((s.thr t.val).rp (Body.psel f)).bits.extractLsb' 0 32, thread := t.val, pc := (s.thr t.val).pc }

/-- The instruction retires and its operation waits in its array; the arrays are otherwise as they were. -/
def ArrIssued (i : Instr) (s : State) (t : ThreadId) (op : ArrOp) : Prop :=
  let c := coreOf t.val
  ∃ s', exec i s = .next s' ∧ s'.thr t.val = (s.thr t.val).retire ∧ TileOnly s s' t.val
    ∧ (∀ j, s'.tile c j = s.tile c j) ∧ (∀ k, s'.acc c k = s.acc c k)
    ∧ ∀ k, s'.arr c k = if k = op.acc / 2 then { s.arr c k with waiting := some op } else s.arr c k

/-- With its tiles in the states of Table TIL-3 the operation issues; until then the thread holds TILE, the instruction leaves
no more than its fetch, and a gated destination bank begins to wake (R177, R202). -/
def ArrFires (i : Instr) (s : State) (t : ThreadId) (op : ArrOp) : Prop :=
  let c := coreOf t.val
  (s.arrReady c (op.acc / 2) op = true → ArrIssued i s t op)
    ∧ (s.arrReady c (op.acc / 2) op = false → exec i s = .next ((s.fetch t.val).2.wakeDest c op))

/-- Word `n` of row `m` of an accumulator or tile. -/
def wordAt (rows : KMap Row) (m n : Nat) : BitVec 32 := (kget {} rows m).data.extractLsb' (32 * n) 32

/-- Elements per row, bits per element and elements per group of a format (Tables TIL-1 and ARR-2). -/
def fmtShape (fmt : Nat) : Nat × Nat × Nat :=
  if fmt = 0 then (256, 4, 16) else if fmt ≤ 5 then (128, if fmt ≤ 2 then 6 else 8, 8) else (64, 16, 4)

/-- The value of element `i` of row `r` of a dense operand, without its scale (R175, R216). -/
def elemVal (mode : Nat) (a : Word) (x side : Tile) (r i : Nat) : FV :=
  let fmt := atFmt a
  let b := (fmtShape fmt).2.1
  let code := fld (x.row r).data (b * i + b - 1) (b * i)
  if fmt = 6 then bf16.decode code
  else if fmt = 7 then fp16.decode code
  else if mode = 1 then .fin (decide (128 ≤ code)) (if 128 ≤ code then 256 - code else code) 0
  else if side.byte (atSrow a * 128 + r * ((fmtShape fmt).1 / 32) + i / 32) = 0xFF then .nan
  else mxDecode fmt code

/-- The scale exponent of block `j` of row `r` (R214, R219). -/
def elemScale (a : Word) (side : Tile) (r j : Nat) : Int :=
  (side.byte (atSrow a * 128 + r * ((fmtShape (atFmt a)).1 / 32) + j) : Int) - 127

/-- One group of a dense product (R219 to R222). -/
def groupStep (mode : Nat) (aA aB : Word) (xA sA xB sB : Tile) (m n : Nat) (w : BitVec 32) (g : Nat) : BitVec 32 :=
  let k := (fmtShape (atFmt aB)).2.2
  let prods := (List.range k).map (fun i => (elemVal mode aA xA sA m (k * g + i)).mul (elemVal mode aB xB sB n (k * g + i)))
  if mode = 1 then
    let t := w.toInt + (prods.map fvInt).sum
    BitVec.ofInt 32 (max (-2 ^ 31) (min (2 ^ 31 - 1) t))
  else if 6 ≤ atFmt aB then accumulate w (bfSum prods)
  else accumulate w ((fvSum prods).mul (.fin false 1 (elemScale aA sA m (k * g / 32) + elemScale aB sB n (k * g / 32))))

/-- A dense TMMA that no zero bitmap concerns, on formats that Table ARR-2 pairs. -/
def DenseTmma (o : ArrOp) (mode : Nat) (clr : Bool) : Prop :=
  o.kind = .tmma mode clr ∧ mode ≤ 1 ∧ atZb o.attrA = false ∧ atZb o.attrB = false ∧ atSp24 o.attrA = false ∧ atSp24 o.attrB = false
    ∧ (mode = 1 → atFmt o.attrA = 5 ∧ atFmt o.attrB = 5)
    ∧ ((atFmt o.attrA = 0 ∧ atFmt o.attrB = 0) ∨ (1 ≤ atFmt o.attrA ∧ atFmt o.attrA ≤ 5 ∧ 1 ≤ atFmt o.attrB ∧ atFmt o.attrB ≤ 5)
      ∨ (6 ≤ atFmt o.attrA ∧ atFmt o.attrA ≤ 7 ∧ 6 ≤ atFmt o.attrB ∧ atFmt o.attrB ≤ 7))

/-! ### Saving and restoring a thread -/

/-- Address of byte `o` of a save area whose 256-byte lines stand at `lines`. -/
def areaAt (lines : List (Nat × Word)) (o : Nat) : Nat := (lines.getD (o / 256) (0, 0)).1 + o % 256

/-- The lines of an area do not overlap. -/
def LinesApart (lines : List (Nat × Word)) : Prop := lines.Pairwise (fun x y => Apart x.1 y.1 256)

/-- CSAVE or CLOAD may go on: form R, privilege S, a HALTED thread `u` of the core named by RA, an address that is a multiple of 256. -/
def SaveAllowed (s : State) (t : ThreadId) (f : BitVec 52) (u : Nat) : Prop :=
  let th := s.thr t.val
  Body.resR f = 0 ∧ stPriv th.sr.st ≠ 0 ∧ (th.rg (Body.ra f)).toNat < 16
    ∧ u = coreOf t.val * 16 + (th.rg (Body.ra f)).toNat ∧ (s.thr u).st = .halted ∧ (th.rg (Body.rb f)).toNat % 256 = 0

/-- Tiles and accumulators that a save of thread `u` writes, in ascending number (R76). -/
def savedTileList (s : State) (u : Nat) : List Nat :=
  (List.range 32).filter (fun j => decide (atOwner (s.tile (coreOf u) j).attr = u % 16 ∧ s.tileSt (coreOf u) j ≠ 0))
def savedAccList (s : State) (u : Nat) : List Nat := (List.range 4).filter (fun a => decide ((s.acc (coreOf u) a).owner = u % 16))

/-! ### Stream Engines -/

/-- Address of element `e` on the source (dst false) or destination side of a COPY (R261). -/
def copyAddr (d : DescRun) (dst : Bool) (e : Nat) : Int :=
  (if dst then ((d.w 0x10).toNat : Int) else ((d.w 8).toNat : Int))
    + ((List.range 5).map (fun j => (d.coord e j : Int) * (if dst then d.ds j else d.ss j))).sum

/-- The five descriptor commands in the order of their OP codes. -/
def descOps : List (CtxId → Instr) := [.seCopy, .seGather, .seScatter, .seDispatch, .seCombine]

/-- Nothing of context `x` is under way outside the module. -/
def SeQuiet (s : State) (x : Nat) : Prop :=
  (s.ctx x).far = [] ∧ (s.ctx x).farW = 0 ∧ ∀ p ∈ s.remotes, p.2.kind ≠ .seWrite x

/-- Values of the fields of a routing entry: rank, expert, token (R248). -/
def rankOf (v : Nat) : Nat := v / 2 ^ 40 % 8
def expertOf (v : Nat) : Nat := v / 2 ^ 32 % 256
def tokenOf (v : Nat) : Nat := v % 2 ^ 32

/-- The sum of the outer coordinates of element `e` times the strides of a side (R261). -/
def outerPart (d : DescRun) (dst : Bool) (e : Nat) : Int :=
  (if dst then ((d.w 0x10).toNat : Int) else ((d.w 8).toNat : Int))
    + ((List.range 4).map (fun j => (d.coord (e / d.len 0 * d.len 0) (j + 1) : Int) * (if dst then d.ds (j + 1) else d.ss (j + 1)))).sum

/-- Context `x` runs `d` alone, moving elements between memories of this module without units' semaphores, and its next read, which begins at
an element whose row is not planned, has been issued. -/
def ReadsNext (s : State) (x : Nat) (d : DescRun) : Prop :=
  let k := s.ctx x
  k.runs = [d] ∧ d.fail = 0 ∧ d.bmk = false ∧ d.inEn = false ∧ d.outEn = false ∧ d.lead = 0 ∧ s.ctxLive x = true ∧ SeQuiet s x
    ∧ (∀ i, i < 5 → d.len i ≠ 0) ∧ d.ulvl ≤ 4 ∧ d.ezCode ≤ 5 ∧ d.rd < d.total ∧ d.row = none ∧ (∀ m, d.rdLim = some m → d.rd < m)
    ∧ s.readIssued x = true ∧ d.wr + d.buf.length = d.rd ∧ d.outSig * d.unitSize ≤ d.wr

/-- SE_READ_RETURN brings elements into the buffer, the first of them with property `p`; memory and threads stay. -/
def Enters (s : State) (x : CtxId) (d : DescRun) (p : Elem → DescRun → State → Prop) : Prop :=
  ∃ s' d' els el, exec (.seReadReturn x) s = .next s' ∧ (s'.ctx x.val).runs = [d'] ∧ d'.buf = d.buf ++ el :: els
    ∧ d'.rd = d.rd + els.length + 1 ∧ d'.wr = d.wr ∧ p el d' s' ∧ MemOutside s s' 0 0 ∧ s'.threads = s.threads

/-- An element with the bytes of sound memory at virtual address `src`, read in state `s1`, bound for `dst`. -/
def MemElem (s s1 : State) (x : Nat) (d : DescRun) (src : Int) (q : (Elem → DescRun → State → Prop) → Prop) (dst : Int)
    (map : Option (Nat × Nat)) : Prop :=
  let va := (src % 2 ^ 64).toNat
  va % d.esz = 0 → ∀ leaf level pa, s1.xlat (.engine (engineOf x)) (s.ctx x).part (s.ctx x).pv .read va = .ok leaf level pa →
    s1.isLocal pa = true → s1.isMem (localOf pa) = true → s1.anyBad (localOf pa) d.esz (leafTag leaf) = false →
    q (fun el _ _ => el.act = 0 ∧ el.cause = 0 ∧ el.poison = false ∧ el.dst = dst ∧ el.map = map
      ∧ el.bytes = (List.range d.esz).map (fun j => s.byte (localOf pa + j)))

/-- Context `x` runs `d` alone, and its next write, that of the one element `el` of its buffer, has been issued. -/
def WritesNext (s : State) (x : Nat) (d : DescRun) (el : Elem) : Prop :=
  let k := s.ctx x
  k.runs = [d] ∧ d.fail = 0 ∧ d.bmk = false ∧ d.inEn = false ∧ d.outEn = false ∧ d.lead = 0 ∧ s.ctxLive x = true ∧ SeQuiet s x
    ∧ (∀ i, i < 5 → d.len i ≠ 0) ∧ d.ulvl ≤ 4 ∧ d.ezCode ≤ 5 ∧ d.buf = [el] ∧ d.wr + 1 = d.rd ∧ d.rd ≤ d.total
    ∧ el.act = 0 ∧ el.cause = 0 ∧ el.poison = false ∧ el.map = none ∧ (∀ m, d.wrLim = some m → d.wr < m) ∧ el.bytes.length = d.esz
    ∧ d.w 0xA8 = 0 ∧ d.nen = false ∧ (s.issued x).writes ≠ 0 ∧ el.dst % d.esz = 0

/-! ### The memory system, step control and the sequence table -/

/-- Number of the cache slices of a die (R297) and the key of the set of a block among `n` of them (R298). -/
def sliceCount (s : State) (d : Nat) : Nat := ((List.range 16).filter (fun i => !(kget 0 s.poolCfg d).getLsbD i)).length
def setKey (d n bn : Nat) : Nat :=
  let h := Nat.xor (Nat.xor bn (bn / 2 ^ 19)) (bn / 2 ^ 38) % 2 ^ 19
  (d * 16 + h % n) * 8192 + h / n % 8192

/-- The request waits last at its memory-controller group; nothing else of the front ends differs. -/
def Queued (s s' : State) (r : MemReq) : Prop :=
  ∀ g, kget [] s'.front g = kget [] s.front g ++ (if g = (s.chip (r.block * 64)).group then [r] else [])

/-- The bank key and the row of a block (R294, R295). -/
def bankOf (s : State) (r : MemReq) : Nat :=
  let c := s.chip (r.block * 64)
  (c.die * 24 + c.ch) * 16 + c.bank
def rowOf (s : State) (r : MemReq) : Nat := (s.chip (r.block * 64)).row

/-- The granules that a read checks are sound. -/
def ReqSound (s : State) (r : MemReq) : Prop :=
  ∀ c ∈ r.checks, (c.2.1 = true → s.bad (r.block * 2) c.1 = false) ∧ (c.2.2 = true → s.bad (r.block * 2 + 1) c.1 = false)

/-- Copy `u` of XLAT_INV has left no translation that its GO names in the units that it covers (R305). -/
def Gone (s : State) (u : Nat) (x : XInv) : Prop :=
  let gone (l : List XEnt) : Prop := ∀ e ∈ l, e.part = x.goPart → ¬ (x.goAll = true ∨ e.vpn = x.goVpn.toNat * 2 ^ 16 / 2 ^ pageBits e.level)
  (u < 4 → (∀ c, c / 72 = u → gone (s.core c).xlat) ∧ ∀ e, e < 32 → e / 8 = u → gone (s.engine e).xlat)
    ∧ (u = 4 → (∀ e, 32 ≤ e → e < 36 → gone (s.engine e).xlat) ∧ gone s.pelXlat)

/-- Registers of step control change only. -/
def StepcOnly (s s' : State) (x : StepCtl) : Prop := s' = { s with stepc := x }

/-- Step control becomes `x`. Where a window opens or closes (`turns`), the ACTIVE contexts of class `c` are no longer held to what they
had issued (R328, R330); else nothing but step control changes. -/
def Window (s s' : State) (x : StepCtl) (turns : Bool) (c : Cls) : Prop :=
  s'.stepc = x ∧ s'.threads = s.threads ∧ (turns = false → s' = { s with stepc := x })
    ∧ (turns = true → ∀ n, (s.ctx n).st = .active → (s.ctx n).cls = c → ∀ d ∈ (s'.ctx n).runs, d.rdLim = none ∧ d.wrLim = none)

/-! ### Peloton -/

/-- The six messages of Table PEL-1 as commands at die `d`. -/
def pelMessages (d : DieId) (m : PelMsg) : List Instr :=
  [.pelExp d m, .pelScale d m, .pelData d m, .pelResult d m, .pelGather d m, .pelCheck d m]

/-- A message of the module's present step reaches rank `r` of its tree at die `d`, at a bucket still open there. -/
structure AtRank (s : State) (d : DieId) (m : PelMsg) (r : Nat) : Prop where
  en : (s.tree m.tree.val).en = true
  step : m.step = s.stepc.step
  rank : (s.tree m.tree.val).rank d.val = some r
  opened : s.pelClosed m.tree.val m.bucket.toNat d.val = false

/-- A message to a rank of the tree with a property has left the module. -/
def Sent (s : State) (t dst type : Nat) (p : PelMsg → Prop) : Prop := ∃ g, .pel t dst type g ∈ s.out ∧ p g

/-- A list by child has an entry of `c`. -/
def hasOf (l : List (Nat × PelMsg)) (c : Nat) : Prop := ∃ p ∈ l, p.1 = c

/-- The fields of PEL_NOTE after a notification (R363). -/
def noted (w : Tree) (b d status : Nat) : Prop := fld w.note 11 0 = b ∧ fld w.note 17 15 = status ∧ fld w.note 19 18 = d

/-- No deadline that has passed at the node still has something to do: EXP and DATA are sent, and an absent SCALE or RESULT is
reported (R39, R343, R349). -/
structure OnTime (s : State) (t b d : Nat) : Prop where
  exp : s.pastDl t b d (s.tree t).dlExp = false ∨ (s.node t b d).expSent = true
  data : s.pastDl t b d (s.tree t).dlData = false ∨ (s.node t b d).dataSent = true
  res : s.pastDl t b d (s.tree t).dlRes = false ∨ (s.node t b d).resSaid = true
    ∨ ((s.node t b d).scaled = true ∧ (s.node t b d).res ≠ none)

/-- Messages of the tree find their way: its ranks share a module, or its engine's port is neither DOWN nor DISABLED (R338, R381). -/
def PelOpen (s : State) (t : Nat) : Prop :=
  (s.tree t).intra = true ∨ ((s.port (s.tree t).eng).st ≠ .down ∧ (s.port (s.tree t).eng).st ≠ .disabled)

/-- The bytes of some spans stand in no other module and not in the host window. -/
def PelNear (s : State) (t : Nat) (l : List (Nat × Nat)) : Prop :=
  ∀ q ∈ l, ∀ b ∈ blocks q.1 q.2, match s.pelAt t (b * 64 % 2 ^ 64) .read with
    | .away _ _ => False
    | .host _ _ => False
    | _ => True

/-! ### Krymas links -/

/-- Port `p` has gone DOWN for a reason (R385): its state and CHG, a fresh link layer, and the tags of this module's waiting requests
ended (those that serve no Stream Engine write, whose end may send a new request); of its own messages only answers still wait. -/
structure WentDown (s s' : State) (p reason : Nat) : Prop where
  st : (s'.port p).st = .down
  reason : (s'.port p).reason = reason
  chg : (s'.port p).chg = true
  replay : (s'.port p).replay = [] ∧ (s'.port p).rxSeq = 0xFFF#12
  credit : ∀ k, k < 8 → kget 0 (s'.port p).credit k = halfSlots (k / 2)
  ended : let own := ownRequests s.lnkId ((s.port p).queue.flatMap (·.2))
    (∀ i ∈ own, ∀ x, (kget {} s.remotes i).kind ≠ .seWrite x ∧ (kget {} s.remotes i).kind ≠ .seMap x) →
      (∀ i ∈ own, (kget {} s'.remotes i).kind = .none) ∧ ∀ k, ∀ m ∈ kget [] (s'.port p).queue k, m.sid = s.lnkId ∧ (m.op = 3 ∨ m.op = 4 ∨ m.op = 5)

/-- A control frame has left port `q` (R368, R369, Table LNK-2): no slot is used, ACK names the last flit in order, and the credit report
is that of the next buffer half in rotation. -/
def CtlFrame (a b : State) (q : Nat) (nak : Bool) : Prop :=
  ∃ tr : BitVec 96, b = (a.updPort q (fun y => { y with crNext := (y.crNext + 1) % 8 })).emit (.frame q (List.replicate 256 0) tr)
    ∧ tr.extractLsb' 40 12 = (a.port q).rxSeq ∧ tr.getLsbD 39 = nak ∧ tr.extractLsb' 7 8 = 0
    ∧ tr.extractLsb' 33 3 = BitVec.ofNat 3 (a.port q).crNext
    ∧ tr.extractLsb' 23 10 = BitVec.ofNat 10 (kget 0 (a.port q).crFreed (a.port q).crNext)

/-- The unacknowledged flits have been sent again (R374): each in a frame of its bytes, and each counts one more replay. -/
structure Replayed (s1 : State) (q : Nat) (l : List Flit) : Prop where
  replay : (s1.port q).replay = l.map (fun f => { f with tries := f.tries + 1 })
  sent : ∀ e ∈ l, ∃ ack cr crn, .frame q e.bytes (e.trailer ack false cr crn) ∈ s1.out

/-- An answer to request `m` leaves by the route of its sender: opcode, tag, address, argument and data as given; without a route none
leaves. -/
def Answers (s1 : State) (o : Host.Outcome State Fault Refusal) (m : LinkMsg) (op : BitVec 4) (p : LinkMsg → Prop) : Prop :=
  ∃ r : LinkMsg, o = .next (if (kget ({} : Route) s1.routes m.sid.toNat).en = true ∨ m.sid = s1.lnkId then s1.route r 0 else s1) ∧ r.did = m.sid ∧ r.sid = s1.lnkId ∧ r.op = op ∧ r.xid = m.xid ∧ r.addr = m.addr ∧ p r

/-! ### The cadence port -/

/-- START and SLACK of the deadline test for a descriptor of words `w` (R406). -/
def jobStartAt (s : State) (w : List Word) : Nat :=
  max (max (s.vnow + s.cad.admlat) (s.pool (fld (w.getD 0 0) 11 8)).busy) (w.getD 2 0).toNat
def jobSlack (s : State) (w : List Word) : Int :=
  let d := (BitVec.ofNat 32 (fld (w.getD 1 0) 31 0) - s.cad.fnum).toNat
  let n := fld (w.getD 0 0) 47 32
  let chk (i : Nat) : Int := (s.cad.fs + d * s.cad.ftotal + (s.cad.vstart + 8 * (fld (w.getD 0 0) 31 16 + i)) * s.cad.htotal : Nat) - (s.cad.lead : Int)
  let done (i : Nat) : Int := (jobStartAt s w + fld (w.getD 3 0) 31 0 + i * fld (w.getD 3 0) 63 32 : Nat)
  min (chk 0 - done 0) (chk (n - 1) - done (n - 1))

/-- What a check of Table CAD-7 finds: it fails, with CODE and REASON. -/
structure JobCheck where
  fails : Prop
  code : Nat
  reason : Nat

/-- The checks of Table CAD-7 in their order, for the descriptor of words `w` at address `a`. -/
def jobChecks (s : State) (a : Nat) (w : List Word) : List JobCheck :=
  let k := s.cad
  let w0 := w.getD 0 0
  let c := fld w0 1 0
  let x := s.pool (fld w0 11 8)
  let first := fld w0 31 16
  let nsl := fld w0 47 32
  let f : BitVec 32 := BitVec.ofNat 32 (fld (w.getD 1 0) 31 0)
  let w4 := w.getD 4 0
  let reserved : Prop := fld w0 7 2 ≠ 0 ∨ fld w0 15 12 ≠ 0 ∨ fld w0 63 49 ≠ 0 ∨ fld w4 63 57 ≠ 0 ∨ fld (w.getD 5 0) 63 14 ≠ 0
  let inside : Prop := ∃ r ∈ (s.part x.part).ranges, r.base ≤ a ∧ a + 64 ≤ r.limit
  [⟨s.anyBad a 64 0 = true ∨ reserved ∨ nsl = 0 ∨ k.spf < first + nsl ∨ (s.chan c).en = false ∨ k.enabled = false ∨ (x.en = true ∧ ¬ inside), 1, 1⟩,
    ⟨x.en = false, 1, 2⟩, ⟨fld (w.getD 1 0) 63 32 ≠ x.rsig.toNat, 1, 3⟩,
    ⟨x.nthr < fld w4 35 32 ∨ x.nctx < fld w4 45 36 ∨ x.mrate < fld w4 56 46, 1, 4⟩,
    ⟨fld w4 31 0 < fld (w.getD 3 0) 31 0 + (nsl - 1) * fld (w.getD 3 0) 63 32, 1, 5⟩, ⟨s.underFloor (fld w0 11 8) = true, 1, 6⟩,
    ⟨∃ j ∈ k.jobs, j.chan = c ∧ j.frame = f ∧ j.first < first + nsl ∧ first < j.first + j.nsl, 1, 7⟩,
    ⟨(k.gl ≠ .locked ∧ k.gl ≠ .flywheel) ∨ k.rlpend = true, 2, 1⟩, ⟨1024 < (f - k.fnum).toNat, 2, 2⟩,
    ⟨x.qdepth ≤ k.jobs.countP (fun j => decide (j.pool = fld w0 11 8) && !j.started), 3, 1⟩, ⟨jobSlack s w < 0, 2, 3⟩]

/-- The job that a descriptor of words `w` describes (Table CAD-6), accepted with a START. -/
def jobOf (w : List Word) (start desc : Nat) : Job where
  pool := fld (w.getD 0 0) 11 8
  chan := fld (w.getD 0 0) 1 0
  frame := BitVec.ofNat 32 (fld (w.getD 1 0) 31 0)
  first := fld (w.getD 0 0) 31 16
  nsl := fld (w.getD 0 0) 47 32
  start := start
  desc := desc

/-! ### Host interface -/

/-- Queue `q` completes the entry of ring index `idx` and TAG `tag` with a status (R434): the record is written at CQTAIL, word 0 with
the phase, when a slot is free and none is held before it; else it is held. With ATS its address is the translated one (R424). -/
def Recorded (s s' : State) (q idx tag status : Nat) : Prop :=
  let x := s.hq q
  let y := s'.hq q
  if x.blocked = [] ∧ (x.cqtail + 1) % x.slots ≠ x.cqhead % x.slots then
    .hostWrite (s'.busTo (x.cqbase.toNat + x.cqtail * 32)) (toBytes 8 (b2n x.phase + status * 2 + tag * 2 ^ 16 + idx * 2 ^ 32)) s.host.ats ∈ s'.out
      ∧ y.cqtail = (if x.cqtail + 1 = x.slots then 0 else x.cqtail + 1) ∧ y.phase = (if x.cqtail + 1 = x.slots then !x.phase else x.phase)
      ∧ y.blocked = []
  else ∃ r : HqRec, y.blocked = x.blocked ++ [r] ∧ r.status = status ∧ r.tag = tag ∧ r.entry = idx ∧ y.cqtail = x.cqtail

/-- The entry of an operation, as a command. -/
def hqEntries (q : QueueId) (e : HqEntry) : List (Nat × Instr) := [(0, .hqNop q e), (1, .hqXfer q e), (2, .hqSig q e), (3, .hqWait q e)]

/-- The queue's only fetched entry runs: ring index and entry; no record is held, and the host may be written. -/
structure Runs (s : State) (q idx : Nat) (e : HqEntry) : Prop where
  started : (s.hq q).started = true
  only : (s.hq q).fetched = [(idx, e)]
  st : (s.hq q).st = .running
  free : (s.hq q).blocked = []
  bme : s.host.bme = true

/-- Queue `q` is stopped and holds nothing (R436). -/
def QueueOff (s : State) (q : Nat) : Prop := (s.hq q).st = .off ∧ bit (s.hq q).cfg 63 = false ∧ (s.hq q).fetched = []

/-! ### Attestation, mailbox, start-up and TAP -/

/-- Every SPDM request on a path, with the operands given, has a property. -/
def spdmAll (p : SpdmPath) (slot : Fin 8) (o n : BitVec 16) (nonce : BitVec 256) (ix : Byte) (bs : List Byte) (q : Instr → Prop) : Prop :=
  ∀ i ∈ [Instr.getVersion p, .getCapabilities p, .negotiateAlgorithms p, .getDigests p, .getCertificate p slot o n, .challenge p slot nonce,
    .getMeasurements p ix nonce, .keyExchange p bs, .finish p bs, .endSession p, .keyUpdate p, .vendorDefinedRequest p bs], q i

/-- A mailbox request is answered: its response leaves with a status, and at BAR4 it stands in the response area, RLEN bytes long, and
MBX_CTL shows DONE (R452, R453). -/
def Answered (s' : State) (p : MbxPath) (type status : Nat) (tag : BitVec 16) : Prop :=
  ∃ body, .mailbox p type status tag body ∈ s'.out ∧ (p = .bar4 → s'.sec.mbxDone = true ∧ s'.sec.mbxBusy = false
    ∧ s'.sec.rlen = 16 + 8 * body.length
    ∧ s'.sec.mbxResp = BitVec.ofNat 64 (type + tag.toNat * 2 ^ 16 + 8 * body.length * 2 ^ 32) :: BitVec.ofNat 64 status :: body)

/-- The words of an SPDM response: its body, and the alias key's signature over the request's nonce and the body (R442, log 31). -/
def Signed (s : State) (nonce : List Byte) (body : List Word) : List Word :=
  body ++ toWords (toBytes 64 (Config.ed25519Sign s.sec.aliasSeed (nonce ++ wordBytes body)).toNat)

/-- What a cold reset leaves (Table PWR-2): fuses, flash and pins, and nothing of the rest. -/
structure ColdReset (s s' : State) : Prop where
  threads : s'.threads = [] ∧ s'.ctxs = [] ∧ s'.mem = [] ∧ s'.cores = []
  gear : s'.gear.image = none ∧ s'.gear.stored = s.gear.stored ∧ s'.gear.st = .noImage ∧ s'.gear.memReady = false
  sec : s'.sec.phase = .off ∧ s'.sec.slotA = s.sec.slotA ∧ s'.sec.slotB = s.sec.slotB ∧ s'.sec.next = s.sec.next ∧ s'.sec.keys = s.sec.keys
    ∧ s'.sec.log = s.sec.log ∧ s'.sec.fwsvn = s.sec.fwsvn ∧ s'.sec.gearSvn = s.sec.gearSvn ∧ s'.sec.session = none
  power : s'.power.down = false ∧ s'.power.trip = false ∧ s'.power.rail = false
  queue : s'.pending = s.pending

/-- What a warm reset leaves (Table PWR-2): the power domains, the gearing unit's image and PROT, the Security Controller, and nothing
of the rest. -/
structure WarmReset (s s' : State) : Prop where
  threads : s'.threads = [] ∧ s'.ctxs = [] ∧ s'.mem = [] ∧ s'.cores = []
  gear : s'.gear.image = s.gear.image ∧ s'.gear.stored = s.gear.stored ∧ s'.gear.memReady = false ∧ s'.gear.seq = s.gear.seq
  kept : s'.power.on = s.power.on ∧ s'.prots = s.prots ∧ s'.sec.phase = s.sec.phase ∧ s'.sec.keys = s.sec.keys ∧ s'.clk = s.clk
  host : s'.host.linkUp = false ∧ s'.host.queues = []

/-! ### Parts of statements -/

/-- Register ALU instructions (R87, R88): RD receives the operation's value, SF writes the flags, nothing else changes. -/
def AluRegister : Prop :=
  ∀ n : Fin 14, ∀ (t : ThreadId) (cond : BitVec 4) (f : BitVec 52) (s : State),
    Fires s t cond false → Body.resR f = 0 →
    ThreadStep ((regOps.getD n.val .add) t cond f) s t (fun th =>
      aluAfter th n.val (Body.rd f) (th.rg (Body.ra f)) (th.rg (Body.rb f)) (Body.sfR f))

/-- Immediate ALU instructions (R87, R88). -/
def AluImmediate : Prop :=
  ∀ n : Fin 14, ∀ (t : ThreadId) (cond : BitVec 4) (f : BitVec 52) (s : State),
    Fires s t cond false → Body.resI f = false →
    ThreadStep ((immOps.getD n.val .addi) t cond f) s t (fun th =>
      aluAfter th n.val (Body.rd f) (th.rg (Body.ra f)) (immSpec n.val f) (Body.sfI f))

/-- CMP and CMPI write the flags of a difference; POPC, MOVI and MOVHI write RD (R87, R88). -/
def CompareCountMove : Prop :=
  ∀ (t : ThreadId) (cond : BitVec 4) (f : BitVec 52) (s : State), Fires s t cond false →
    (Body.resR f = 0 → Body.rd f = 0 → ThreadStep (.cmp t cond f) s t (fun th =>
      let a := th.rg (Body.ra f)
      let b := th.rg (Body.rb f)
      { th with sr := { th.sr with st := flagsSpec th.sr.st 1 a b (a - b) } }))
    ∧ (Body.resI f = false → ThreadStep (.cmpi t cond f) s t (fun th =>
      let a := th.rg (Body.ra f)
      let b := (f.extractLsb' 0 40).signExtend 64
      { th with sr := { th.sr with st := flagsSpec th.sr.st 1 a b (a - b) } }))
    ∧ (Body.resR f = 0 → Body.rb f = 0 → ThreadStep (.popc t cond f) s t (fun th =>
      let r : Word := BitVec.ofNat 64 ((List.range 64).filter (fun i => (th.rg (Body.ra f)).getLsbD i)).length
      let th1 := th.wg (Body.rd f) r
      if Body.sfR f then { th1 with sr := { th1.sr with st := flagsSpec th.sr.st 2 0 0 r } } else th1))
    ∧ ThreadStep (.movi t cond f) s t (fun th => th.wg (Body.rd f) ((f.extractLsb' 0 47).signExtend 64))
    ∧ (f.extractLsb' 32 15 = 0 → ThreadStep (.movhi t cond f) s t (fun th =>
      th.wg (Body.rd f) (f.extractLsb' 0 32 ++ (th.rg (Body.rd f)).extractLsb' 0 32)))

/-- MUL and MULH (R90): the 128-bit product becomes a pending result that four following instructions separate from its
visibility; the registers themselves stay. -/
def Products : Prop :=
  ∀ (t : ThreadId) (cond : BitVec 4) (f : BitVec 52) (s : State), Fires s t cond false →
    Body.resR f = 0 → Body.rd f = 0 → Body.sfR f = false →
    ∀ sgn : Bool, ∃ hi lo : Word,
      (if sgn then (hi.toInt * 2 ^ 64 + (lo.toNat : Int)) = (((s.thr t.val).rg (Body.ra f)).toInt * ((s.thr t.val).rg (Body.rb f)).toInt)
        else hi.toNat * 2 ^ 64 + lo.toNat = ((s.thr t.val).rg (Body.ra f)).toNat * ((s.thr t.val).rg (Body.rb f)).toNat)
      ∧ ThreadStep (if sgn then .mul t cond f else .mulh t cond f) s t (fun th =>
          { th with pend := th.pend ++ [{ left := 4, src := .ready, writes := [.prod hi lo], pos := th.pos }] })

/-- MFS and MTS (R12, R83, R85, R117, R122): where the privilege allows the register, MFS copies it to RD; MTS writes the bits that
the register has, and nothing else; a write of TID is ignored, and one of XCAUSE or SCAUSE, which Table EXC-2 calls RO while Table ISA-2
lets S write them (log 55); an MTS to ST leaves the status and holds the merged value for the shadow instruction. -/
def SpecialRegisters : Prop :=
  ∀ (t : ThreadId) (cond : BitVec 4) (f : BitVec 52) (s : State), Fires s t cond false → Body.resR f = 0 → Body.rb f ≤ 20 →
    (stPriv (s.thr t.val).sr.st ≠ 0 ∨ ¬ (9 ≤ Body.rb f ∧ Body.rb f ≤ 18) →
      ThreadStep (.mfs t cond f) s t (fun th => th.wg (Body.rd f) (th.readSr t.val (Body.rb f))))
    ∧ (Body.rb f ≠ 0 → (stPriv (s.thr t.val).sr.st ≠ 0 ∨ ¬ (9 ≤ Body.rb f ∧ Body.rb f ≤ 18) ∧ Body.rb f ≠ 20) →
      ∃ th1 : Thread, ThreadStep (.mts t cond f) s t (fun _ => th1) ∧ SameButSr th1 (s.thr t.val)
        ∧ (∀ sn, sn ≤ 20 → th1.readSr t.val sn = if sn = Body.rb f ∧ sn ≠ 11 ∧ sn ≠ 15 ∧ sn ≠ 20 then (s.thr t.val).rg (Body.ra f) &&& srMask sn
            else (s.thr t.val).readSr t.val sn))
    ∧ (Body.rb f = 0 →
      let m : Word := if stPriv (s.thr t.val).sr.st = 0 then 0x101F#64 else 0x581F#64
      ThreadBy (.mts t cond f) s t (fun th =>
        { th.retire with shadow := some ((th.sr.st &&& ~~~m) ||| (th.rg (Body.ra f) &&& m)) }))

/-- R117: at U the special registers that Table ISA-2 bars, SEMSET, CSAVE, CLOAD and the S-only cache operations take a
privilege fault with XADDR 0 and do nothing else. -/
def PrivilegeFaults : Prop :=
  ∀ (t : ThreadId) (cond : BitVec 4) (f : BitVec 52) (s : State), Fires s t cond false → stPriv (s.thr t.val).sr.st = 0 →
    (∀ n : Fin 6, plainBody n.val f →
      exec ((sOnly.getD n.val .semset) t cond f) s
        = .next ((s.fetch t.val).2.takeExc t.val { code := 4, xaddr := 0 } (s.thr t.val).pos))
    ∧ (Body.resR f = 0 → 9 ≤ Body.rb f → Body.rb f ≤ 18 → ∀ n : Fin 2,
      exec (([Instr.mfs, Instr.mts].getD n.val .mfs) t cond f) s
        = .next ((s.fetch t.val).2.takeExc t.val { code := 4, xaddr := 0 } (s.thr t.val).pos))
    ∧ (Body.resR f = 0 → Body.rb f = 20 → exec (.mts t cond f) s
        = .next ((s.fetch t.val).2.takeExc t.val { code := 4, xaddr := 0 } (s.thr t.val).pos))

/-- R99, R103, R85 and R89 as the retirement of an instruction: after a delay slot the stream is at the branch's target; at LE of
level 1 with LC above 1 it is at LB with LC less one, and with LC 1 that LC is 0 and level 0 is tested; at LE of level 0 likewise, with LC
1 falling through; elsewhere it is at PC + 8. A held status takes effect, every pending result is one boundary nearer, and a result whose
value is ready and that is now due is written, to its register or to PRODHI and PRODLO (R90, R91). -/
def Retirement : Prop :=
  ∀ th : Thread,
    (∀ d, th.delay = some d → th.retire.pc = d.target ∧ th.retire.delay = none)
    ∧ (th.delay = none → th.pc = th.sr.le1 → th.sr.lc1.toNat > 1 →
        th.retire.pc = th.sr.lb1 ∧ th.retire.sr.lc1.toNat + 1 = th.sr.lc1.toNat ∧ th.retire.sr.lc0 = th.sr.lc0)
    ∧ (th.delay = none → (th.pc ≠ th.sr.le1 ∨ th.sr.lc1 = 0) → th.pc = th.sr.le0 → th.sr.lc0.toNat > 1 →
        th.retire.pc = th.sr.lb0 ∧ th.retire.sr.lc0.toNat + 1 = th.sr.lc0.toNat ∧ th.retire.sr.lc1 = th.sr.lc1)
    ∧ (th.delay = none → th.pc = th.sr.le1 → th.sr.lc1 = 1 → th.retire.sr.lc1 = 0
        ∧ ((th.pc ≠ th.sr.le0 ∨ th.sr.lc0 = 0) → th.retire.pc = th.pc + 8#64 ∧ th.retire.sr.lc0 = th.sr.lc0)
        ∧ (th.pc = th.sr.le0 → th.sr.lc0 ≠ 0 → th.retire.sr.lc0.toNat + 1 = th.sr.lc0.toNat
          ∧ th.retire.pc = if th.sr.lc0 = 1 then th.pc + 8#64 else th.sr.lb0))
    ∧ (th.delay = none → (th.pc ≠ th.sr.le1 ∨ th.sr.lc1 = 0) → th.pc = th.sr.le0 → th.sr.lc0 = 1 →
        th.retire.pc = th.pc + 8#64 ∧ th.retire.sr.lc0 = 0 ∧ th.retire.sr.lc1 = th.sr.lc1)
    ∧ (th.delay = none → (th.pc ≠ th.sr.le1 ∨ th.sr.lc1 = 0) → (th.pc ≠ th.sr.le0 ∨ th.sr.lc0 = 0) →
        th.retire.pc = th.pc + 8#64 ∧ th.retire.sr.lc0 = th.sr.lc0 ∧ th.retire.sr.lc1 = th.sr.lc1)
    ∧ (∀ v, th.shadow = some v → th.retire.sr.st = v ∧ th.retire.shadow = none)
    ∧ th.retire.pend = (th.pend.map (fun p => { p with left := p.left - 1 })).filter (fun p => !(decide (p.left = 0) && decide (p.src = .ready)))
    ∧ ((∀ p ∈ th.pend, ¬ DueNext p) → th.retire.g = th.g ∧ th.retire.sr.prdHi = th.sr.prdHi ∧ th.retire.sr.prdLo = th.sr.prdLo)
    ∧ (∀ l p r, th.pend = l ++ p :: r → DueNext p → (∀ q ∈ l ++ r, ¬ DueNext q) →
        (∀ hi lo, p.writes = [.prod hi lo] → th.retire.sr.prdHi = hi ∧ th.retire.sr.prdLo = lo ∧ th.retire.g = th.g)
        ∧ (∀ rd v, p.writes = [.g rd v] → ∀ i, th.retire.rg i = if i = rd ∧ i ≠ 0 then v else th.rg i))
    ∧ (∀ tg, (th.takeBranch tg).pc = th.pc + 8#64
        ∧ (th.takeBranch tg).delay = some { branch := th.pc, target := tg.getD (th.pc + 16#64) })

/-- RPT (R81, R101, R102): LB is PC + 8, LE the last word of a body of LEN words, LC the count; a count of 0 skips the body. LEN = 0 or
LEN of 2^20 and above, and an RC other than 0 beside an immediate count, take ILLEGAL. -/
def BlockRepeat : Prop :=
  ∀ (t : ThreadId) (cond : BitVec 4) (f : BitVec 52) (s : State), Fires s t cond true →
    (Body.len f = 0 ∨ 2 ^ 20 ≤ Body.len f ∨ (Body.ci f = true ∧ Body.rc f ≠ 0) → exec (.rpt t cond f) s
      = .next ((s.fetch t.val).2.takeExc t.val { code := 3, xaddr := 0 } (s.thr t.val).pos))
    ∧ (1 ≤ Body.len f → Body.len f < 2 ^ 20 → (Body.ci f = true → Body.rc f = 0) →
    let pc := (s.thr t.val).pc
    let n : BitVec 32 := if Body.ci f then (f.extractLsb' 0 24).zeroExtend 32 else ((s.thr t.val).rg (Body.rc f)).truncate 32
    let le : Word := pc + BitVec.ofNat 64 (Body.len f * 8)
    let g (th : Thread) : Thread := { th with sr := if Body.lvl f then { th.sr with lb1 := pc + 8#64, le1 := le, lc1 := n }
      else { th.sr with lb0 := pc + 8#64, le0 := le, lc0 := n } }
    (n ≠ 0 → ThreadStep (.rpt t cond f) s t g) ∧ (n = 0 → ThreadBy (.rpt t cond f) s t (fun th => (g th).jump (le + 8#64))))

/-- Exception entry (R120): while ST.XACT and ST.SKACT are 0, no result is awaited and no take request is out, XPC takes the address (the branch's for a
delay slot), XST the status with DS, XCAUSE the cause, XADDR its value, ST enters S with XACT set and IE and PM clear, and the
stream goes on at TVEC. -/
def ExceptionEntry : Prop :=
  ∀ (s : State) (t : Nat) (e : Exc) (q : Pos), e.code < 256 → (s.thr t).pend.all Pend.isReady = true → NoTake (s.thr t) →
    (s.thr t).sr.st.getLsbD 14 = false → (s.thr t).sr.st.getLsbD 15 = false →
    let r := (s.takeExc t e q).thr t
    r.pc = (s.thr t).sr.tvec ∧ r.sr.xpc = (match q.delay with | some d => d.branch | none => q.pc)
    ∧ r.sr.xst = savedSt (match q.shadow with | some v => v | none => (s.thr t).sr.st) q.delay.isSome
    ∧ (r.sr.xcause &&& 0xFF0000#64 = BitVec.ofNat 64 (e.code * 2 ^ 16)) ∧ r.sr.xcause.getLsbD 63 = false
    ∧ r.sr.xaddr = e.xaddr ∧ r.sr.st = insideSt (match q.shadow with | some v => v | none => (s.thr t).sr.st) 0x4000#64
    ∧ r.delay = none ∧ r.shadow = none ∧ r.pend = [] ∧ r.sr.spc = (s.thr t).sr.spc
    ∧ r.sr.lc0 = (loopsAt q (s.thr t).sr).lc0 ∧ r.sr.lc1 = (loopsAt q (s.thr t).sr).lc1

/-- Skid entry and the stop (R131, R133): with XACT set the Skid registers take the position, SCAUSE the cause, and G31 is exchanged with SKID_SP;
with SKACT set the thread is STOPPED at the instruction and HALT_N is driven. -/
def SkidAndStop : Prop :=
  ∀ (s : State) (t : Nat) (e : Exc) (q : Pos), (s.thr t).pend = [] → NoTake (s.thr t) →
    let r := (s.takeExc t e q).thr t
    ((s.thr t).sr.st.getLsbD 15 = false → (s.thr t).sr.st.getLsbD 14 = true →
      r.pc = (s.thr t).sr.tvec + 0x800#64 ∧ r.sr.spc = (match q.delay with | some d => d.branch | none => q.pc)
      ∧ r.sr.sst = savedSt (match q.shadow with | some v => v | none => (s.thr t).sr.st) q.delay.isSome
      ∧ r.sr.st = insideSt (match q.shadow with | some v => v | none => (s.thr t).sr.st) 0xC000#64 ∧ r.rg 31 = (s.thr t).sr.skidSp ∧ r.sr.skidSp = (s.thr t).rg 31
      ∧ r.sr.xpc = (s.thr t).sr.xpc ∧ r.sr.xst = (s.thr t).sr.xst ∧ r.sr.xcause = (s.thr t).sr.xcause
      ∧ (e.code < 256 → r.sr.scause.extractLsb' 16 8 = BitVec.ofNat 8 e.code) ∧ r.sr.scause.getLsbD 63 = false)
    ∧ ((s.thr t).sr.st.getLsbD 15 = true → r.st = .stopped ∧ r.pc = q.pc ∧ r.sr = loopsAt q (s.thr t).sr
      ∧ (s.takeExc t e q).hub.haltN = true)

/-- SYSCALL, XRET, SYSRET and BRK (R119, R124, R125): SYSCALL outside a handler saves PC + 8 and the status and goes on at ENTRY, inside
one it takes ILLEGAL; the returns restore the saved status and address, exchanging G31 and SKID_SP after a Skid entry, and take
exception 5 when the saved privilege is above the current one; BRK takes exception 6. -/
def SystemEntryAndReturn : Prop :=
  ∀ (t : ThreadId) (cond : BitVec 4) (f : BitVec 52) (s : State), Body.noRegs f = true →
    let th := s.thr t.val
    let saved := if th.sr.st.getLsbD 15 then th.sr.sst else th.sr.xst
    let back := if th.sr.st.getLsbD 15 then th.sr.spc else th.sr.xpc
    (Fires s t cond true → th.sr.st.getLsbD 14 = false → ∃ g : Thread, ThreadBy (.syscall t cond f) s t (fun _ => g.jump th.sr.entry)
        ∧ g.sr.xpc = th.pc + 8#64 ∧ g.sr.xst = th.shadow.getD th.sr.st ∧ g.sr.st = insideSt (th.shadow.getD th.sr.st) 0x4000#64
        ∧ SameButSr { g with shadow := th.shadow } th ∧ g.shadow = none ∧ g.sr.spc = th.sr.spc ∧ g.sr.xcause = th.sr.xcause)
    ∧ (Fires s t cond true → th.sr.st.getLsbD 14 = true → exec (.syscall t cond f) s
        = .next ((s.fetch t.val).2.takeExc t.val { code := 3, xaddr := 0 } th.pos))
    ∧ (∀ n : Fin 2, Fires s t cond true → (n.val = 1 → th.sr.st.getLsbD 15 = false) → fld saved 10 9 ≤ fld th.sr.st 10 9 →
        ∃ g : Thread, ThreadBy (([Instr.xret, Instr.sysret].getD n.val .xret) t cond f) s t (fun _ => g.jump back)
          ∧ g.sr.st = saved &&& 0xDA1F#64 ∧ g.shadow = none ∧ g.sr.xpc = th.sr.xpc ∧ g.sr.spc = th.sr.spc
          ∧ (th.sr.st.getLsbD 15 = true → g.rg 31 = th.sr.skidSp ∧ g.sr.skidSp = th.rg 31)
          ∧ ∀ r, (th.sr.st.getLsbD 15 = false ∨ r ≠ 31) → g.rg r = th.rg r)
    ∧ (∀ n : Fin 2, Fires s t cond true → (n.val = 1 → th.sr.st.getLsbD 15 = false) → fld th.sr.st 10 9 < fld saved 10 9 →
        exec (([Instr.xret, Instr.sysret].getD n.val .xret) t cond f) s
          = .next ((s.fetch t.val).2.takeExc t.val { code := 5, xaddr := 0 } th.pos))
    ∧ (Fires s t cond false → exec (.brk t cond f) s
        = .next ((s.fetch t.val).2.takeExc t.val { code := 6, xaddr := 0 } th.pos))

/-- LD (R91, R93, R94) from memory of this module past the cache: the little-endian value of the bytes becomes visible before the
third following instruction; a misaligned address takes ALIGN, poisoned data DATA_ERR. -/
def LoadsFromMemory : Prop :=
  ∀ (t : ThreadId) (cond : BitVec 4) (f : BitVec 52) (s : State), Fires s t cond false →
    Body.okM f = true → ¬ (Body.sx f = true ∧ Body.sz f = 3) →
    let n := 2 ^ Body.sz f
    let va := Body.ea f (s.thr t.val)
    (va.toNat % n ≠ 0 → exec (.ld t cond f) s
      = .next ((s.fetch t.val).2.takeExc t.val { code := 8, xaddr := va } (s.thr t.val).pos))
    ∧ (va.toNat % n = 0 → ∀ leaf pa s2, Reaches s t f .read leaf pa s2 → s2.way leaf pa = .memory →
      (s2.anyBad (localOf pa) n (leafTag leaf) = false →
        ∃ v : Word, HoldsBytes v n (Body.sx f) (fun i => s.byte (localOf pa + i))
          ∧ ThreadStep (.ld t cond f) s t (fun th => { th with pend := th.pend ++
              [{ left := 3, src := .load, writes := [.g (Body.rd f) v], pos := th.loadPos, va := va
                 grans := [(localOf pa / 32, [])] }] }))
      ∧ (s2.anyBad (localOf pa) n (leafTag leaf) = true →
        ∃ s3, exec (.ld t cond f) s = .next (s3.takeExc t.val { code := 11, xaddr := va &&& ~~~7#64 } (s.thr t.val).pos)
          ∧ Kept s s3 t.val ∧ s3.thr t.val = s.thr t.val))

/-- SD (R93, R94, R316) to memory of this module past the cache: the low SZ bytes of RD are stored at the translated address, every
other byte of memory stays, and no other thread changes. -/
def StoresToMemory : Prop :=
  ∀ (t : ThreadId) (cond : BitVec 4) (f : BitVec 52) (s : State), Fires s t cond false →
    Body.okM f = true → Body.sx f = false →
    let n := 2 ^ Body.sz f
    let va := Body.ea f (s.thr t.val)
    (va.toNat % n ≠ 0 → exec (.sd t cond f) s
      = .next ((s.fetch t.val).2.takeExc t.val { code := 8, xaddr := va } (s.thr t.val).pos))
    ∧ (va.toNat % n = 0 → ∀ leaf pa s2, Reaches s t f .write leaf pa s2 → s2.way leaf pa = .memory →
      s2.isMem (localOf pa) = true →
      ∃ s', exec (.sd t cond f) s = .next s' ∧ s'.thr t.val = (s.thr t.val).retire ∧ (∀ u, u ≠ t.val → s'.thr u = s.thr u)
        ∧ (∀ i, i < n → s'.byte (localOf pa + i) = ((s.thr t.val).rg (Body.rd f)).extractLsb' (8 * i) 8)
        ∧ MemOutside s s' (localOf pa) n ∧ s'.sem = s.sem)

/-- LD and SD past this module's memory (R93, R94, R291, R381, R424, R429): an access of register space by other than 8 bytes takes ALIGN, and one of
8 bytes reads or writes the register; a load from the host window or from another module waits for its answer, under the tag of the
request that it sends, and a store sends its bytes; while the host does not let the module master the bus, a load takes DATA_ERR and a store is
discarded. Where the manual is silent it is as logs 33 and 58 say. -/
def FarAccess : Prop :=
  ∀ (t : ThreadId) (cond : BitVec 4) (f : BitVec 52) (s : State), Fires s t cond false → Body.okM f = true →
    let n := 2 ^ Body.sz f
    let va := Body.ea f (s.thr t.val)
    let th := s.thr t.val
    let still (s' : State) : Prop := MemOutside s s' 0 0 ∧ ∀ u, u ≠ t.val → s'.thr u = s.thr u
    let misaligned (i : Instr) : Prop := exec i s = .next ((s.fetch t.val).2.takeExc t.val { code := 8, xaddr := va } th.pos)
    let pending (src : Source) (v : Word) : Thread := { th with pend := th.pend ++
      [{ left := 3, src := src, writes := [.g (Body.rd f) v], pos := th.loadPos, va := va }] }
    va.toNat % n = 0 → ∀ leaf pa s2,
    (Reaches s t f .read leaf pa s2 → ¬ (Body.sx f = true ∧ Body.sz f = 3) →
      (∀ off, s2.way leaf pa = .regs off → (n ≠ 8 → misaligned (.ld t cond f))
        ∧ (n = 8 → ∃ s', exec (.ld t cond f) s = .next s' ∧ s'.thr t.val = (pending .load (s2.regGet off).1).retire ∧ still s'))
      ∧ (∀ off, s2.way leaf pa = .host off →
        (s.host.bme = false → ∃ s3, exec (.ld t cond f) s = .next (s3.takeExc t.val { code := 11, xaddr := va &&& ~~~7#64 } th.pos)
          ∧ s3.thr t.val = th ∧ still s3)
        ∧ (s.host.bme = true → ∃ s', exec (.ld t cond f) s = .next s'
          ∧ s'.thr t.val = (pending (.host s2.hostTag n (Body.sx f)) 0).retire ∧ still s'
          ∧ .hostRead s2.hostTag (s'.busTo (s2.busAddr off)) n s.host.ats ∈ s'.out
          ∧ s'.host.reads = s2.host.reads ++ [{ tag := s2.hostTag, who := .thread t, addr := off, size := n }]))
      ∧ (s2.way leaf pa = .remote → ∃ s', exec (.ld t cond f) s = .next s'
        ∧ s'.thr t.val = (pending (.remote s2.nextXid (pa % 64) n (Body.sx f)) 0).retire ∧ still s'
        ∧ kget {} s'.remotes s2.nextXid = { kind := .load t.val, addr := pa, err := s2.routeErr (devOf pa) }))
    ∧ (Reaches s t f .write leaf pa s2 → Body.sx f = false →
      (∀ off, s2.way leaf pa = .regs off → (n ≠ 8 → misaligned (.sd t cond f))
        ∧ (n = 8 → exec (.sd t cond f) s = .next ((s2.regPut (.thread t) off (th.rg (Body.rd f))).updThr t.val Thread.retire)))
      ∧ (∀ off, s2.way leaf pa = .host off → ∃ s', exec (.sd t cond f) s = .next s' ∧ s'.thr t.val = th.retire ∧ still s'
        ∧ (s.host.bme = true → ∃ bs : List Byte, .hostWrite (s'.busTo (s2.busAddr off)) bs s.host.ats ∈ s'.out ∧ bs.length = n
          ∧ ∀ i, i < n → bs.getD i 0 = (th.rg (Body.rd f)).extractLsb' (8 * i) 8)
        ∧ (s.host.bme = false → s'.out = s.out))
      ∧ (s2.way leaf pa = .remote → pa % 64 + n ≤ 64 → ∃ s', exec (.sd t cond f) s = .next s' ∧ s'.thr t.val = th.retire ∧ still s'
        ∧ kget {} s'.remotes s2.nextXid = { kind := .store t.val, addr := pa, err := s2.routeErr (devOf pa) }))

/-- LD and SD that hit a sound line of the data cache (R68, R72, R94): the load takes its value from the line, the store writes the
line and marks it dirty, and memory itself stays. -/
def CachedAccess : Prop :=
  ∀ (t : ThreadId) (cond : BitVec 4) (f : BitVec 52) (s : State), Fires s t cond false → Body.okM f = true →
    let n := 2 ^ Body.sz f
    let va := Body.ea f (s.thr t.val)
    let c := coreOf t.val
    va.toNat % n = 0 → ∀ leaf pa s2 e,
      s2.way leaf pa = .cached → s2.findLine c true (pa / 256) = some e →
      (s2.centry c true e).inflight = false → (s2.centry c true e).err = .clean → pa % n = va.toNat % n →
    (Reaches s t f .read leaf pa s2 → ¬ (Body.sx f = true ∧ Body.sz f = 3) →
      ∃ v : Word, HoldsBytes v n (Body.sx f) (fun i => lineByte (s2.centry c true e).data (pa % 256 + i))
        ∧ ThreadStep (.ld t cond f) s t (fun th => { th with pend := th.pend ++
            [{ left := 3, src := .ready, writes := [.g (Body.rd f) v], pos := th.loadPos, va := va }] }))
    ∧ (Reaches s t f .write leaf pa s2 → Body.sx f = false →
      ∃ s', exec (.sd t cond f) s = .next s' ∧ s'.thr t.val = (s.thr t.val).retire ∧ MemOutside s s' 0 0
        ∧ (s'.centry c true e).dirty = true ∧ (s'.centry c true e).valid = (s2.centry c true e).valid
        ∧ (∀ i, i < 256 → lineByte (s'.centry c true e).data i
            = if pa % 256 ≤ i ∧ i < pa % 256 + n then ((s.thr t.val).rg (Body.rd f)).extractLsb' (8 * (i - pa % 256)) 8
              else lineByte (s2.centry c true e).data i))

/-- PRF and the cache operations (R95, R97, Table ISA-6): PRF asks for the line of a cacheable address that the cache does not
hold; on a sound dirty line of this module's memory DCWB writes it back and keeps it, DCWBI writes it back and drops it, DCINV
drops it with its data, ICINV drops a line of the instruction cache, ICINVALL every valid line of it, DCWBIALL every valid line
of the data cache. Each retires. -/
def CacheOperations : Prop :=
  ∀ (t : ThreadId) (cond : BitVec 4) (f : BitVec 52) (s : State), Fires s t cond false → Body.okM f = true →
    let c := coreOf t.val
    let priv := stPriv (s.thr t.val).sr.st
    (Body.rd f = 0 → ∃ s', exec (.prf t cond f) s = .next s' ∧ s'.thr t.val = (s.thr t.val).retire
      ∧ ∀ leaf pa s2, Reaches s t f .read leaf pa s2 → leafNc leaf = false →
        (s2.isLocal pa = false ∨ s2.isMem (localOf pa) = true) → s2.findLine c true (pa / 256) = none → LineComes s' c (pa / 256))
    ∧ (∀ leaf pa s2 e, Reaches s t f .read leaf pa s2 → s2.findLine c true (pa / 256) = some e →
        (s2.centry c true e).valid = true → (s2.centry c true e).dirty = true → (s2.centry c true e).err = .clean →
        (s2.centry c true e).la = pa / 256 → s2.isLocal pa = true → s2.isMem (localOf pa / 256 * 256) = true →
      (Body.rd f = 0 → ∃ s', exec (.dcwb t cond f) s = .next s' ∧ s'.thr t.val = (s.thr t.val).retire
        ∧ (s'.centry c true e).valid = true ∧ (s'.centry c true e).dirty = false
        ∧ (∀ i, i < 256 → s'.byte (localOf pa / 256 * 256 + i) = lineByte (s2.centry c true e).data i)
        ∧ MemOutside s s' (localOf pa / 256 * 256) 256)
      ∧ (Body.rd f = 1 → ∃ s', exec (.dcwbi t cond f) s = .next s' ∧ s'.thr t.val = (s.thr t.val).retire
        ∧ (s'.centry c true e).valid = false
        ∧ (∀ i, i < 256 → s'.byte (localOf pa / 256 * 256 + i) = lineByte (s2.centry c true e).data i)
        ∧ MemOutside s s' (localOf pa / 256 * 256) 256)
      ∧ (priv ≠ 0 → Body.rd f = 2 → ∃ s', exec (.dcinv t cond f) s = .next s' ∧ s'.thr t.val = (s.thr t.val).retire
        ∧ (s'.centry c true e).valid = false ∧ MemOutside s s' 0 0))
    ∧ (∀ leaf pa s2 e, Reaches s t f .read leaf pa s2 → s2.findLine c false (pa / 256) = some e →
        (s2.centry c false e).valid = true → Body.rd f = 3 →
      ∃ s', exec (.icinv t cond f) s = .next s' ∧ s'.thr t.val = (s.thr t.val).retire
        ∧ (s'.centry c false e).valid = false ∧ MemOutside s s' 0 0)
    ∧ (priv ≠ 0 → Body.rd f = 4 → ∃ s', exec (.icinvall t cond f) s = .next s' ∧ s'.thr t.val = (s.thr t.val).retire
        ∧ (∀ p ∈ (s'.core c).icache.entries, p.2.valid = false) ∧ MemOutside s s' 0 0)
    ∧ (priv ≠ 0 → Body.rd f = 5 → ∃ s', exec (.dcwbiall t cond f) s = .next s' ∧ s'.thr t.val = (s.thr t.val).retire
        ∧ (∀ p ∈ (s'.core c).dcache.entries, p.2.valid = false))

/-- R106 and R107: a string instruction whose count is 0 only clears F; one whose pointer is not a multiple of the element size
takes ALIGN before any element. Where the manual is silent it is as logs 53 and 61 say. -/
def StringEdges : Prop :=
  ∀ (n : Fin 4) (t : ThreadId) (cond : BitVec 4) (f : BitVec 52) (s : State), Fires s t cond false → Body.okS f = true →
    let i := ([Instr.movs, Instr.fills, Instr.scans, Instr.cmps].getD n.val .movs) t cond f
    let th := s.thr t.val
    let src := decide (n.val = 0) || decide (n.val = 3)
    (StringOk th f src → th.rg (Body.rb f) = 0 →
      ThreadStep i s t (fun th => { th with sr := { th.sr with st := th.sr.st &&& ~~~0x10#64 } }))
    ∧ ((th.rg (Body.rd f)).toNat % 2 ^ Body.esz f ≠ 0 →
      exec i s = .next ((s.fetch t.val).2.takeExc t.val { code := 8, xaddr := th.rg (Body.rd f) } th.pos))
    ∧ (src = true → (th.rg (Body.rd f)).toNat % 2 ^ Body.esz f = 0 → (th.rg (Body.ra f)).toNat % 2 ^ Body.esz f ≠ 0 →
      exec i s = .next ((s.fetch t.val).2.takeExc t.val { code := 8, xaddr := th.rg (Body.ra f) } th.pos))

/-- FILLS and SCANS on memory past the cache (R107, R109): a chunk of FILLS writes the low bytes of RSRC to every element of
it and nothing else; a chunk of SCANS stops at the first element equal to them with F = 1, or at count 0 with F = 0. -/
def FillAndScan : Prop :=
  ∀ (t : ThreadId) (cond : BitVec 4) (f : BitVec 52) (s : State), Fires s t cond false → StringOk (s.thr t.val) f false →
    let th := s.thr t.val
    let w := 2 ^ Body.esz f
    let cnt := (th.rg (Body.rb f)).toNat
    let n := chunkLen cnt (th.rg (Body.rd f)) w
    let v := (th.rg (Body.ra f)).toNat % 2 ^ (8 * w)
    cnt ≠ 0 → ∀ p a s2, SoundAt s2 p a →
    ((s.fetch t.val).2.placeAll t.val [⟨th.rg (Body.rd f), n * w, true⟩] = .ok ([p], s2) →
      ∃ s', exec (.fills t cond f) s = .next s'
        ∧ s'.thr t.val = chunkNext (Body.rep f) (decide (n = cnt)) (chunkRegs th f false n w (if n = cnt then some false else none) none)
        ∧ (∀ i, i < n → elemAt s' a w i = v) ∧ MemOutside s s' a (n * w))
    ∧ ((s.fetch t.val).2.placeAll t.val [⟨th.rg (Body.rd f), n * w, false⟩] = .ok ([p], s2) →
      (∀ k, k < n → elemAt s a w k = v → (∀ i, i < k → elemAt s a w i ≠ v) →
        ThreadBy (.scans t cond f) s t (fun th => chunkNext (Body.rep f) true (chunkRegs th f false k w (some true) none)))
      ∧ ((∀ i, i < n → elemAt s a w i ≠ v) →
        ThreadBy (.scans t cond f) s t (fun th => chunkNext (Body.rep f) (decide (n = cnt))
          (chunkRegs th f false n w (if n = cnt then some false else none) none))))

/-- MOVS and CMPS on memory past the cache, with the source of the chunk inside one 256-byte block (R107, R109): MOVS leaves what
copying one element at a time in ascending order leaves; CMPS stops at the first difference with F = 1 and C telling the
order, or at count 0 with F = 0 and C = 0. -/
def CopyAndCompare : Prop :=
  ∀ (t : ThreadId) (cond : BitVec 4) (f : BitVec 52) (s : State), Fires s t cond false → StringOk (s.thr t.val) f true →
    let th := s.thr t.val
    let w := 2 ^ Body.esz f
    let cnt := (th.rg (Body.rb f)).toNat
    let dst := th.rg (Body.rd f)
    let src := th.rg (Body.ra f)
    let n := chunkLen cnt dst w
    cnt ≠ 0 → src.toNat % 256 + n * w ≤ 256 → ∀ p q a b s2, SoundAt s2 p a → SoundAt s2 q b →
    ((s.fetch t.val).2.placeAll t.val [⟨src, n * w, false⟩, ⟨dst, n * w, true⟩] = .ok ([p, q], s2) →
      ∃ s', exec (.movs t cond f) s = .next s'
        ∧ s'.thr t.val = chunkNext (Body.rep f) (decide (n = cnt)) (chunkRegs th f true n w (if n = cnt then some false else none) none)
        ∧ (∀ i, i < n * w → s'.byte (b + i) = if b ≤ a + i ∧ a + i < b + i / w * w then s'.byte (a + i) else s.byte (a + i))
        ∧ MemOutside s s' b (n * w))
    ∧ ((s.fetch t.val).2.placeAll t.val [⟨src, n * w, false⟩, ⟨dst, n * w, false⟩] = .ok ([p, q], s2) →
      (∀ k, k < n → elemAt s b w k ≠ elemAt s a w k → (∀ i, i < k → elemAt s b w i = elemAt s a w i) →
        ThreadBy (.cmps t cond f) s t (fun th => chunkNext (Body.rep f) true
          (chunkRegs th f true k w (some true) (some (decide (elemAt s b w k < elemAt s a w k))))))
      ∧ ((∀ i, i < n → elemAt s b w i = elemAt s a w i) →
        ThreadBy (.cmps t cond f) s t (fun th => chunkNext (Body.rep f) (decide (n = cnt))
          (chunkRegs th f true n w (if n = cnt then some false else none) (if n = cnt then some false else none)))))

/-- WAIT (R111, R112): VAL 0 is satisfied at once, and F is then 1, which R111 leaves open (log 60); a count that suffices makes the core send a take request; T = 0 times out at
once; else the thread waits. -/
def WaitIssue : Prop :=
  ∀ (t : ThreadId) (cond : BitVec 4) (f : BitVec 52) (s : State), Fires s t cond false → (Body.rt f = 0 ∨ Body.timm f = 0) →
    let v := Body.val f
    let n := Body.sem f
    let c := (s.semCount n).toNat
    let lim := waitLimit f (s.thr t.val)
    (v = 0 → ThreadStep (.wait t cond f) s t (waitEnds true))
    ∧ (v ≠ 0 → v ≤ c → ∃ s', exec (.wait t cond f) s = .next s' ∧ SemOnly s s' t.val
        ∧ s'.thr t.val = { s.thr t.val with
            wait := some { sem := n, val := v, limit := lim, at_ := s.count (dieOf (coreOf t.val)), sent := true, expired := decide (lim = some 0) } }
        ∧ s'.semQ = s.semQ ++ [{ sem := n, who := t.val, ask := .take v }])
    ∧ (c < v → lim = some 0 → ThreadStep (.wait t cond f) s t (waitEnds false))
    ∧ (c < v → lim ≠ some 0 → ThreadBy (.wait t cond f) s t (fun th =>
        { th with wait := some { sem := n, val := v, limit := lim, at_ := s.count (dieOf (coreOf t.val)), sent := false, expired := false } }))

/-- What happens to a WAIT in progress (R111, R112): the condition becomes visible and a take request leaves; a take that
succeeded satisfies it even after the timeout; one that failed leaves it waiting, or timed out unless a HALT that stops the thread there abandons it (R46, R92);
once the timeout has passed (R39: the cycle T itself still counts) F becomes 0. -/
def WaitEnds : Prop :=
  ∀ (t : ThreadId) (s : State) (w : WaitRec), (s.thr t.val).wait = some w →
    (w.sent = false → w.val ≤ (s.semCount w.sem).toNat → ¬ Late s t.val w → s.gated t.val = false → s.latchedFor t.val = false →
      (s.thr t.val).excWait = none → s.haltsHere t.val = false → (s.thr t.val).st = .running → ∃ s', exec (.waitConditionVisible t) s = .next s' ∧ SemOnly s s' t.val
        ∧ s'.thr t.val = { s.thr t.val with wait := some { w with sent := true, expired := w.expired || decide (w.limit = some 0) } }
        ∧ s'.semQ = s.semQ ++ [{ sem := w.sem, who := t.val, ask := .take w.val }])
    ∧ (w.sent = true → (s.thr t.val).excWait = none → ∀ l r ok, s.takeReply = l ++ (t.val, ok) :: r → (∀ p ∈ l, p.1 ≠ t.val) →
      let back : Thread := { s.thr t.val with wait := some { w with sent := false } }
      let stops : Prop := back.haltReq = true ∧ (s.setThr t.val back).mayStop t.val = true
      ∃ s', exec (.waitTakeReply t) s = .next s' ∧ SemOnly s s' t.val ∧ s'.takeReply = l ++ r
        ∧ (ok = true → s'.thr t.val = (waitEnds true (s.thr t.val)).retire)
        ∧ (ok = false → (w.expired = true ∨ Late s t.val w) → ¬ stops → s'.thr t.val = (waitEnds false (s.thr t.val)).retire)
        ∧ (ok = false → (w.expired = false ∧ ¬ Late s t.val w) ∨ stops → s'.thr t.val = back))
    ∧ (Late s t.val w → w.sent = false → s.latchedFor t.val = false → (s.thr t.val).excWait = none →
      s.haltsHere t.val = false → ThreadStep (.waitTimeout t) s t (waitEnds false))
    ∧ (Late s t.val w → w.sent = true →
      ThreadBy (.waitTimeout t) s t (fun th => { th with wait := some { w with expired := true } }))

/-- SIG, SEMRD and SEMSET (R72, R113, R114): SIG writes the core's dirty lines back and sends its signal, but
holds while a store of the thread awaits its fill (log 61, of R37); SEMRD asks for a count
that arrives as a load's data; SEMSET at S sets the count at issue, ahead of requests under way (log 60), and nothing else: the WAIT of a
host queue may find its condition true and send its take (R433). -/
def SignalReadSet : Prop :=
  ∀ (t : ThreadId) (cond : BitVec 4) (f : BitVec 52) (s : State), Fires s t cond false → Body.timm f = 0 →
    (Body.rt f = 0 → s.storeWaits t.val = true → ∃ s', exec (.sig t cond f) s = .next s'
      ∧ (∀ u, s'.thr u = s.thr u) ∧ (∀ n, s'.semCount n = s.semCount n) ∧ CleanCache s' (coreOf t.val) ∧ s'.semQ = s.semQ
      ∧ (CleanCache s (coreOf t.val) → MemOutside s s' 0 0))
    ∧ (Body.rt f = 0 → s.storeWaits t.val = false → ∃ s' b, exec (.sig t cond f) s = .next s' ∧ s'.thr t.val = (s.thr t.val).retire
      ∧ (∀ u, u ≠ t.val → s'.thr u = s.thr u) ∧ (∀ n, s'.semCount n = s.semCount n) ∧ CleanCache s' (coreOf t.val)
      ∧ s'.semQ = s.semQ ++ [{ sem := Body.sem f, who := t.val, ask := .signal (Body.val f), behind := b }]
      ∧ (CleanCache s (coreOf t.val) → MemOutside s s' 0 0))
    ∧ (Body.val f = 0 → ∃ s', exec (.semrd t cond f) s = .next s' ∧ SemOnly s s' t.val
      ∧ s'.thr t.val = ({ s.thr t.val with pend := (s.thr t.val).pend ++
          [{ left := 3, src := .sem (Body.sem f), writes := [.g (Body.rt f) 0], pos := (s.thr t.val).pos }] } : Thread).retire
      ∧ s'.semQ = s.semQ ++ [{ sem := Body.sem f, who := t.val, ask := .read }])
    ∧ (Body.rt f = 0 → stPriv (s.thr t.val).sr.st ≠ 0 → ∃ s', exec (.semset t cond f) s = .next s'
      ∧ s'.thr t.val = (s.thr t.val).retire ∧ (∀ u, u ≠ t.val → s'.thr u = s.thr u) ∧ MemOutside s s' 0 0
      ∧ (∃ l, s'.semQ = s.semQ ++ l ∧ (∀ r ∈ l, 0xD000 ≤ r.who ∧ r.ask.isTake = true) ∧ (NoHostWait s → l = []))
      ∧ ∀ n, s'.semCount n = if n = Body.sem f then BitVec.ofNat 16 (Body.val f) else s.semCount n)

/-- The service of a semaphore (R112, R113, R114, R506). All signals that have arrived are added in one event, saturating at 0xFFFF
with one SEM_SAT, whoever sent them; of threads and units nothing else changes. A take is served alone and lowers the count when it
suffices; a read finds the count. No other count moves. -/
def SemaphoreService : Prop :=
  ∀ (sem : BitVec 14) (s : State),
    ((∀ r ∈ s.semQ, clearSignal sem.toNat r) → (∃ r ∈ s.semQ, r.sem = sem.toNat ∧ r.ask.isSignal = true) →
      let mine := s.semQ.filter (fun r => decide (r.sem = sem.toNat) && r.ask.isSignal)
      let sum := (s.semCount sem.toNat).toNat + (mine.map (fun r => r.ask.value)).sum
      ∃ s', exec (.semSignalApplied sem s.semQ.length) s = .next s'
        ∧ s'.semCount sem.toNat = BitVec.ofNat 16 (min sum 0xFFFF) ∧ (∀ n, n ≠ sem.toNat → s'.semCount n = s.semCount n)
        ∧ ((∀ r ∈ mine, plainSender r) → (NoHostWait s → s'.semQ = s.semQ.filter (fun r => !(decide (r.sem = sem.toNat) && r.ask.isSignal)))
        ∧ s'.threads = s.threads ∧ MemOutside s s' 0 0
        ∧ (sum ≤ 0xFFFF → s'.events = s.events)
        ∧ (0xFFFF < sum → ∃ w, (∀ r ∈ mine, w ≤ r.who) ∧ (w = 0xFFFF ∨ ∃ r ∈ mine, r.who = w)
          ∧ s'.events = (s.raise (.sem (sem.toNat / 4096)) (0x10 + sem.toNat / 4096) 0x0103 3 sem.toNat w).events)))
    ∧ (∀ l r v t, s.semQ = l ++ { sem := sem.toNat, who := t, ask := .take v } :: r → t < 4608 →
      (∀ q ∈ l, q.sem ≠ sem.toNat ∨ q.ask.isTake = false) →
      let c := (s.semCount sem.toNat).toNat
      ∃ s', exec (.semTakeApplied sem 1) s = .next s' ∧ s'.semQ = l ++ r ∧ s'.takeReply = s.takeReply ++ [(t, decide (v ≤ c))]
        ∧ s'.semCount sem.toNat = BitVec.ofNat 16 (if v ≤ c then c - v else c)
        ∧ (∀ n, n ≠ sem.toNat → s'.semCount n = s.semCount n) ∧ s'.threads = s.threads ∧ MemOutside s s' 0 0)
    ∧ (∀ l r t, s.semQ = l ++ { sem := sem.toNat, who := t, ask := .read } :: r →
      (∀ q ∈ l, q.sem ≠ sem.toNat ∨ q.ask.isRead = false) →
      exec (.semReadApplied sem 1) s
        = .next { s with semQ := l ++ r, readReply := s.readReply ++ [(t, sem.toNat, s.semCount sem.toNat)] })

/-- The core Bell (R137, R138): it latches the contender with the highest PRI, on equal PRI the lowest number, when the interrupt
thread stands where R135 lets it in, with IE 1 and no handler active; only then. -/
def BellLatchesWinner : Prop :=
  ∀ (c : CoreId) (s : State), let b := (s.core c.val).bell
    (∀ n, n < 64 → b.latched = none → Contends b n →
      (∀ m, m < 64 → Contends b m → kget 0 b.pri m < kget 0 b.pri n ∨ kget 0 b.pri m = kget 0 b.pri n ∧ n ≤ m) →
      s.accepts c.val = true →
      exec (.bellLatch c) s = .next (s.setCore c.val { s.core c.val with bell := { b with
        latched := some (n, if n < 48 then n else 0x100 + (kget 0 b.inputs (n - 48) - 1)) } }))
    ∧ (b.latched ≠ none ∨ (∀ m, m < 64 → ¬ Contends b m) ∨ s.accepts c.val = false → exec (.bellLatch c) s = .next s)

/-- Interrupt entry (R121, R138): XPC takes the pc, XST the status, XCAUSE INT, code 0x10 and the source, and the stream goes on at
the source's vector with an edge source's PEND cleared; a source that stopped contending enters at BELL_SPUR_VEC with
SRC 0x3FF and clears nothing. -/
def InterruptEntry : Prop :=
  ∀ (c : CoreId) (s : State) (n src : Nat), let b := (s.core c.val).bell
    let t := s.intThread c.val
    b.latched = some (n, src) → n < 64 → src < 2 ^ 16 → s.accepts c.val = true →
    ∃ s', exec (.interruptEntry c) s = .next s' ∧ (∀ u, u ≠ t → s'.thr u = s.thr u) ∧ (s'.core c.val).bell.latched = none
      ∧ (let r := s'.thr t
        r.sr.xpc = (s.thr t).pc ∧ r.sr.xst = (s.thr t).sr.st ∧ r.sr.st = insideSt (s.thr t).sr.st 0x4000#64 ∧ r.sr.xaddr = 0
          ∧ r.g = (s.thr t).g ∧ r.wait = none ∧ r.sr.xcause.getLsbD 63 = true ∧ r.sr.xcause.extractLsb' 16 8 = 0x10#8
          ∧ (Contends b n → r.pc = kget 0 b.vec n ∧ r.sr.xcause.extractLsb' 0 16 = BitVec.ofNat 16 src)
          ∧ (¬ Contends b n → r.pc = b.spurVec ∧ r.sr.xcause.extractLsb' 0 16 = 0x3FF#16))
      ∧ (Contends b n → n < 48 → (s'.core c.val).bell.pend = b.pend &&& ~~~(BitVec.ofNat 64 (2 ^ n)))
      ∧ (Contends b n → 48 ≤ n → hubLevel (src - 0x100) = false →
        s'.hub.acks = s.hub.acks ++ [(src - 0x100, c.val, n - 48)] ∧ (s'.core c.val).bell.mute.getLsbD (n - 48) = true)
      ∧ (¬ Contends b n ∨ 48 ≤ n → (s'.core c.val).bell.pend = b.pend)

/-- The hub Bell (R139, R140, R411, R508): HUB_BELL_SET raises sources 0x80 + k, and the pin of edge function 7 with source 0x80; HUB_BELL_CFGn writes EN, and a 1 at PEND clears an edge
source; a source routed to the host that becomes a contender sends its MSI-X message; an acknowledgment clears PEND; a
core's input shows the contending source of highest PRI, on equal PRI the lowest number. -/
def HubBell : Prop :=
  (∀ (v : Word) (s : State), RegOpen s → ∃ s', exec (.hubBellSet v) s = .next s' ∧ s'.threads = s.threads
      ∧ (∀ k : Fin 2, v.getLsbD 0 = true → s.hub.pinOf 7 = k.val + 1 → s'.hub.pulse.getLsbD k.val = true)
      ∧ (v.getLsbD 0 = false ∨ s.hub.pinOf 7 = 0 → s'.hub.pulse = s.hub.pulse)
      ∧ ∀ n, s'.hubSrc n = if 0x80 ≤ n ∧ n < 0xC0 ∧ v.getLsbD (n - 0x80) = true then { s.hubSrc n with pend := true } else s.hubSrc n)
  ∧ (∀ (n : Fin 256) (v : Word) (s : State), RegOpen s →
      let x := s.hubSrc n.val
      let y : HubSrc := { x with en := v.getLsbD 7, pend := x.pend && (hubLevel n.val || !v.getLsbD 6) }
      ∃ s', exec (.hubBellCfgWrite n v) s = .next s' ∧ s'.threads = s.threads
        ∧ (∀ m, s'.hubSrc m = if m = n.val then y else s.hubSrc m)
        ∧ (s.host.bme = true → s.host.msix = true → kget false s.host.msixOpen (x.tgt % 2048) = true →
          s'.out = if y.contends = true ∧ x.contends = false ∧ x.dtype = 2 then .msix (x.tgt % 2048) :: s.out else s.out))
  ∧ (∀ (n : Fin 256) (s : State) (l r : List (Nat × Nat × Nat)) (p : Nat × Nat), s.hub.acks = l ++ (n.val, p) :: r →
      (∀ q ∈ l, q.1 ≠ n.val) → ∃ s', exec (.hubBellAck n) s = .next s' ∧ s'.hub.acks = l ++ r ∧ s'.threads = s.threads
        ∧ ∀ m, s'.hubSrc m = if m = n.val then { s.hubSrc m with pend := false } else s.hubSrc m)
  ∧ ∀ (c : CoreId) (j : Fin 16) (s : State), kwf {} s.hub.srcs = true →
      ∃ s', exec (.hubInputChange c j) s = .next s' ∧ s'.threads = s.threads ∧ s'.hub = s.hub
        ∧ (∀ d, d ≠ c.val → s'.core d = s.core d)
        ∧ (∀ i, i ≠ j.val → kget 0 (s'.core c.val).bell.inputs i = kget 0 (s.core c.val).bell.inputs i)
        ∧ ((∀ n, ¬ RoutedHere (s.hubSrc n) c.val j.val) → kget 0 (s'.core c.val).bell.inputs j.val = 0)
        ∧ (∀ n, RoutedHere (s.hubSrc n) c.val j.val → (∀ m, RoutedHere (s.hubSrc m) c.val j.val →
            (s.hubSrc m).pri < (s.hubSrc n).pri ∨ (s.hubSrc m).pri = (s.hubSrc n).pri ∧ n ≤ m) →
          kget 0 (s'.core c.val).bell.inputs j.val = n + 1)
        ∧ ((∀ a ∈ s.hub.acks, a.2 ≠ (c.val, j.val)) → (s'.core c.val).bell.mute.getLsbD j.val = false)

/-- EVT_IN filters and the end of an EVT_OUT pulse (R141, R411): the filter output's transition to the active level raises the pin's hub source, the
other transition raises nothing; while the 25 MHz reference is lost the hub stands in reset and nothing changes (R31); the pulse's pin goes
low. -/
def EventPins : Prop :=
  (∀ (k : Fin 4) (level : Bool) (s : State), let f := kget {} s.hub.filters k.val
    (s.ref25 = false → exec (.evtInEdge k level) s = .next s) ∧ (s.ref25 = true →
    ∃ s', exec (.evtInEdge k level) s = .next s' ∧ s'.threads = s.threads
      ∧ kget {} s'.hub.filters k.val = { f with level := level }
      ∧ (∀ i, i ≠ k.val → kget {} s'.hub.filters i = kget {} s.hub.filters i)
      ∧ ∀ n, s'.hubSrc n = if n = k.val ∧ level ≠ f.pol ∧ level ≠ f.level then { s.hubSrc n with pend := true }
          else s.hubSrc n))
  ∧ ∀ (pin : Fin 2) (s : State), exec (.evtOutPulseEnd pin) s
      = .next { s with hub := { s.hub with pulse := s.hub.pulse &&& ~~~(BitVec.ofNat 2 (2 ^ pin.val)) } }

/-- R144, R145, R151, R158: VCMP writes all predicate bits of an element alike; VSEL takes VA where active and VB elsewhere; VBCAST
writes the low bytes of G[RG] to every active element; VPERM and VSLIDE take elements of the pair VA, VB, and poison in any
active granule of a source or in any granule that they take from marks every granule that they write (log 61).
Where the manual is silent it is as log 60 says. -/
def VectorCompareAndMove : Prop :=
  ∀ (t : ThreadId) (cond : BitVec 4) (f : BitVec 52) (s : State), Fires s t cond false → typeOk f →
    let th := s.thr t.val
    let w := typeWidth (Body.et f)
    let e := 256 / w
    let p := th.rp (Body.psel f)
    let lane (r k : Nat) := laneOf w (th.rv r).data k
    let bad (r g : Nat) : Prop := (th.rv r).poison.getLsbD g = true
    let pairReg (j : Nat) : Nat := if j < e then Body.va f else Body.vb f
    let pairElem (j : Nat) : Nat := if j < 2 * e then lane (pairReg j) (j % e) else 0
    let pairBad (j : Nat) : Prop := j < 2 * e ∧ bad (pairReg j) (j % e * w / 32)
    (vaFields f true true true false true false → Body.vd f < 8 → Body.fn f < 7 →
      let res (k : Nat) := cmpHolds (Body.et f) (Body.us f) (Body.fn f) (lane (Body.va f) k) (lane (Body.vb f) k)
      ∃ (r : PReg) (fl : Flg), VecStep (.vcmp t cond f) s t [.p (Body.vd f) r] fl
        ∧ (∀ i, i < 256 → (activeAt p w (i / w) → r.bits.getLsbD i = (res (i / w)).1)
          ∧ (¬ activeAt p w (i / w) → r.bits.getLsbD i = (!Body.zm f && (th.rp (Body.vd f)).bits.getLsbD i)))
        ∧ flagsAre e (fun k => activeAt p w k ∧ r.poison.getLsbD (k * w / 32) = false) (fun k => { nv := (res k).2 }) fl)
    ∧ (vaFields f true true true false false false → Body.zm f = false → Body.us f = false → ∃ r, VecStep (.vsel t cond f) s t [.v (Body.vd f) r] {}
      ∧ ∀ k, k < e → (activeAt p w k → laneOf w r.data k = lane (Body.va f) k)
        ∧ (¬ activeAt p w k → laneOf w r.data k = lane (Body.vb f) k))
    ∧ (vaFields f true false false false false true → Body.us f = false → ∃ r, VecStep (.vbcast t cond f) s t [.v (Body.vd f) r] {}
      ∧ lanesAre w p (Body.zm f) (th.rv (Body.vd f)) (fun _ => False) (fun _ => ((th.rg (Body.rg f)).toNat % 2 ^ (8 * w), {})) r {})
    ∧ (vaFields f true true true true false false → Body.us f = false → ∃ r, VecStep (.vperm t cond f) s t [.v (Body.vd f) r] {}
      ∧ lanesAre w p (Body.zm f) (th.rv (Body.vd f))
        (fun _ => ∃ k, k < e ∧ activeAt p w k ∧ (bad (Body.vc f) (k * w / 32) ∨ bad (Body.va f) (k * w / 32) ∨ bad (Body.vb f) (k * w / 32)
          ∨ pairBad (lane (Body.vc f) k % (2 * e))))
        (fun k => (pairElem (lane (Body.vc f) k % (2 * e)), {})) r {})
    ∧ (vaFields f true true true false true false → Body.us f = false → ∃ r, VecStep (.vslide t cond f) s t [.v (Body.vd f) r] {}
      ∧ lanesAre w p (Body.zm f) (th.rv (Body.vd f))
        (fun _ => ∃ k, k < e ∧ activeAt p w k ∧ (bad (Body.va f) (k * w / 32) ∨ bad (Body.vb f) (k * w / 32) ∨ pairBad (k + Body.fn f)))
        (fun k => (pairElem (k + Body.fn f), {})) r {})

/-- R145, R151: VEXT copies a sound element to G[RG], zero- or sign-extended, and takes ILL_OPND for a poisoned one; VINS replaces
one element; PAND, POR and PXOR combine predicates, PCNT counts one's bits. Where the manual is silent it is as log 53 says. -/
def VectorScalarsAndPredicates : Prop :=
  ∀ (t : ThreadId) (cond : BitVec 4) (f : BitVec 52) (s : State), Fires s t cond false → Body.psel f = 0 → Body.zm f = false →
    let th := s.thr t.val
    let w := typeWidth (Body.et f)
    (typeOk f → Body.fn f < 256 / w →
      let g := Body.fn f * w / 32
      let x := laneOf w (th.rv (Body.va f)).data (Body.fn f)
      (vaFields f false true false false true true → (th.rv (Body.va f)).poison.getLsbD g = false →
        VecStep (.vext t cond f) s t [.g (Body.rg f) (BitVec.ofInt 64 (toI w (Body.us f) x))] {})
      ∧ (vaFields f false true false false true true → (th.rv (Body.va f)).poison.getLsbD g = true →
        exec (.vext t cond f) s = .next ((s.fetch t.val).2.takeExc t.val { code := 7, xaddr := 0 } th.pos))
      ∧ (vaFields f true false false false true true → Body.us f = false → ∃ r, VecStep (.vins t cond f) s t [.v (Body.vd f) r] {}
        ∧ r.poison = (th.rv (Body.vd f)).poison ∧ ∀ k, k < 256 / w → laneOf w r.data k
          = if k = Body.fn f then (th.rg (Body.rg f)).toNat % 2 ^ (8 * w) else laneOf w (th.rv (Body.vd f)).data k))
    ∧ (Body.et f = 0 → Body.us f = false → Body.va f < 8 →
      (∀ n : Fin 3, vaFields f true true true false false false → Body.vd f < 8 → Body.vb f < 8 →
        let a := th.rp (Body.va f)
        let b := th.rp (Body.vb f)
        VecStep (([Instr.pand, Instr.por, Instr.pxor].getD n.val .pand) t cond f) s t [.p (Body.vd f)
          { bits := if n.val = 0 then a.bits &&& b.bits else if n.val = 1 then a.bits ||| b.bits else a.bits ^^^ b.bits
            poison := a.poison ||| b.poison }] {})
      ∧ (vaFields f false true false false false true → VecStep (.pcnt t cond f) s t
        [.g (Body.rg f) (BitVec.ofNat 64 ((List.range 256).filter (fun i => (th.rp (Body.va f)).bits.getLsbD i)).length)] {}))

/-- R157: a reduction combines the active elements of VA in the fixed binary tree; element 0 takes the result, the others 0. Floating
sums add in FP32 at every node and round once to the type; the flags are those of the operations of the tree, unless the result is
poisoned (log 60). -/
def VectorReductions : Prop :=
  ∀ (t : ThreadId) (cond : BitVec 4) (f : BitVec 52) (s : State), Fires s t cond false → typeOk f → Body.zm f = false →
    vaFields f true true false false false false →
    let th := s.thr t.val
    let et := Body.et f
    let w := typeWidth et
    let e := 256 / w
    let p := th.rp (Body.psel f)
    let lane (k : Nat) := laneOf w (th.rv (Body.va f)).data k
    let on (k : Nat) : Bool := p.bits.getLsbD (k * w)
    let alone (r : VReg) (v : Nat) : Prop := laneOf w r.data 0 = v ∧ ∀ k, 0 < k → k < e → laneOf w r.data k = 0
    let poisoned (r : VReg) : Prop := (r.poison.getLsbD 0 = true ↔ p.poison ≠ 0
        ∨ ∃ k, k < e ∧ on k = true ∧ (th.rv (Body.va f)).poison.getLsbD (k * w / 32) = true)
      ∧ ∀ g, 0 < g → r.poison.getLsbD g = false
    (∃ r fl, VecStep (.vrsum t cond f) s t [.v (Body.vd f) r] fl ∧ poisoned r
      ∧ (et ≤ 3 → fl = {} ∧ alone r (ofI w (((List.range e).map (fun k => if on k then toI w (Body.us f) (lane k) else 0)).sum)))
      ∧ (4 ≤ et →
        let leaf (k : Nat) : Nat × Flg := if on k then
          ((fp32.round .rne ((typeFmt et).decode (lane k))).1, { nv := (typeFmt et).isSNaN (lane k) }) else (0, {})
        let node (x y : Nat × Flg) : Nat × Flg := ((fpLane 0 fp32 x.1 y.1 0).1, (x.2.or y.2).or (fpLane 0 fp32 x.1 y.1 0).2)
        let sum := treeAt node leaf e 8 0
        let last := (typeFmt et).round .rne (fp32.decode sum.1)
        let root := if et = 6 then sum else (last.1, sum.2.or last.2)
        alone r root.1 ∧ fl = if r.poison = 0 then root.2 else {}))
    ∧ ∀ mx : Bool, ∃ r fl, VecStep (if mx then .vrmax t cond f else .vrmin t cond f) s t [.v (Body.vd f) r] fl ∧ poisoned r
      ∧ (et ≤ 3 → fl = {})
      ∧ (4 ≤ et →
        let ext (a b : Nat) : Nat × Flg := fpLane (if mx then 6 else 5) (typeFmt et) a b 0
        let node (x y : Option (Nat × Flg)) : Option (Nat × Flg) := match x, y with
          | none, y => y
          | x, none => x
          | some a, some b => some ((ext a.1 b.1).1, (a.2.or b.2).or (ext a.1 b.1).2)
        let root := treeAt node (fun k => if on k then some (ext (lane k) (lane k)) else none) e 8 0
        fl = if r.poison = 0 then (root.map (·.2)).getD {} else {})
      ∧ alone r ((treeAt (pickBy (extremeOf mx et (Body.us f)))
          (fun k => if on k then some (extremeOf mx et (Body.us f) (lane k) (lane k)) else none) e 8 0).getD
        (extremeNone mx et (Body.us f)))

/-- R145, R155, R159 to R161, R505: VCVT converts element k of the one side to element k of the other, rounding by the mode, saturating to
integers and taking infinities as R505 gives; where the width changes too, a granule of the result is poisoned by the source granules of its
elements, and the flags are those of the elements of sound granules. Where the manual is silent it is as logs 53 and 60 say. -/
def VectorConversion : Prop :=
  ∀ (t : ThreadId) (cond : BitVec 4) (f : BitVec 52) (s : State), Fires s t cond false → typeOk f →
    vaFields f true true false false true true →
    let th := s.thr t.val
    let dst := Body.fn f / 16
    let mode := Body.fn f % 4
    dst ≤ 6 → Body.fn f / 4 % 4 = 0 → mode ≠ 3 → (mode ≠ 2 → Body.rg f = 0) →
    let a := typeWidth (Body.et f)
    let b := typeWidth dst
    let one (k : Nat) := cvtLane (Body.et f) dst (Body.us f) (roundMode mode (th.rg (Body.rg f)) k) (groupElem th a (Body.va f) k)
    (a = b → ∃ r fl, VecStep (.vcvt t cond f) s t [.v (Body.vd f) r] fl
      ∧ lanesAre a (th.rp (Body.psel f)) (Body.zm f) (th.rv (Body.vd f)) (fun g => (th.rv (Body.va f)).poison.getLsbD g = true) one r fl)
    ∧ (a ≠ b → Body.psel f = 0 → spanOk (Body.va f) (max 1 (a / b)) → spanOk (Body.vd f) (max 1 (b / a)) →
      ∃ (l : List VReg) (fl : Flg), l.length = max 1 (b / a)
        ∧ VecStep (.vcvt t cond f) s t (l.mapIdx (fun i r => .v (Body.vd f + i) r)) fl
        ∧ (∀ k, k < max (256 / a) (256 / b) → laneOf b (l.getD (k / (256 / b)) {}).data (k % (256 / b)) = (one k).1)
        ∧ (∀ i g, i < max 1 (b / a) → g < 8 → ((l.getD i {}).poison.getLsbD g = true
          ↔ ∃ j, j < 256 / b ∧ j * b / 32 = g ∧ groupPoison th a (Body.va f) (i * (256 / b) + j) = true))
        ∧ flagsAre (max (256 / a) (256 / b)) (fun k => (l.getD (k / (256 / b)) {}).poison.getLsbD (k % (256 / b) * b / 32) = false)
          (fun k => (one k).2) fl)

/-- R162 to R166: VQMX forms eight MX blocks with their scale bytes, VDQMX forms the values again, VBLKZ marks the blocks of zeros. -/
def VectorBlocks : Prop :=
  ∀ (t : ThreadId) (cond : BitVec 4) (f : BitVec 52) (s : State), Fires s t cond false → Body.psel f = 0 → Body.zm f = false →
    Body.us f = false →
    let th := s.thr t.val
    let et := Body.et f
    let mx := Body.fn f / 32
    let b := if mx = 0 then 4 else if mx ≤ 2 then 6 else 8
    let n := groupSpan et
    let fm := typeFmt et
    (vaFields f true true true false true true → (et = 5 ∨ et = 6) → mx ≤ 5 → Body.fn f / 4 % 8 = 0 → Body.fn f % 4 ≠ 3 →
      (Body.fn f % 4 ≠ 2 → Body.rg f = 0) → spanOk (Body.va f) n →
      ∃ (r : VReg) (g : Word) (fl : Flg), VecStep (.vqmx t cond f) s t [.v (Body.vd f) r, .g (Body.vb f) g] fl
        ∧ (∀ i, 256 * b ≤ i → r.data.getLsbD i = false)
        ∧ ∀ j, j < 8 →
          let x (i : Nat) : FV := fm.decode (groupElem th (typeWidth et) (Body.va f) (32 * j + i))
          let code (i : Nat) : Nat := fld r.data (b * (32 * j + i) + b - 1) (b * (32 * j + i))
          let scale := fld g (8 * j + 7) (8 * j)
          ((∃ i, i < 32 ∧ ((x i).isNaN = true ∨ (x i).isInf = true)) → scale = 0xFF ∧ ∀ i, i < 32 → code i = 0)
          ∧ ((∀ i, i < 32 → (x i).isNaN = false ∧ (x i).isInf = false) → ∃ e : Int, scale = (e + 127).toNat
            ∧ ((∀ i, i < 32 → (x i).isZero = true) → e = -127)
            ∧ (∀ top : Int, (∃ i, i < 32 ∧ ∃ s m q, x i = .fin s m q ∧ m ≠ 0 ∧ top = Nat.log2 m + q) →
              (∀ i, i < 32 → ∀ s m q, x i = .fin s m q → m ≠ 0 → (Nat.log2 m : Int) + q ≤ top) →
              e = max (-127) (min 127 (top - (mxOf mx).emax)))
            ∧ ∀ i, i < 32 → ∀ s m q, x i = .fin s m q →
              code i = (mxEncode mx (roundMode (Body.fn f % 4) (th.rg (Body.rg f)) (32 * j + i)) s m (q - e)).1))
    ∧ (vaFields f true true false false true true → (et = 5 ∨ et = 6) → mx ≤ 5 → Body.fn f % 32 = 0 → spanOk (Body.vd f) n →
      ∃ (l : List VReg) (fl : Flg), l.length = n ∧ VecStep (.vdqmx t cond f) s t (l.mapIdx (fun i r => .v (Body.vd f + i) r)) fl
        ∧ ∀ i, i < 256 →
          let w := typeWidth et
          let sc := fld (th.rg (Body.rg f)) (8 * (i / 32) + 7) (8 * (i / 32))
          laneOf w (l.getD (i / (256 / w)) {}).data (i % (256 / w))
            = if sc = 0xFF then fm.qnan
              else match mxDecode mx (fld (th.rv (Body.va f)).data (b * i + b - 1) (b * i)) with
                | .fin s m q => (fm.round .rne (.fin s m (q + (sc : Int) - 127))).1
                | v => (fm.round .rne v).1)
    ∧ (vaFields f false true false false false true → (et = 0 ∨ (4 ≤ et ∧ et ≤ 6)) → spanOk (Body.va f) n →
      ∃ g : Word, VecStep (.vblkz t cond f) s t [.g (Body.rg f) g] {} ∧ g.toNat < 256
        ∧ ∀ j, j < 8 → (g.getLsbD j = true ↔ ∀ i, i < 32 →
          let x := groupElem th (typeWidth et) (Body.va f) (32 * j + i)
          if et = 0 then x = 0 else (fm.decode x).isZero = true))

/-- R145, R149, R151, R153, R167, R169, R170: VLD and VLDn from sound memory of this module fill each register's active elements with
the elements at G[RG] + OFF, fields interleaved; VGATH takes each element at its index; PLD fills a predicate. Misaligned
addresses take ALIGN with the access's address G[RG] + OFF and load nothing. -/
def VectorLoads : Prop :=
  ∀ (t : ThreadId) (cond : BitVec 4) (f : BitVec 52) (s : State), Fires s t cond false → Body.resVM f = 0 → Body.et f ≠ 7 →
    let th := s.thr t.val
    let w := typeWidth (Body.et f)
    let s1 := (s.fetch t.val).2
    (∀ n, 1 ≤ n → n ≤ 4 → Body.vb f = 0 → Body.ix f = false → Body.vd f + n ≤ 32 →
      (∀ l s2, s1.vcheck t.val w false (linAccs f th n w) = .ok (l, s2) → (∀ x ∈ l, VSound s2 x) →
        ∃ r : List VReg, r.length = n ∧ VLoads (ldBy n t cond f) s t (r.mapIdx (fun i x => .v (Body.vd f + i) x))
          ∧ ∀ i, i < n → LoadedReg s l f th w (Body.vd f + i) (r.getD i {}))
      ∧ (∀ k, k < 256 / w → activeAt (th.rp (Body.psel f)) w k → (∀ j, j < k → ¬ activeAt (th.rp (Body.psel f)) w j) →
        (vmBase f th).toNat % w ≠ 0 → exec (ldBy n t cond f) s
          = .next (s1.takeExc t.val { code := 8, xaddr := vmBase f th } th.pos)))
    ∧ (spanOk (Body.vb f) (max 1 (256 / w * (if Body.ix f then 8 else 4) / 256)) → IndexSound f th w →
      ∀ l s2, s1.vcheck t.val w false (idxAccs f th w) = .ok (l, s2) → (∀ x ∈ l, VSound s2 x) →
        ∃ r : VReg, VLoads (.vgath t cond f) s t [.v (Body.vd f) r] ∧ LoadedReg s l f th w (Body.vd f) r)
    ∧ (Body.vb f = 0 → Body.zm f = false → Body.ix f = false → Body.et f = 0 → Body.psel f = 0 → Body.vd f < 8 →
      ∀ l s2, s1.vcheck t.val 1 false (predAccs f th) = .ok (l, s2) → (∀ x ∈ l, VSound s2 x) →
        ∃ r : PReg, VLoads (.pld t cond f) s t [.p (Body.vd f) r] ∧ r.poison = 0
          ∧ ∀ x ∈ l, r.bits.extractLsb' (8 * x.a.byte) 8 = s.byte (localOf x.pa))

/-- R151, R167, R169, R170: VST and VSTn store the active elements, fields interleaved, VSCAT stores each at its index, PST stores a
predicate's 32 bytes; no other byte of memory changes. Misaligned addresses take ALIGN with the access's address. -/
def VectorStores : Prop :=
  ∀ (t : ThreadId) (cond : BitVec 4) (f : BitVec 52) (s : State), Fires s t cond false → Body.resVM f = 0 → Body.et f ≠ 7 →
    Body.zm f = false →
    let th := s.thr t.val
    let w := typeWidth (Body.et f)
    let s1 := (s.fetch t.val).2
    let vbyte (r b : Nat) : Byte := (th.rv r).data.extractLsb' (8 * b) 8
    (∀ n, 1 ≤ n → n ≤ 4 → Body.vb f = 0 → Body.ix f = false → Body.vd f + n ≤ 32 →
      (∀ l s2, s1.vcheck t.val w true (linAccs f th n w) = .ok (l, s2) → (∀ x ∈ l, VSound s2 x) → VStores (stBy n t cond f) s t l w vbyte)
      ∧ (∀ k, k < 256 / w → activeAt (th.rp (Body.psel f)) w k → (∀ j, j < k → ¬ activeAt (th.rp (Body.psel f)) w j) →
        (vmBase f th).toNat % w ≠ 0 → exec (stBy n t cond f) s
          = .next (s1.takeExc t.val { code := 8, xaddr := vmBase f th } th.pos)))
    ∧ (spanOk (Body.vb f) (max 1 (256 / w * (if Body.ix f then 8 else 4) / 256)) → IndexSound f th w →
      ∀ l s2, s1.vcheck t.val w true (idxAccs f th w) = .ok (l, s2) → (∀ x ∈ l, VSound s2 x) → VStores (.vscat t cond f) s t l w vbyte)
    ∧ (Body.vb f = 0 → Body.ix f = false → Body.et f = 0 → Body.psel f = 0 → Body.vd f < 8 →
      ∀ l s2, s1.vcheck t.val 1 true (predAccs f th) = .ok (l, s2) → (∀ x ∈ l, VSound s2 x) →
        VStores (.pst t cond f) s t l 1 (fun _ b => (th.rp (Body.vd f)).bits.extractLsb' (8 * b) 8))

/-- TLOAD and TSTORE (R186 to R191): one step moves the next active rows of one 512-byte near-store row between the core's own near
store and the tile, and nothing else; after the last step the instruction retires with TSR 0, before it TSR names the next row. -/
def TileMoves : Prop :=
  ∀ (t : ThreadId) (cond : BitVec 4) (f : BitVec 52) (s : State), Fires s t cond false → Body.resTM f = 0 → ∀ load : Bool,
    let th := s.thr t.val
    let c := coreOf t.val
    let i := if load then Instr.tload t cond f else Instr.tstore t cond f
    let rs := stepRows f th (Body.activeRows f th th.sr.tsr.toNat)
    let at_ (a r0 r : Nat) : Nat := a + (r - r0) * Body.stride f th
    (∀ r0 l a leaf s2, rs = r0 :: l → MoveReady s t f load →
      (s.fetch t.val).2.ownNear t.val (if load then .read else .write) (Body.rowAddr f th r0) = (.ok (a, leaf), s2) →
      ∃ s', exec i s = .next s' ∧ (∀ u, u ≠ t.val → s'.thr u = s.thr u) ∧ s'.sem = s.sem
        ∧ (let last := (r0 :: l).getLastD r0
          (Body.activeRows f th (last + 1) = [] → s'.thr t.val = ({ th with sr := { th.sr with tsr := 0 } } : Thread).retire)
          ∧ (Body.activeRows f th (last + 1) ≠ [] → (s'.thr t.val).sr.tsr = BitVec.ofNat 5 (last + 1) ∧ (s'.thr t.val).strBusy = true
            ∧ (s'.thr t.val).pc = th.pc ∧ (s'.thr t.val).st = th.st))
        ∧ (load = true → MemOutside s s' 0 0 ∧ ∃ m ∈ (s'.core c).moves, m.tile = Body.tt f ∧ m.thread = t.val
          ∧ ∀ r ∈ rs, ∃ row, (r, row) ∈ m.rows ∧ ∀ j, j < 128 → rowByte row j = s.byte (at_ a r0 r + j))
        ∧ (load = false → 0 < Body.stride f th → Body.stride f th % 128 = 0 →
          (∀ r ∈ rs, ∀ j, j < 128 → s'.byte (at_ a r0 r + j) = rowByte ((s.tile c (Body.tt f)).row r) j)
          ∧ ∀ b, (∀ r ∈ rs, b < at_ a r0 r ∨ at_ a r0 r + 128 ≤ b) → s'.byte b = s.byte b))
    ∧ (th.strBusy = false → s.owns t.val (Body.tt f) = false → s.movePort t.val ≠ none → th.sr.tsr.toNat ≤ Body.nr f →
      (Body.rowBase f th).toNat % 128 = 0 → Body.stride f th % 128 = 0 → rs = [] →
      exec i s = .next ((s.fetch t.val).2.takeExc t.val { code := 12, xaddr := 0 } th.pos))

/-- What completes without its thread (R177, R189, R193, R202): the rows of a move land and the tile is READY; a bank of EMPTY tiles is
gated and a named bank wakes. -/
def TileCompletions : Prop :=
  (∀ (c : CoreId) (j : Fin 32) (s : State) (l r : List Move) (m : Move), (s.core c.val).moves = l ++ m :: r → m ∉ l ++ r →
    m.tile = j.val → m.open_ = false → (∀ x ∈ l, x.tile ≠ j.val ∨ x.open_ = true) → m.rows.Pairwise (fun x y => x.1 ≠ y.1) →
    ∃ s', exec (.tileMoveCompletes c j) s = .next s' ∧ s'.threads = s.threads ∧ MemOutside s s' 0 0 ∧ (s'.core c.val).moves = l ++ r
      ∧ s'.tileSt c.val j.val = 2
      ∧ (∀ p ∈ m.rows, (s'.tile c.val j.val).row p.1 = p.2)
      ∧ (∀ i, (∀ p ∈ m.rows, p.1 ≠ i) → (s'.tile c.val j.val).row i = (s.tile c.val j.val).row i)
      ∧ ∀ k, k ≠ j.val → s'.tile c.val k = s.tile c.val k)
  ∧ ∀ (c : CoreId) (b : Fin 4) (s : State), let k := s.core c.val
    (k.gate = true → k.bankOn.getLsbD b.val = true → BankIdle s c.val b.val →
      exec (.bankGate c b) s = .next (s.setCore c.val { k with
        bankOn := k.bankOn &&& ~~~(BitVec.ofNat 4 (2 ^ b.val)), bankWake := k.bankWake &&& ~~~(BitVec.ofNat 4 (2 ^ b.val)) }))
    ∧ (k.gate = false ∨ ¬ BankIdle s c.val b.val → exec (.bankGate c b) s = .next s)
    ∧ (k.bankWake.getLsbD b.val = true → exec (.bankWake c b) s = .next (s.setCore c.val { k with
        bankOn := k.bankOn ||| BitVec.ofNat 4 (2 ^ b.val), bankWake := k.bankWake &&& ~~~(BitVec.ofNat 4 (2 ^ b.val)) }))

/-- TZERO, TREL, VTRD and VTWR (R171, R183, R193) of an owned tile: TZERO's tile loads zeros, TREL empties the tile and ends its
lending, VTRD delivers two rows as a vector register, VTWR begins to write two rows, both under the governing predicate (R149).
A tile of another thread takes TILE_OWNER. Where the manual is silent it is as log 60 says. -/
def TileZeroReleaseRows : Prop :=
  ∀ (t : ThreadId) (cond : BitVec 4) (f : BitVec 52) (s : State), Fires s t cond false →
    let th := s.thr t.val
    let c := coreOf t.val
    let w := typeWidth (Body.et f)
    (Body.psel f = 0 → fld f 43 0 = 0 → let j := Body.tt f
      (s.owns t.val j = true → s.settled c j = true →
        (s.bankOn c j = true → ∃ s', exec (.tzero t cond f) s = .next s' ∧ s'.thr t.val = th.retire ∧ TileOnly s s' t.val
          ∧ (s'.tile c j).rows = [] ∧ s'.tileSt c j = 1 ∧ (∀ k, k ≠ j → s'.tile c k = s.tile c k)
          ∧ (s'.core c).moves = (s.core c).moves ++ [{ tile := j, thread := t.val, port := none, kind := 2 }])
        ∧ ∃ s', exec (.trel t cond f) s = .next s' ∧ s'.thr t.val = th.retire ∧ TileOnly s s' t.val
          ∧ s'.tileSt c j = 0 ∧ atLent (s'.tile c j).attr = false ∧ (s'.tile c j).rows = []
          ∧ atOwner (s'.tile c j).attr = atOwner (s.tile c j).attr ∧ ∀ k, k ≠ j → s'.tile c k = s.tile c k)
      ∧ (s.owns t.val j = false → ∀ n : Fin 2, exec (([Instr.tzero, Instr.trel].getD n.val .tzero) t cond f) s
        = .next ((s.fetch t.val).2.takeExc t.val { code := 12, xaddr := 0 } th.pos)))
    ∧ (Body.fn f < 32 → Body.fn f % 2 = 0 → Body.et f ≠ 7 → Body.us f = false → Body.rg f = 0 → Body.vb f = 0 → Body.resA f = 0 →
      (Body.vc f = 0 → s.owns t.val (Body.va f) = true → s.tileSt c (Body.va f) = 2 →
        let x := rowPair (s.tile c (Body.va f)) (Body.fn f)
        ∃ v s', lanesAre w (th.rp (Body.psel f)) (Body.zm f) (th.rv (Body.vd f)) (fun g => x.poison.getLsbD g = true)
            (fun k => (laneOf w x.data k, {})) v {} ∧ exec (.vtrd t cond f) s = .next s' ∧ TileOnly s s' t.val ∧ s'.tileSt c (Body.va f) = 3
          ∧ s'.thr t.val = ({ th with pend := th.pend ++
            [{ left := 3, src := .unit, writes := [.v (Body.vd f) v], pos := th.pos }] } : Thread).retire
          ∧ (s'.tile c (Body.va f)).rows = (s.tile c (Body.va f)).rows)
      ∧ (Body.va f = 0 → s.owns t.val (Body.vc f) = true → s.bankOn c (Body.vc f) = true → s.tileSt c (Body.vc f) = 2 →
        let x := th.rv (Body.vd f)
        ∃ v s', lanesAre w (th.rp (Body.psel f)) (Body.zm f) (rowPair (s.tile c (Body.vc f)) (Body.fn f))
            (fun g => x.poison.getLsbD g = true) (fun k => (laneOf w x.data k, {})) v {} ∧ exec (.vtwr t cond f) s = .next s' ∧ s'.thr t.val = th.retire ∧ TileOnly s s' t.val ∧ s'.tileSt c (Body.vc f) = 1
          ∧ (s'.core c).moves = (s.core c).moves ++ [{ tile := Body.vc f, thread := t.val, port := none, kind := 3, rows := [(Body.fn f, { data := v.data.extractLsb' 0 1024, poison := v.poison.extractLsb' 0 4 }),
              (Body.fn f + 1, { data := v.data.extractLsb' 1024 1024, poison := v.poison.extractLsb' 4 4 })] }]))

/-- TCFG (R181, R182, Table TIL-4): action 0 reads the attribute word or an accumulator's owner, action 1 writes SIDE, SROW, ZB, SP24,
FMT and LENT, action 2 the owner of a tile (no longer lent) or of an accumulator, action 3 both.
Where the manual is silent it is as log 60 says. -/
def TileConfiguration : Prop :=
  ∀ (t : ThreadId) (cond : BitVec 4) (f : BitVec 52) (s : State), Fires s t cond false → Body.psel f = 0 → fld f 35 0 = 0 →
    let th := s.thr t.val
    let c := coreOf t.val
    let g := th.rg (Body.rgT f)
    let j := Body.tt f
    let mine := stPriv th.sr.st ≠ 0 ∨ (if Body.ac f then (s.acc c j).owner else atOwner (s.tile c j).attr) = t.val % 16
    let fits := (atOwner g < 16 ∨ atOwner g = 31) ∧ s.alien t.val (atOwner g) = false
      ∧ s.alien t.val (if Body.ac f then (s.acc c j).owner else atOwner (s.tile c j).attr) = false
    let tileBecomes (i : Instr) (a : Word) : Prop := ∃ s', exec i s = .next s' ∧ s'.thr t.val = th.retire ∧ TileOnly s s' t.val
      ∧ s'.tile c j = { s.tile c j with attr := a } ∧ ∀ k, k ≠ j → s'.tile c k = s.tile c k
    let a := (s.tile c j).attr
    (mine → Body.fldT f = 0 → (Body.ac f = true → j < 4) → (Body.ac f = false → s.bankOn c j = true) →
      ThreadStep (.tcfgRead t cond f) s t (fun th => { th with pend := th.pend ++
        [{ left := 3, src := .ready, writes := [.g (Body.rgT f) (if Body.ac f then BitVec.ofNat 64 (s.acc c j).owner else a)], pos := th.pos }] }))
    ∧ (Body.ac f = false → s.bankOn c j = true →
      (mine → Body.fldT f = 1 → attrFits g → (s.settled c j = true ∨ ¬ (atLent a = true ∧ atLent g = false)) →
        tileBecomes (.tcfgAttr t cond f) ((a &&& ~~~0xFFFF0100#64) ||| (g &&& 0xFFFF0100#64)))
      ∧ (stPriv th.sr.st ≠ 0 → fits → s.settled c j = true →
        (Body.fldT f = 2 → tileBecomes (.tcfgOwner t cond f) ((a &&& ~~~0x11F#64) ||| (g &&& 0x1F#64)))
        ∧ (Body.fldT f = 3 → attrFits g → tileBecomes (.tcfgOwnerAttr t cond f) ((a &&& ~~~0xFFFF011F#64) ||| (g &&& 0xFFFF001F#64)))))
    ∧ (Body.fldT f = 2 → Body.ac f = true → j < 4 → stPriv th.sr.st ≠ 0 → fits → s.accBusy c j = false →
      ∃ s', exec (.tcfgOwner t cond f) s = .next s' ∧ s'.thr t.val = th.retire ∧ TileOnly s s' t.val
        ∧ s'.acc c j = { s.acc c j with owner := atOwner g } ∧ ∀ k, k ≠ j → s'.acc c k = s.acc c k)
    ∧ (stPriv th.sr.st = 0 → (Body.ac f = true → j < 4) → ∀ n : Fin 2, Body.fldT f = n.val + 2 →
      exec (([Instr.tcfgOwner, Instr.tcfgOwnerAttr].getD n.val .tcfgOwner) t cond f) s
        = .next ((s.fetch t.val).2.takeExc t.val { code := 4, xaddr := 0 } th.pos))

/-- TMMA, TLDACC, TDRAIN and TEW (R177, R182, R205 to R215, R231, R233): the operation, with the attributes its tiles have now, waits in the
array of its accumulator and the thread goes on; until its tiles are in state the thread holds TILE, whatever 07_tile_registers.md says of a
TMMA that may issue before a delivery (log 61); an accumulator or tile of another thread takes TILE_OWNER, a pair of formats
that Table ARR-2 lacks ILL_OPND. -/
def ArrayIssue : Prop :=
  ∀ (t : ThreadId) (cond : BitVec 4) (f : BitVec 52) (s : State), Fires s t cond false → fld f 32 0 = 0 →
    let c := coreOf t.val
    let mode := fld f 36 34
    let clr := f.getLsbD 33
    let acc := fld f 38 37
    let at_ (j : Nat) : Word := (s.tile c j).attr
    let tiles := tmmaTiles mode (Body.tt f) (fld f 43 39) ++ tmmaSides at_ mode (Body.tt f) (fld f 43 39)
    let exc (i : Instr) (code : Nat) : Prop := exec i s
      = .next ((s.fetch t.val).2.takeExc t.val { code := code, xaddr := 0 } (s.thr t.val).pos)
    (s.arr c (acc / 2)).waiting = none →
    (mode < 4 →
      (tmmaBad at_ mode (Body.tt f) (fld f 43 39) = false → (s.acc c acc).owner = t.val % 16 → (∀ j ∈ tiles, s.owns t.val j = true) →
        ArrFires (.tmma t cond f) s t (opOf s t f (.tmma mode clr)))
      ∧ (pairG mode (atFmt (at_ (Body.tt f))) (atFmt (at_ (fld f 43 39))) = 0 → exc (.tmma t cond f) 7)
      ∧ (tmmaBad at_ mode (Body.tt f) (fld f 43 39) = false → (s.acc c acc).owner ≠ t.val % 16 → exc (.tmma t cond f) 12))
    ∧ (Body.psel f = 0 → fld f 43 39 = 0 → mode = 0 → clr = false →
      ((s.acc c acc).owner = t.val % 16 → s.owns t.val (Body.tt f) = true → ArrFires (.tldacc t cond f) s t (opOf s t f .tldacc)
        ∧ ArrFires (.tdrain t cond f) s t (opOf s t f .tdrain))
      ∧ ((s.acc c acc).owner ≠ t.val % 16 ∨ s.owns t.val (Body.tt f) = false → exc (.tldacc t cond f) 12 ∧ exc (.tdrain t cond f) 12))
    ∧ (fld f 43 39 = 0 → clr = false → ∀ n : Fin 4, mode = n.val → let i := ([Instr.tewAdd, Instr.tewMul, Instr.tewMax, Instr.tewScale].getD n.val .tewAdd) t cond f
      (atFmt (at_ (Body.tt f)) = 8 → (s.acc c acc).owner = t.val % 16 → s.owns t.val (Body.tt f) = true →
        ArrFires i s t (opOf s t f (.tew n.val)))
      ∧ (atFmt (at_ (Body.tt f)) ≠ 8 → exc i 7))

/-- ARRAY_OPERATION_BEGINS (R205, R216, R219 to R222, R228, R231, R233): with its tiles in state and no reuse latch in play, the waiting
operation becomes busy, its source tiles IN-USE and TDRAIN's tile DRAINING. TLDACC will write the tile's rows, TDRAIN the
accumulator's, TEW its operation word by word on active rows, a dense TMMA the group sums added in ascending K order. -/
def ArrayBegins : Prop :=
  ∀ (c : CoreId) (a : Fin 2) (s : State) (o : ArrOp), (s.arr c.val a.val).busy = none → (s.arr c.val a.val).waiting = some o →
    s.arrReady c.val a.val o = true → (s.core c.val).latch = false →
    let old := (s.acc c.val o.acc).rows
    let x := s.tile c.val o.ta
    ∃ s' o', exec (.arrayOperationBegins c a []) s = .next s' ∧ s'.threads = s.threads ∧ MemOutside s s' 0 0
      ∧ (s'.arr c.val a.val).waiting = none ∧ (s'.arr c.val a.val).busy = some o' ∧ o'.acc = o.acc ∧ o'.thread = o.thread ∧ o'.kind = o.kind
      ∧ (o.kind ≠ .tdrain → ∀ k, s'.acc c.val k = s.acc c.val k)
      ∧ (∀ k m, kget {} (s'.acc c.val k).rows m = kget {} (s.acc c.val k).rows m)
      ∧ (o.kind = .tdrain → s'.tileSt c.val o.ta = 4) ∧ (o.kind ≠ .tdrain → s'.tileSt c.val o.ta = 3)
      ∧ (o.kind = .tldacc → o'.result = x.rows)
      ∧ (o.kind = .tdrain → ∀ m, m < 32 → kget {} o'.result m = kget {} old m)
      ∧ (∀ n, o.kind = .tew n → ∀ m j, m < 32 → j < 32 → wordAt o'.result m j =
          if o.rows.getLsbD m then tewWord n (wordAt old m j) (wordAt x.rows m j) (wordAt x.rows m 0) else wordAt old m j)
      ∧ ∀ mode clr, DenseTmma o mode clr → ∀ m n, m < 32 → n < 32 → wordAt o'.result m n =
          if o.rows.getLsbD m then
            (List.range 16).foldl (groupStep mode o.attrA o.attrB x (s.tile c.val (atSide o.attrA)) (s.tile c.val o.tb)
              (s.tile c.val (atSide o.attrB)) m n) (if clr then 0 else wordAt old m n)
          else wordAt old m n

/-- How an array operation ends (R204, R224, R227 to R229, R231). At a cycle of the die's CCLK past its last step its accumulator holds
its words, its source tiles are READY and the array is free for the next, while it still waits for its completion.
ARRAY_OPERATION_COMPLETES completes the oldest one: the destination rows of a TDRAIN are written, the tiles that it still
holds are READY, and NV and OF of the result are set for the issuing thread in THR_AFLAGS. -/
def ArrayCompletes : Prop :=
  (∀ (c a : Nat) (s : State) (o : ArrOp), (s.arr c a).busy = some o → o.dur ≤ (s.count (dieOf c) - o.begun).toNat →
    let s' := s.arrTick c a
    (s'.arr c a).busy = none ∧ (s'.arr c a).waiting = (s.arr c a).waiting
      ∧ (∃ x, (s'.arr c a).tail = (s.arr c a).tail ++ [x] ∧ x.thread = o.thread ∧ x.kind = o.kind ∧ x.result = o.result)
      ∧ (o.kind ≠ .tdrain → (s'.acc c o.acc).rows = o.result ∧ (s'.acc c o.acc).owner = (s.acc c o.acc).owner)
      ∧ (∀ j ∈ o.holds, ¬ (o.kind = .tdrain ∧ j = o.ta) → s'.tileSt c j = 2)
      ∧ (∀ j, j ∉ o.holds ∨ (o.kind = .tdrain ∧ j = o.ta) → s'.tileSt c j = s.tileSt c j))
  ∧ ∀ (c : CoreId) (a : Fin 2) (s : State) (o : ArrOp) (rest : List ArrOp),
    let x := s.arr c.val a.val
    (x.tail = o :: rest ∨ (x.tail = [] ∧ rest = [] ∧ x.busy = some o)) →
    let held (j : Nat) : Prop := j ∈ o.holds ∨ (x.tail = [] ∧ o.kind = .tdrain ∧ j = o.ta)
    ∃ s', exec (.arrayOperationCompletes c a) s = .next s' ∧ MemOutside s s' 0 0 ∧ (s'.arr c.val a.val).tail = rest
      ∧ (s'.arr c.val a.val).busy = (if x.tail = [] then none else x.busy)
      ∧ (s'.arr c.val a.val).waiting = x.waiting
      ∧ (∀ j, held j → s'.tileSt c.val j = 2) ∧ (∀ j, ¬ held j → s'.tileSt c.val j = s.tileSt c.val j)
      ∧ (o.kind ≠ .tdrain → x.tail = [] → (s'.acc c.val o.acc).rows = o.result ∧ (s'.acc c.val o.acc).owner = (s.acc c.val o.acc).owner)
      ∧ (o.kind ≠ .tdrain → ∀ j, (s'.tile c.val j).rows = (s.tile c.val j).rows)
      ∧ (o.kind = .tdrain ∨ x.tail ≠ [] → ∀ k, s'.acc c.val k = s.acc c.val k)
      ∧ (o.kind = .tdrain → (∀ m, m < 32 → (s'.tile c.val o.ta).row m = kget {} o.result m)
        ∧ (∀ j, j ≠ o.ta → (s'.tile c.val j).rows = (s.tile c.val j).rows))
      ∧ (∀ k, k ≠ o.acc → s'.acc c.val k = s.acc c.val k)
      ∧ (∀ u, u ≠ o.thread → s'.thr u = s.thr u)
      ∧ (o.nv = false → o.ofl = false → s'.thr o.thread = s.thr o.thread)
      ∧ (s'.thr o.thread).aflags = (s.thr o.thread).aflags ||| BitVec.ofNat 7 ((if o.nv then 32 else 0) + (if o.ofl then 64 else 0))

/-- CSAVE (R75, R76, R146, Table CORE-6): once the target's tiles have settled, the area holds the target's registers, attribute words,
tiles and accumulators at the offsets of the table, and nothing else changes but the issuer's retirement.
Where the manual is silent it is as log 28 says. -/
def CoreSaves : Prop :=
  ∀ (t : ThreadId) (cond : BitVec 4) (f : BitVec 52) (s : State) (u : Nat), Fires s t cond false → SaveAllowed s t f u →
    let c := coreOf u
    let tiles := savedTileList s u
    let accs := savedAccList s u
    let n := 36 + 16 * (tiles.length + accs.length)
    ∀ l s2 lines, (s.fetch t.val).2.areaXlat t.val .write ((s.thr t.val).rg (Body.rb f)) n = (l, s2) → areaLines l = .ok lines →
      LinesApart lines → lines.length = n → (∀ j, j < 32 → atOwner (s.tile c j).attr = u % 16 → s.settled c j = true) →
      (∀ a ∈ accs, s.accBusy c a = false) →
      ∃ s', exec (.csave t cond f) s = .next s' ∧ s'.thr t.val = (s.thr t.val).retire ∧ (∀ x, x ≠ t.val → s'.thr x = s.thr x)
        ∧ s'.sem = s.sem ∧ (∀ j, s'.tile c j = s.tile c j) ∧ (∀ a, s'.acc c a = s.acc c a)
        ∧ (∀ b, (∀ x ∈ lines, b < x.1 ∨ x.1 + 256 ≤ b) → s'.byte b = s.byte b)
        ∧ (let w (o : Nat) := numAt s' (areaAt lines o) 8
          w 0 = 1 + u % 16 * 2 ^ 16 + (s.thr u).pass.code * 2 ^ 20 ∧ w 16 = 256 * n
          ∧ (∀ j, j < 32 → (w 8 / 2 ^ j % 2 = 1 ↔ j ∈ tiles)) ∧ (∀ a, a < 4 → (w 8 / 2 ^ (32 + a) % 2 = 1 ↔ a ∈ accs))
          ∧ (∀ r, r < 32 → w (0x40 + 8 * r) = ((s.thr u).rg r).toNat) ∧ w 0x140 = (s.thr u).pc.toNat
          ∧ (∀ k, k < 20 → w (0x148 + 8 * k) = ((s.thr u).readSr u k).toNat)
          ∧ (∀ j, j < 32 → w (0x2300 + 8 * j) = (s.tile c j).attr.toNat)
          ∧ (∀ p b, p < 8 → b < 32 → s'.byte (areaAt lines (0x200 + 32 * p + b)) = ((s.thr u).rp p).bits.extractLsb' (8 * b) 8)
          ∧ (∀ v b, v < 32 → b < 256 → s'.byte (areaAt lines (0x300 + 256 * v + b)) = ((s.thr u).rv v).data.extractLsb' (8 * b) 8)
          ∧ (∀ k r b, k < tiles.length → r < 32 → b < 128 →
            s'.byte (areaAt lines (0x2400 + 4096 * k + 128 * r + b)) = rowByte ((s.tile c (tiles.getD k 0)).row r) b)
          ∧ ∀ k r b, k < accs.length → r < 32 → b < 128 →
            s'.byte (areaAt lines (0x2400 + 4096 * (tiles.length + k) + 128 * r + b)) = rowByte (kget {} (s.acc c (accs.getD k 0)).rows r) b)

/-- CLOAD (R75, R77, R130, R146): from a sound area whose format word is 1 and whose tiles and accumulators are EMPTY or owned by the
target, the target's registers and the named tiles and accumulators take the area's contents; the target stays HALTED with its pass
tag and arithmetic flags, memory and every other thread but the retiring issuer stay. Where the manual is silent it is as log 28 says. -/
def CoreLoads : Prop :=
  ∀ (t : ThreadId) (cond : BitVec 4) (f : BitVec 52) (s : State) (u : Nat), Fires s t cond false → SaveAllowed s t f u →
    let c := coreOf u
    let va := (s.thr t.val).rg (Body.rb f)
    ∀ (l0 l1 base lines : List _) (s2 s3 : State) (map : Nat), (s.fetch t.val).2.areaXlat t.val .read va 36 = (l0, s2) →
      areaLines l0 = .ok base → map = numAt s (areaAt base 8) 8 →
      let tiles := (List.range 32).filter (fun j => decide (map / 2 ^ j % 2 = 1))
      let accs := (List.range 4).filter (fun a => decide (map / 2 ^ (32 + a) % 2 = 1))
      let n := 36 + 16 * (tiles.length + accs.length)
      s2.areaXlat t.val .read va n = (l1, s3) → areaLines l1 = .ok lines → numAt s (areaAt base 0) 2 = 1 →
      (∀ x ∈ base ++ lines, x.1 % 256 = 0 ∧ ∀ i, i < 8 → s2.bad (x.1 / 32 + i) (leafTag x.2) = false
        ∧ s3.bad (x.1 / 32 + i) (leafTag x.2) = false) →
      (∀ j ∈ tiles, s.bankOn c j = true ∧ (s.tileSt c j = 0 ∨ atOwner (s.tile c j).attr = u % 16 ∧ s.settled c j = true)) →
      (∀ a ∈ accs, (s.acc c a).owner = u % 16 ∧ s.accBusy c a = false) →
      ∃ s', exec (.cload t cond f) s = .next s' ∧ s'.thr t.val = (s.thr t.val).retire
        ∧ (∀ x, x ≠ t.val → x ≠ u → s'.thr x = s.thr x) ∧ MemOutside s s' 0 0 ∧ s'.sem = s.sem
        ∧ (let w (o : Nat) : Word := BitVec.ofNat 64 (numAt s (areaAt lines o) 8)
          let r := s'.thr u
          r.st = .halted ∧ r.pass = (s.thr u).pass ∧ r.aflags = (s.thr u).aflags ∧ r.atrap = (s.thr u).atrap ∧ r.pend = []
          ∧ (∀ g, 0 < g → g < 32 → r.rg g = w (0x40 + 8 * g)) ∧ r.pc = w 0x140 &&& ~~~7#64 ∧ r.sr.st = w 0x148 &&& 0xDA1F#64
          ∧ (∀ k, 0 < k → k < 20 → r.readSr u k = w (0x148 + 8 * k) &&& loadMask k)
          ∧ (∀ p b, 0 < p → p < 8 → b < 32 → (r.rp p).bits.extractLsb' (8 * b) 8 = s.byte (areaAt lines (0x200 + 32 * p + b)))
          ∧ (∀ v b, v < 32 → b < 256 → (r.rv v).data.extractLsb' (8 * b) 8 = s.byte (areaAt lines (0x300 + 256 * v + b))))
        ∧ (∀ k r b, k < tiles.length → r < 32 → b < 128 →
          rowByte ((s'.tile c (tiles.getD k 0)).row r) b = s.byte (areaAt lines (0x2400 + 4096 * k + 128 * r + b)))
        ∧ (∀ j ∈ tiles, s'.tileSt c j = 2 ∧ atOwner (s'.tile c j).attr = u % 16) ∧ (∀ j, j ∉ tiles → s'.tile c j = s.tile c j)
        ∧ (∀ k r b, k < accs.length → r < 32 → b < 128 → rowByte (kget {} (s'.acc c (accs.getD k 0)).rows r) b
          = s.byte (areaAt lines (0x2400 + 4096 * (tiles.length + k) + 128 * r + b)))
        ∧ ∀ a, a ∉ accs → s'.acc c a = s.acc c a

/-- SE_GO, SE_CANCEL and the takes (R256, R263, R280, R418, R487): GO of an IDLE context with a HEAD makes it ACTIVE at that chain, any other GO
only reports, with GEAR_BLOCKED in a blocked partition; a CANCEL with nothing under way leaves it IDLE with HEAD at the next
descriptor; a take lowers its semaphore by one and gives the unit its credit, and does nothing while the count is 0. -/
def EngineControl : Prop :=
  ∀ (x : CtxId) (s : State), let k := s.ctx x.val
    (RegOpen s → k.st = .idle → k.head ≠ 0 → s.gear.blocked.getLsbD k.part = false →
      ∃ s', exec (.seGo x) s = .next s' ∧ (∀ y, y ≠ x.val → s'.ctx y = s.ctx y) ∧ s'.threads = s.threads
        ∧ (s'.ctx x.val).st = .active ∧ (s'.ctx x.val).next = k.head ∧ (s'.ctx x.val).runs = [] ∧ (s'.ctx x.val).count = 0
        ∧ (s'.ctx x.val).done = 0 ∧ (s'.ctx x.val).head = k.head ∧ (s'.ctx x.val).cls = k.cls ∧ (s'.ctx x.val).part = k.part)
    ∧ (RegOpen s → k.st = .unallotted ∨ s.gear.blocked.getLsbD k.part = false → k.st ≠ .idle ∨ k.head = 0 →
      ∃ s', exec (.seGo x) s = .next s' ∧ s'.ctxs = s.ctxs ∧ s'.threads = s.threads
        ∧ ∃ loc, s'.events = (s.raiseEng (engineOf x.val) 0x0404 3 loc k.st.code).events)
    ∧ (RegOpen s → k.st ≠ .unallotted → s.gear.blocked.getLsbD k.part = true →
      ∃ s', exec (.seGo x) s = .next s' ∧ s'.ctxs = s.ctxs ∧ s'.threads = s.threads
        ∧ ∃ loc, s'.events = (s.raiseEng (engineOf x.val) 0x0A03 3 loc 2).events)
    ∧ (RegOpen s → k.st ≠ .active → exec (.seCancel x) s = .next s)
    ∧ (RegOpen s → k.st = .active → k.runs = [] → SeQuiet s x.val →
      ∃ s', exec (.seCancel x) s = .next s' ∧ (s'.ctx x.val).st = .idle ∧ (s'.ctx x.val).runs = []
        ∧ (s'.ctx x.val).head = (if k.next = 0 then k.head else k.next) ∧ (∀ y, y ≠ x.val → s'.ctx y = s.ctx y)
        ∧ s'.threads = s.threads ∧ MemOutside s s' 0 0)
    ∧ ∀ (out : Bool) (d : DescRun) (rest : List DescRun), k.runs = d :: rest → s.ctxLive x.val = true → d.wants out = true →
      let n := if out then fld (d.w 0x18) 27 14 else fld (d.w 0x18) 41 28
      (s.semCount n ≠ 0 → ∃ s', exec (.seTakeGranted x out) s = .next s' ∧ s'.semCount n = s.semCount n - 1
        ∧ (∀ m, m ≠ n → s'.semCount m = s.semCount m) ∧ s'.threads = s.threads ∧ MemOutside s s' 0 0
        ∧ (s'.ctx x.val).runs = (if out then { d with outTaken := d.outTaken + 1 } else { d with inTaken := d.inTaken + 1 }) :: rest)
      ∧ (s.semCount n = 0 → exec (.seTakeGranted x out) s = .next s)

/-- COPY, GATHER, SCATTER, DISPATCH and COMBINE are read (R257, R260, R269, R278, R479): with a slot for its read, a good descriptor of that OP
becomes the executing one, with the next sequence number, and NEXT leads on; a bad one raises SE_BADDESC with its address, writes the
record of status BADDESC where CREC is a block of sound memory, writes nothing else, and ends the chain with ERR 1; an untranslatable one
ends it with ERR 2 and a poisoned one with ERR 3. Bits of PARAM without a meaning count as reserved (log 62). -/
def EngineDescriptors : Prop :=
  ∀ (op : Fin 5) (x : CtxId) (s : State), let k := s.ctx x.val
    let i := descOps.getD op.val .seCopy x
    s.ctxMay x.val = true → k.next ≠ 0 → k.runs = [] → (s.issued x.val).desc = true →
    (∀ bs s1, s.fetchVa x.val k.next.toNat 256 descFetch = .got bs false 0 s1 →
      let d : DescRun := { addr := k.next.toNat, words := wordsOf 32 bs, seq := k.count }
      (s.badDesc x.val d = false → fld (d.w 0) 61 59 = op.val →
        ∃ s', exec i s = .next s' ∧ (s'.ctx x.val).runs = [d]
          ∧ (s'.ctx x.val).st = .active ∧ (s'.ctx x.val).count = k.count + 1 ∧ (s'.ctx x.val).next = d.w 0xA0
          ∧ (∀ y, y ≠ x.val → s'.ctx y = s.ctx y) ∧ s'.threads = s.threads ∧ MemOutside s s' 0 0)
      ∧ (s.badDesc x.val d = true → fld (d.w 0) 61 59 = op.val ∨ 4 < fld (d.w 0) 61 59 →
        ∃ s', exec i s = .next s' ∧ (s'.ctx x.val).st = .idle ∧ (s'.ctx x.val).err = 1 ∧ (s'.ctx x.val).runs = []
          ∧ (∀ y, y ≠ x.val → s'.ctx y = s.ctx y)
          ∧ (d.w 0xA8 = 0 → MemOutside s s' 0 0 ∧ s'.events
            = (s1.raiseEng (engineOf x.val) 0x0403 3 (x.val + k.count % 2 ^ 16 * 2 ^ 16) k.next.toNat).events)
          ∧ ((d.w 0xA8).toNat % 64 = 0 → d.w 0xA8 ≠ 0 → ∀ leaf level pa,
            s1.xlat (.engine (engineOf x.val)) k.part k.pv .write (d.w 0xA8).toNat = .ok leaf level pa → s1.isLocal pa = true →
            s1.isMem (localOf pa) = true → MemOutside s s' (localOf pa) 64
              ∧ numAt s' (localOf pa) 8 = 1 + 2 * 2 + k.count % 2 ^ 16 * 2 ^ 16)))
    ∧ ∀ bs p c s1, s.fetchVa x.val k.next.toNat 256 descFetch = .got bs p c s1 → (p = true ∨ c ≠ 0) →
      ∃ s', exec i s = .next s' ∧ (s'.ctx x.val).st = .idle ∧ (s'.ctx x.val).runs = [] ∧ MemOutside s s' 0 0
        ∧ (s'.ctx x.val).err = (if c = 1 ∨ c = 8 then 2 else 3)

/-- POOL_CACHE_LOOKUP (R59, R297 to R299): an access whose engine has no slot for it waits; with no cache slice the access goes to its group; a hit makes its line the most recently used and
dirty by a write; a miss of an NP access goes to its group; another miss allocates, and a read fetches the block. -/
def PoolCache : Prop :=
  ∀ (d : DieId) (s : State), ((∀ r ∈ kget [] s.lookupQ d.val, s.mayLeave r = false) → exec (.poolCacheLookup d) s = .next s)
    ∧ ∀ (r : MemReq) (rest : List MemReq), kget [] s.lookupQ d.val = r :: rest → s.mayLeave r = true →
    let n := sliceCount s d.val
    let k := setKey d.val n r.block
    let l := kget [] s.poolLines k
    ∃ s', exec (.poolCacheLookup d) s = .next s' ∧ kget [] s'.lookupQ d.val = rest ∧ s'.threads = s.threads ∧ MemOutside s s' 0 0
      ∧ (n = 0 → Queued s s' r ∧ s'.poolLines = s.poolLines)
      ∧ (0 < n → ∀ a b p, l = a ++ p :: b → p.block = r.block → (∀ q ∈ a ++ b, q.block ≠ r.block) →
        kget [] s'.poolLines k = a ++ b ++ [{ p with dirty := p.dirty || r.write }] ∧ s'.front = s.front
          ∧ ∀ j, j ≠ k → kget [] s'.poolLines j = kget [] s.poolLines j)
      ∧ (0 < n → (∀ q ∈ l, q.block ≠ r.block) → r.np = true → Queued s s' r ∧ s'.poolLines = s.poolLines)
      ∧ (0 < n → (∀ q ∈ l, q.block ≠ r.block) → r.np = false → l.length < 16 →
        kget [] s'.poolLines k = l ++ [{ block := r.block, dirty := r.write }] ∧ (r.write = false → Queued s s' r)
          ∧ (r.write = true → r.part = false → s'.front = s.front))
      ∧ (0 < n → (∀ q ∈ l, q.block ≠ r.block) → r.np = false → ∀ v m, l = v :: m → 16 ≤ l.length → r.write = true → r.part = false →
        kget [] s'.poolLines k = m ++ [{ block := r.block, dirty := true }]
          ∧ (v.dirty = true → Queued s s' { block := v.block, write := true, cls := r.cls, np := false, eng := r.eng, held := r.held })
          ∧ (v.dirty = false → s'.front = s.front))

/-- MEMORY_ADMISSION, BANK_SERVE and REFRESH (R307, R308, R310, R312): a waiting request is admitted for a token of its class, or for
nothing when the class may borrow; a bank serves its oldest request, or, while that has been passed fewer than 8 times, the oldest
one of the open row; a channel's refresh closes its rows in its cycle only. -/
def AdmissionAndBanks : Prop :=
  (∀ (g : Fin 16) (s : State) (r : MemReq), kget [] s.front g.val = [r] → (s.bank (bankOf s r)).queue = [] →
    let b := s.bkt g.val r.cls
    let s1 : State := { s with front := kset [] s.front g.val [] }
    let s2 := s1.setBank (bankOf s r) { s.bank (bankOf s r) with queue := [r] }
    (256 ≤ b.level → exec (.memoryAdmission g) s = .next (s2.setBkt g.val r.cls { b with level := b.level - 256 }))
    ∧ (b.level < 256 → b.borrow = true → exec (.memoryAdmission g) s = .next s2)
    ∧ (b.level < 256 → b.borrow = false → exec (.memoryAdmission g) s = .next s))
  ∧ (∀ (ch : Fin 96) (bank : Fin 16) (s : State) (o q : MemReq), let k := ch.val * 16 + bank.val
    let b := s.bank k
    (b.queue = [o] → (o.write = false → ReqSound s o) →
      exec (.bankServe ch bank 0) s = .next (s.setBank k { open_ := some (rowOf s o), queue := [] }))
    ∧ (b.queue = [o, q] → q ≠ o → (o.write = false → ReqSound s o) → (q.write = false → ReqSound s q) →
      (8 ≤ o.passed ∨ b.open_ = some (rowOf s o) ∨ (∀ w, b.open_ = some w → w ≠ rowOf s q) →
        exec (.bankServe ch bank 0) s = .next (s.setBank k { open_ := some (rowOf s o), queue := [q] }))
      ∧ (o.passed < 8 → b.open_ = some (rowOf s q) → rowOf s o ≠ rowOf s q →
        exec (.bankServe ch bank 0) s
          = .next (s.setBank k { open_ := some (rowOf s q), queue := [{ o with passed := o.passed + 1 }] }))))
  ∧ ∀ (ch : Fin 96) (s : State), let c := ch.val % 24
    let t := if s.memRate = 2 then 3510 else if s.memRate = 1 then 3120 else 2600
    let now := (s.count (0x20 + ch.val / 24 * 4 + c / 6)).toNat
    (now % t = t * (c % 6) / 6 → ∃ s', exec (.refresh ch) s = .next s' ∧ s'.threads = s.threads ∧ s'.mem = s.mem
      ∧ ∀ k, s'.bank k = if k / 16 = ch.val then { s.bank k with open_ := none } else s.bank k)
    ∧ (now % t ≠ t * (c % 6) / 6 → exec (.refresh ch) s = .next s)

/-- Messages by step (R350): a tree that is off takes none; one of an earlier step is counted late; one of a later step waits; EXP and
DATA of a child that has sent or been declared missing, of a closed bucket or after the node has sent, are counted late.
Where the manual is silent it is as log 47 says. -/
def PelotonSteps : Prop :=
  ∀ (d : DieId) (m : PelMsg) (s : State), let t := m.tree.val
    (∀ p ∈ (pelMessages d m).zipIdx 1,
      ((s.tree t).en = false → exec p.1 s = .next s)
      ∧ ((s.tree t).en = true → m.step.toNat < s.stepc.step.toNat → exec p.1 s = .next (s.pelCount t 0))
      ∧ ((s.tree t).en = true → s.stepc.step.toNat < m.step.toNat →
        exec p.1 s = .next (s.updTree t (fun w => { w with early := w.early ++ [(d.val, p.2, m)] }))))
    ∧ ∀ r, (s.tree t).en = true → m.step = s.stepc.step → (s.tree t).rank d.val = some r → m.src.val ∈ childrenOf (s.tree t).n r →
      OnTime s t m.bucket.toNat d.val →
      let x := s.node t m.bucket.toNat d.val
      (s.pelClosed t m.bucket.toNat d.val = true ∨ x.expSent = true ∨ x.scaled = true ∨ m.src.val ∈ x.kidMiss
          ∨ hasOf x.expIn m.src.val →
        exec (.pelExp d m) s = .next (s.pelCount t 0).pelSettle)
      ∧ (s.pelClosed t m.bucket.toNat d.val = true ∨ x.dataSent = true ∨ m.src.val ∈ x.kidMiss ∨ hasOf x.dataIn m.src.val →
        exec (.pelData d m) s = .next (s.pelCount t 0).pelSettle)

/-- EXP and SCALE at a node (R344, R345): EXP of the last awaited child sends the node's EXP to its parent, each byte the largest of its
own and its children's; SCALE goes to every child with the same bytes, and the rank that contributes forms its leaf codes.
Where the manual is silent it is as logs 45 and 47 say. -/
def PelotonAgreement : Prop :=
  ∀ (d : DieId) (m : PelMsg) (r : Nat) (s : State), AtRank s d m r → OnTime s m.tree.val m.bucket.toNat d.val → PelOpen s m.tree.val →
    let t := m.tree.val
    let b := m.bucket.toNat
    let x := s.node t b d.val
    let n := (s.tree t).n
    let c := m.src.val
    let ex := x.expIn ++ [(c, m)]
    (c ∈ childrenOf n r → x.expSent = false → x.scaled = false → c ∉ x.kidMiss → ¬ hasOf x.expIn c →
      (x.started = false ∨ (2 ≤ x.own ∧ x.absent = false) ∨ (∃ k ∈ childrenOf n r, ¬ hasOf ex k) →
        exec (.pelExp d m) s = .next (s.setNode t b d.val { x with expIn := ex }).pelSettle)
      ∧ (x.started = true → x.own ≤ 1 ∨ x.absent = true → (∀ k ∈ childrenOf n r, hasOf ex k) → (∀ p ∈ ex, p.1 ∈ childrenOf n r) →
          (∀ p ∈ ex, p.2.fdig = x.fdig) → r ≠ 0 →
          let own := if x.own = 0 then x.exps else List.replicate x.unf.length 0
          ∃ s1 : State, exec (.pelExp d m) s = .next s1.pelSettle ∧ (s1.node t b d.val).expSent = true
            ∧ Sent s1 t (parentOf r) 1 (fun g =>
                (∀ i, (g.bytes.getD i 0).toNat = (ex.map (fun p => (p.2.bytes.getD i 0).toNat)).foldl max (own.getD i 0).toNat)
                ∧ g.missing = ex.foldl (fun a p => a ||| p.2.missing) (if x.own = 0 then 0 else rankBits [r]))))
    ∧ (r ≠ 0 → x.scaled = false → ∃ s1 : State, exec (.pelScale d m) s = .next s1.pelSettle
        ∧ (s1.node t b d.val).scaled = true ∧ (s1.node t b d.val).agreed = m.bytes ∧ (s1.node t b d.val).xmiss = m.missing
        ∧ (x.own = 0 → bit m.missing r = false → (s1.node t b d.val).leaf
            = some ((liveBlocks m.bytes).map (fun p => (leafCodes (x.x.getD p.1 []) (scaleByte p.2 n)).1)))
        ∧ ∀ k ∈ childrenOf n r, Sent s1 t k 2 (fun g => g.bytes = m.bytes ∧ g.missing = m.missing))

/-- DATA and RESULT at a node (R346 to R348, R351): DATA of the last awaited child sends the node's own partial combined with its
children's, the arrived ranks counted, but a rank whose own bit is set in the SCALE sends none (R349); RESULT goes to every child
and is applied by a scaled rank whose descriptor and state are at hand, writing nothing when no rank arrived.
Where the manual is silent it is as logs 45 and 47 say. -/
def PelotonReduction : Prop :=
  ∀ (d : DieId) (m : PelMsg) (r : Nat) (s : State), AtRank s d m r → OnTime s m.tree.val m.bucket.toNat d.val → PelOpen s m.tree.val →
    r ≠ 0 →
    let t := m.tree.val
    let b := m.bucket.toNat
    let x := s.node t b d.val
    let n := (s.tree t).n
    let c := m.src.val
    (c ∈ childrenOf n r → x.dataSent = false → c ∉ x.kidMiss → ¬ hasOf x.dataIn c →
      (x.scaled = false ∨ (∃ k ∈ childrenOf n r, k ≠ c ∧ k ∉ x.kidMiss ∧ ¬ hasOf x.dataIn k) →
        exec (.pelData d m) s = .next (s.setNode t b d.val { x with dataIn := x.dataIn ++ [(c, m)] }).pelSettle)
      ∧ (x.scaled = true → (∀ k ∈ childrenOf n r, k = c ∨ k ∈ x.kidMiss ∨ hasOf x.dataIn k) → bit x.xmiss r = true →
          exec (.pelData d m) s = .next (s.setNode t b d.val { x with dataIn := x.dataIn ++ [(c, m)], dataSent := true }).pelSettle)
      ∧ (x.scaled = true → childrenOf n r = [c] → x.dataIn = [] → x.kidMiss = [] → bit x.xmiss r = false →
          ∃ s1 : State, exec (.pelData d m) s = .next s1.pelSettle ∧ (s1.node t b d.val).dataSent = true
            ∧ Sent s1 t (parentOf r) 3 (fun g => g.missing = (x.xmiss &&& rankBits (subtreeOf n r)) ||| m.missing
                ∧ (x.leaf = none → g.codes = m.codes ∧ g.arrived = m.arrived)
                ∧ ∀ l, x.leaf = some l → g.codes = (combineAll (l.map asPartial) m.codes).1 ∧ g.arrived = 1 + m.arrived)))
    ∧ (x.res = none → ∃ s1 : State, exec (.pelResult d m) s = .next s1.pelSettle ∧ (s1.node t b d.val).res = some m
        ∧ (∀ k ∈ childrenOf n r, Sent s1 t k 4 (fun g => g.codes = m.codes ∧ g.arrived = m.arrived ∧ g.missing = m.missing))
        ∧ (x.scaled = false → (s1.node t b d.val).applied = x.applied)
        ∧ (x.scaled = true → x.got = true → x.desc = [] ∨ PelNear s t (x.stateSpans n r m.arrived) → (s1.node t b d.val).applied = true)
        ∧ (x.scaled = true → x.applied = false → x.got = true → x.desc ≠ [] → m.arrived = 0 →
            (s1.node t b d.val).applied = true ∧ (s1.node t b d.val).status = 3 ∧ ∀ a, s1.byte a = s.byte a))

/-- GATHER and CHECK (R355, R359): a shard of the subtree goes up, another comes down to every child, each once; the leaves of a rank
wait at the root, behind the checks that are past DL_CHK; those of a child declared missing and those after a RESULT without an open check are
late (log 47), and a check ends when every needed rank has sent. -/
def PelotonGatherCheck : Prop :=
  ∀ (d : DieId) (m : PelMsg) (r : Nat) (s : State), AtRank s d m r → OnTime s m.tree.val m.bucket.toNat d.val → PelOpen s m.tree.val →
    let t := m.tree.val
    let b := m.bucket.toNat
    let x := s.node t b d.val
    let n := (s.tree t).n
    let c := m.src.val
    let down : Prop := c ∉ subtreeOf n r ∨ c = r ∨ c ∈ x.gatherUp
    (r ≠ 0 → c ∈ subtreeOf n r → c ≠ r → c ∉ x.gatherUp → ∃ s1 : State, exec (.pelGather d m) s = .next s1.pelSettle
      ∧ c ∈ (s1.node t b d.val).gatherUp ∧ Sent s1 t (parentOf r) 5 (fun g => g.words = m.words ∧ g.src = m.src) ∧ s1.mem = s.mem)
    ∧ (r = 0 ∨ down → c ∉ x.gathered → ∃ s1 : State, exec (.pelGather d m) s = .next s1.pelSettle
      ∧ c ∈ (s1.node t b d.val).gathered ∧ ∀ k ∈ childrenOf n r, Sent s1 t k 5 (fun g => g.words = m.words ∧ g.src = m.src))
    ∧ (r ≠ 0 → down → c ∈ x.gathered → exec (.pelGather d m) s = .next (s.pelCount t 0).pelSettle)
    ∧ (r = 0 → let s0 := s.runChecks t n (s.chkPast t)
      (s0.tree t).checks = (s.tree t).checks.filter (fun k => !s.chkPast t k)
      ∧ ((∀ k ∈ (s0.tree t).checks, ¬ (k.bucket = b ∧ k.step = m.step)) →
        (x.res ≠ none ∨ c ∈ x.kidMiss → exec (.pelCheck d m) s = .next (s0.pelCount t 0).pelSettle)
        ∧ (x.res = none → c ∉ x.kidMiss →
          exec (.pelCheck d m) s = .next (s0.setNode t b d.val { x with checkIn := x.checkIn ++ [(c, m.leaves)] }).pelSettle))
      ∧ ∀ k, (s0.tree t).checks = [k] → k.bucket = b → k.step = m.step →
        let k' : PelChk := { k with leaves := k.leaves ++ [(c, m.leaves)] }
        let lost : Prop := c ∈ childrenOf n 0 ∧ bit k.missing c = true
        (lost → exec (.pelCheck d m) s = .next (s0.pelCount t 0).pelSettle)
        ∧ (¬ lost → ∃ s1 : State, exec (.pelCheck d m) s = .next s1.pelSettle ∧ (s1.tree t).checks = (if k'.full n then [] else [k'])
          ∧ (k'.full n = false → (s1.tree t).cnt = (s0.tree t).cnt)
          ∧ (k'.full n = true → ∀ p, k.blocks = [p] → kget 0 (s1.tree t).cnt 2 + kget 0 (s1.tree t).cnt 3
            = kget 0 (s0.tree t).cnt 2 + kget 0 (s0.tree t).cnt 3 + 1)))

/-- Loads of gearing images (R412 to R419, R470): while the module is held off and while no firmware serves it, GEAR_LOAD_CTL is ignored; GO begins a load or is BUSY; ABORT ends a waiting load; validation rejects with the first
failure and keeps the image in effect, or waits with the affected partitions; an image that changes nothing is in effect at once;
quiescence blocks the affected partitions. Where the manual is silent it is as logs 29 and 60 say. -/
def GearLoads : Prop :=
  ∀ s : State, let g := s.gear
    let held (s' : State) : Prop := s'.gear.st = g.rest ∧ s'.gear.loading = none ∧ s'.gear.blocked = 0 ∧ s'.gear.waitp = 0
      ∧ s'.gear.image = g.image ∧ s'.gear.seq = g.seq ∧ s'.threads = s.threads ∧ s'.mem = s.mem
      ∧ fld s'.gear.result1 31 0 = (fld g.result1 31 0 + 1) % 2 ^ 32
    (s.sec.phase ≠ .running ∨ s.ref25 = false ∨ s.power.down = true → exec .gearAbort s = .next s ∧ ∀ v, exec (.gearLoad v) s = .next s ∧ exec (.gearFlashLoad v) s = .next s)
    ∧ (s.sec.phase = .running → s.ref25 = true → s.power.down = false →
      (g.st ≠ .waiting → exec .gearAbort s = .next s)
      ∧ (g.st = .waiting → ∃ s', exec .gearAbort s = .next s' ∧ held s' ∧ s'.gear.result0 = 0x0C)
      ∧ ∀ v : Word, v.getLsbD 2 = false →
        (g.st = .noImage ∨ g.st = .active →
          exec (.gearLoad v) s = .next { s with gear := { g with
            st := .validating, flash := v.getLsbD 3, store := v.getLsbD 1, loadLen := fld v 56 32 } }
          ∧ exec (.gearFlashLoad v) s = .next { s with gear := { g with
            st := .validating, flash := true, store := v.getLsbD 1, loadLen := fld v 56 32 } })
        ∧ (g.st ≠ .noImage → g.st ≠ .active → ∀ i ∈ [Instr.gearLoad v, .gearFlashLoad v], ∃ s', exec i s = .next s'
          ∧ s'.gear.st = g.st ∧ s'.gear.loading = g.loading ∧ s'.gear.result0 = 0x0B
          ∧ fld s'.gear.result1 31 0 = (fld g.result1 31 0 + 1) % 2 ^ 32))
    ∧ (∀ img : Option Image, let read := if g.flash then (if img = none then none else g.stored) else img
      (g.st ≠ .validating → exec (.imageValidation img) s = .next s)
      ∧ (g.st = .validating → read = none → ∃ s', exec (.imageValidation img) s = .next s' ∧ held s' ∧ s'.gear.result0 = 0x0D)
      ∧ ∀ i, g.st = .validating → read = some i → let len := if g.flash then i.bytes else g.loadLen
        (∀ r, s.imageFail i len true = some r → ∃ s', exec (.imageValidation img) s = .next s' ∧ held s' ∧ s'.gear.result0 = r.word)
        ∧ (s.imageFail i len true = none → s.changesNothing i = false → exec (.imageValidation img) s = .next { s with gear := { g with
            st := .waiting, loading := some i, waitp := s.affected i, tandem := s.needsTandem i } })
        ∧ (s.imageFail i len true = none → s.changesNothing i = true → ∃ s', exec (.imageValidation img) s = .next s'
          ∧ s'.gear.st = .active ∧ s'.gear.image = some i ∧ s'.gear.seq = g.seq + 1 ∧ s'.gear.result0 = 0 ∧ s'.threads = s.threads
          ∧ s'.mem = s.mem ∧ (g.store = true → s'.gear.stored = some i)))
    ∧ exec .quiescenceObserved s = .next (if g.st = .waiting ∧ s.allQuiet = true
        then { s with gear := { g with st := .applying, blocked := g.waitp } } else s)

/-- The end of an apply (R419, R421, R475): the image is in effect and counted, the blocks are lifted, its power domains are on, and after
MEM_READY each thread has the pass tag of its place in its core's counts or is UNALLOTTED; before MEM_READY all are UNALLOTTED. A changed
rate, untrained channels or a warm reset that waited clear MEM_READY. STORE puts the image into the copy of the gearing store that does not
hold the newest contents, with the next sequence number (R444). Where the manual is silent it is as log 29 says. -/
def GearApply : Prop :=
  ∀ s : State, let g := s.gear
    (g.st ≠ .applying ∨ s.ref25 = false → exec .applyComplete s = .next s)
    ∧ ∀ i, g.st = .applying → g.loading = some i → s.ref25 = true → ∃ s', exec .applyComplete s = .next s' ∧ s'.gear.st = .active ∧ s'.gear.image = some i
      ∧ s'.gear.seq = g.seq + 1 ∧ s'.gear.result0 = 0 ∧ s'.gear.blocked = 0 ∧ s'.gear.waitp = 0 ∧ s'.gear.loading = none
      ∧ s'.power.on = imgDomains i ∧ s'.power.warmWait = false
      ∧ (g.store = true → s'.gear.stored = some i ∧ s'.gear.storedOld = g.stored ∧ s'.gear.storeSeq = g.storeSeq + 1)
      ∧ (g.store = false → s'.gear.stored = g.stored ∧ s'.gear.storeSeq = g.storeSeq)
      ∧ (s.power.warmWait = true → s'.gear.memReady = false) ∧ (s.power.warmWait = false → s'.gear.memReady
        = (g.memReady && decide (s.memRate = fld (secWord i 3 0) 1 0) && s.power.trained))
      ∧ (s'.gear.memReady = false → s'.threads = [] ∧ s'.ctxs = [])
      ∧ (s'.gear.memReady = true → ∀ c k, c < 288 → k < 16 → match (passList (imgCounts i c))[k]? with
        | some p => (s'.thr (c * 16 + k)).st ≠ .unallotted ∧ (s'.thr (c * 16 + k)).pass = p
        | none => (s'.thr (c * 16 + k)).st = .unallotted)

/-- Host queues at rest (R430, R431, R433, R434): HQ_CFG enables a good configuration afresh and reports a bad one; a doorbell moves TAIL;
an entry is fetched only while the queue is on, released and the bus may be mastered; a full BULK queue answers QUEUE_FULL; behind a
running entry, a held record or a full completion ring it waits; alone, a NOP, a malformed entry and a WAIT for 0 complete at once, a SIG
signals, a WAIT sends its take once the count is high enough, and an XFER starts its chain.
Where the manual is silent it is as log 52 says. -/
def HostQueueEntries : Prop :=
  (∀ (q : QueueId) (v : Word) (s : State), RegOpen s → let x := s.hq q.val
    (v.getLsbD 63 = false → exec (.hqCfgWrite q v) s = .next s)
    ∧ (v.getLsbD 63 = true → s.hqOk q.val v = false → exec (.hqCfgWrite q v) s = .next (s.hqEvent q.val v))
    ∧ (v.getLsbD 63 = true → s.hqOk q.val v = true → ∃ s', exec (.hqCfgWrite q v) s = .next s' ∧ (s'.hq q.val).st = .idle
      ∧ (s'.hq q.val).head = 0 ∧ (s'.hq q.val).tail = 0 ∧ (s'.hq q.val).cqtail = 0 ∧ (s'.hq q.val).accepted = 0
      ∧ (s'.hq q.val).phase = true ∧ (s'.hq q.val).fetched = [] ∧ (s'.hq q.val).base = x.base ∧ (∀ r, r ≠ q.val → s'.hq r = s.hq r)
      ∧ s'.ctxs = s.ctxs ∧ s'.threads = s.threads)
    ∧ exec (.hqTail q v) s = .next (if x.st = .off ∨ x.st = .stopping then s else if x.slots ≤ fld v 15 0 then s.hqEvent q.val v
        else s.setHq q.val { x with tail := fld v 15 0 }))
  ∧ ∀ (q : QueueId) (e : HqEntry) (s : State), let x := s.hq q.val
    let released : Prop := x.st ≠ .off ∧ x.st ≠ .stopping ∧ x.head ≠ x.tail ∧ s.host.bme = true
    let op := fld e.word0 7 0
    let y := { x with head := (x.head + 1) % x.slots, accepted := x.accepted + 1, fetched := x.fetched ++ [(x.head, e)] }
    let run := { y with started := true, st := .running, waitAt := s.count 0x40, expired := false }
    (∀ p ∈ hqEntries q e, (p.1 ≠ 0 → op ≠ p.1 → exec p.2 s = .next s) ∧ (p.1 = 0 → op ≠ 0 → op ≤ 3 → exec p.2 s = .next s))
    ∧ ∀ p ∈ hqEntries q e, p.1 = op ∨ (p.1 = 0 ∧ 3 < op) →
      (¬ released → exec p.2 s = .next s)
      ∧ (released → x.depth ≤ x.accepted → (s.ctx x.ctx).cls ≠ .bulk → exec p.2 s = .next s)
      ∧ (released → x.depth ≤ x.accepted → (s.ctx x.ctx).cls = .bulk → ∃ s', exec p.2 s = .next s'
        ∧ Recorded s s' q.val x.head (fld e.word0 31 16) 5 ∧ (s'.hq q.val).head = (x.head + 1) % x.slots ∧ (s'.hq q.val).fetched = x.fetched)
      ∧ (released → x.accepted < x.depth → x.started = true ∨ x.blocked ≠ [] ∨ x.free = false → ∃ s', exec p.2 s = .next s' ∧ s'.hq q.val = { y with st := .running }
        ∧ s'.out = s.out ∧ s'.semQ = s.semQ ∧ s'.ctxs = s.ctxs)
      ∧ (released → x.accepted < x.depth → x.started = false → x.blocked = [] → x.free = true → x.fetched = [] →
        (HqEntry_bad e = true → ∃ s', exec p.2 s = .next s' ∧ Recorded s s' q.val x.head (fld e.word0 31 16) 3 ∧ (s'.hq q.val).fetched = [])
        ∧ (HqEntry_bad e = false → op = 0 ∨ (op = 3 ∧ fld e.arg0 29 14 = 0) → ∃ s', exec p.2 s = .next s'
          ∧ Recorded s s' q.val x.head (fld e.word0 31 16) 0 ∧ (s'.hq q.val).fetched = [])
        ∧ (HqEntry_bad e = false → op = 1 → ∃ s1 : State, exec p.2 s = .next ((s1.seGo x.ctx).hqState q.val)
          ∧ s1.hq q.val = { y with started := true, waitAt := s.count 0x40, expired := false }
          ∧ ((s.ctx x.ctx).st = .idle → (s1.ctx x.ctx).head = e.arg0 &&& ~~~0xFF#64 ∧ (s1.ctx x.ctx).sumElems = 0))
        ∧ (HqEntry_bad e = false → op = 2 → ∃ s', exec p.2 s = .next s' ∧ s'.hq q.val = run
          ∧ s'.semQ = s.semQ ++ [{ sem := fld e.arg0 13 0, who := 0xD000 + q.val, ask := .signal (fld e.arg0 29 14), behind := [] }])
        ∧ (HqEntry_bad e = false → op = 3 → fld e.arg0 29 14 ≠ 0 → ∃ s', exec p.2 s = .next s'
          ∧ s'.hq q.val = run
          ∧ s'.semQ = if fld e.arg0 29 14 ≤ (s.semCount (fld e.arg0 13 0)).toNat ∧ (∀ r ∈ s.semQ, ¬ (r.who = 0xD000 + q.val ∧ r.ask.isTake = true))
            then s.semQ ++ [{ sem := fld e.arg0 13 0, who := 0xD000 + q.val, ask := .take (fld e.arg0 29 14) }] else s.semQ))

/-- The ends of running entries (R39, R112, R433, R434, R436): an XFER completes when its context is idle, with the chain's status; a WAIT times
out behind its last counting cycle, but the reply of a take under way decides first; a take that succeeds completes it and lowers the count; CQHEAD frees a slot for a held record; STOP cancels a WAIT and an XFER's chain, and turns an empty queue OFF.
Where the manual is silent it is as log 52 says. -/
def HostQueueEnds : Prop :=
  ∀ (q : QueueId) (s : State), let x := s.hq q.val
    let noTake (s' : State) : Prop := ∀ r ∈ s'.semQ, ¬ (r.who = 0xD000 + q.val ∧ r.ask.isTake = true)
    (x.running = none → exec (.xferComplete q) s = .next s ∧ exec (.hqWaitTimeout q) s = .next s)
    ∧ (∀ idx e, Runs s q.val idx e → let op := fld e.word0 7 0
      let k := s.ctx x.ctx
      let late : Prop := fld e.arg1 47 0 ≠ 2 ^ 48 - 1 ∧ fld e.arg1 47 0 < (s.count 0x40 - x.waitAt).toNat
      (op ≠ 1 ∨ k.st = .active ∨ k.st = .cancelling → exec (.xferComplete q) s = .next s)
      ∧ (op = 1 → k.st ≠ .active → k.st ≠ .cancelling → ∃ s', exec (.xferComplete q) s = .next s' ∧ (s'.hq q.val).fetched = []
        ∧ Recorded s s' q.val idx (fld e.word0 31 16) (if k.sawBad then 2 else if k.sawCancel then 6 else if 0 < k.sumFault then 1 else 0))
      ∧ (op ≠ 3 ∨ ¬ late → exec (.hqWaitTimeout q) s = .next s)
      ∧ (op = 3 → late → ¬ noTake s → exec (.hqWaitTimeout q) s = .next (s.setHq q.val { x with expired := true }))
      ∧ (op = 3 → late → noTake s → ∃ s', exec (.hqWaitTimeout q) s = .next s' ∧ (s'.hq q.val).fetched = [] ∧ s'.semQ = s.semQ
        ∧ Recorded s s' q.val idx (fld e.word0 31 16) 4)
      ∧ (op = 3 → ∀ (sem : BitVec 14) r, s.semQ = [r] → r.sem = sem.toNat → fld e.arg0 13 0 = sem.toNat → r.who = 0xD000 + q.val →
          r.ask = .take (fld e.arg0 29 14) →
          let c := (s.semCount sem.toNat).toNat
          (fld e.arg0 29 14 ≤ c → ∃ s', exec (.semTakeApplied sem 1) s = .next s' ∧ (s'.semCount sem.toNat).toNat = c - fld e.arg0 29 14
            ∧ Recorded s s' q.val idx (fld e.word0 31 16) 0)
          ∧ (c < fld e.arg0 29 14 → x.expired = true ∨ late → ∃ s', exec (.semTakeApplied sem 1) s = .next s'
            ∧ s'.semCount sem.toNat = s.semCount sem.toNat ∧ Recorded s s' q.val idx (fld e.word0 31 16) 4)
          ∧ (c < fld e.arg0 29 14 → x.expired = false → ¬ late → exec (.semTakeApplied sem 1) s = .next { s with semQ := [] }))
      ∧ (RegOpen s → op = 1 → exec (.hqStop q) s = .next ((s.setHq q.val { x with st := .stopping }).seCancel x.ctx))
      ∧ (RegOpen s → op = 2 → exec (.hqStop q) s = .next (s.setHq q.val { x with st := .stopping }))
      ∧ (RegOpen s → op = 3 → ∃ s', exec (.hqStop q) s = .next s' ∧ noTake s' ∧ Recorded s s' q.val idx (fld e.word0 31 16) 6
        ∧ (x.free = true → QueueOff s' q.val)))
    ∧ (RegOpen s → (x.st = .off ∨ x.st = .stopping → exec (.hqStop q) s = .next s)
      ∧ (x.st ≠ .off → x.st ≠ .stopping → x.fetched = [] → x.blocked = [] → ∃ s', exec (.hqStop q) s = .next s' ∧ QueueOff s' q.val
        ∧ s'.out = s.out ∧ s'.ctxs = s.ctxs)
      ∧ ∀ v : Word, let y := { x with cqhead := fld v 15 0 }
        (x.st = .off → exec (.hqCqhead q v) s = .next (s.setHq q.val y))
        ∧ (∀ r, x.st ≠ .off → x.st ≠ .stopping → x.blocked = [r] → x.fetched = [] → s.host.bme = true → ∃ s', exec (.hqCqhead q v) s = .next s'
          ∧ (y.free = true → (s'.hq q.val).blocked = [] ∧ .hostWrite (s'.busTo (x.cqbase.toNat + x.cqtail * 32))
            (toBytes 8 (b2n x.phase + r.status * 2 + r.tag * 2 ^ 16 + r.entry * 2 ^ 32)) s.host.ats ∈ s'.out ∧ (s'.hq q.val).st = .idle)
          ∧ (y.free = false → (s'.hq q.val).blocked = [r] ∧ s'.out = s.out)))

/-- Mailbox sessions and slots (R428, R452, R453, R457, R458, R461, R462, Table SEC-5): a request while nothing serves the mailbox, or at BAR4 without
a GO, has no effect; one that the present mode does not serve is answered STATE; a session is opened once, takes bytes within its length, and ends in an update of
the other slot, which is PENDING and never the running one, or of both in Sag mode, a slot that the flash does not hold being FAILED (log 29); ACTIVATE takes a PENDING or GOOD slot; RESTART answers, then resets. -/
def MailboxSessions : Prop :=
  ∀ (p : MbxPath) (tag : BitVec 16) (len off : Nat) (bs : List Byte) (s : State),
    let ans (i : Instr) (type status : Nat) (q : State → Prop) : Prop := ∃ s', exec i s = .next s' ∧ Answered s' p type status tag ∧ q s'
    let none_ (s' : State) : Prop := s'.sec.session = s.sec.session ∧ s'.sec.slotA = s.sec.slotA ∧ s'.sec.slotB = s.sec.slotB
      ∧ s'.sec.next = s.sec.next ∧ s'.sec.log = s.sec.log
    let kinds : List (Bool × Nat × Nat × Nat × Instr × Instr × Instr) :=
      [(false, 2, 3, 4, .updBegin p tag len, .updData p tag off bs, .updEnd p tag),
       (true, 0x10, 0x11, 0x12, .sagBegin p tag len, .sagData p tag off bs, .sagEnd p tag)]
    let served (sag : Bool) : Prop := if sag then s.sec.phase = .sag else s.sec.phase = .running
    (s.mbxLive p = false → ∀ sl first count, ∀ i ∈ [Instr.getInfo p tag, .updBegin p tag len, .updData p tag off bs, .updEnd p tag, .activate p tag sl,
      .restart p tag, .logRead p tag first count, .sagBegin p tag len, .sagData p tag off bs, .sagEnd p tag], exec i s = .next s)
    ∧ (s.mbxLive p = true →
      ans (.getInfo p tag) 1 0 none_
      ∧ (p = .bar4 → s.sec.mbxBusy = true ∧ s.fnReady = true)
      ∧ (∀ first count, ans (.logRead p tag first count) 0x0A (if count ≤ 8000 then 0 else 1) none_)
      ∧ (∀ k ∈ kinds, let b := k.2.2.2.2.1
        let d := k.2.2.2.2.2.1
        (¬ served k.1 → ans b k.2.1 8 none_ ∧ ans d k.2.2.1 8 none_ ∧ ans k.2.2.2.2.2.2 k.2.2.2.1 8 none_)
        ∧ (served k.1 → (s.sec.session ≠ none → ans b k.2.1 2 none_)
          ∧ (s.sec.session = none → 2 ^ 26 < len → ans b k.2.1 7 none_)
          ∧ (s.sec.session = none → len ≤ 2 ^ 26 → ans b k.2.1 0 (fun s' => s'.sec.session = some {
              sag := k.1, path := p, len := len, staging := List.replicate len 0 }))
          ∧ (s.sessionOf k.1 p = none → ans d k.2.2.1 8 none_ ∧ ans k.2.2.2.2.2.2 k.2.2.2.1 8 none_)
          ∧ ∀ x, s.sessionOf k.1 p = some x → (x.len < off + bs.length → ans d k.2.2.1 1 none_)
            ∧ (off + bs.length ≤ x.len → ans d k.2.2.1 0 (fun s' => s'.sec.session
              = some { x with staging := x.staging.take off ++ bs ++ x.staging.drop (off + bs.length) }))))
      ∧ (s.sec.phase = .running → ∀ x, s.sessionOf false p = some x → let r := { s.sec with session := none }.endUpdate x.staging
          ans (.updEnd p tag) 4 r.2 (fun s' => s'.sec.session = none ∧ s'.sec.slot s.sec.running = s.sec.slot s.sec.running
            ∧ (r.2 = 0 → (s'.sec.slot (!s.sec.running)).st = .pending ∧ pkgResult x.staging (s.sec.slot s.sec.running).bytes
              = some (s'.sec.slot (!s.sec.running)).bytes)
            ∧ (r.2 ≠ 0 → (s'.sec.slot (!s.sec.running)).st = .empty ∨ s'.sec.slot (!s.sec.running) = s.sec.slot (!s.sec.running))))
      ∧ (s.sec.phase = .sag → ∀ x, s.sessionOf true p = some x → let l := x.staging.take (2 ^ 25)
          let v := s.sec.slotCheck l
          let held (bad : Bool) : Slot := { st := if bad then .failed else .pending, bytes := l }
          let wrote (s' : State) : Prop := s'.sec.slotA = held s.sec.flashBadA ∧ s'.sec.slotB = held s.sec.flashBadB ∧ s'.sec.next = false
          (v = 0 → s.sec.flashWp = false → s.sec.flashBadA = false ∨ s.sec.flashBadB = false →
            ans (.sagEnd p tag) 0x12 0 (fun s' => s'.sec.phase = .off ∧ wrote s'))
          ∧ (v = 0 → s.sec.flashWp = false → s.sec.flashBadA = true → s.sec.flashBadB = true →
            ans (.sagEnd p tag) 0x12 9 (fun s' => s'.sec.phase = .sag ∧ s'.sec.session = none ∧ wrote s'))
          ∧ (v ≠ 0 ∨ s.sec.flashWp = true → ∃ st, st ≠ 0 ∧ ans (.sagEnd p tag) 0x12 st (fun s' => s'.sec.session = none ∧ s'.sec.phase = .sag
            ∧ s'.sec.slotA = s.sec.slotA ∧ s'.sec.slotB = s.sec.slotB)))
      ∧ (∀ sl, (s.sec.phase ≠ .running ∨ ((s.sec.slot sl).st ≠ .pending ∧ (s.sec.slot sl).st ≠ .good) → ans (.activate p tag sl) 5 8 none_)
        ∧ (s.sec.phase = .running → (s.sec.slot sl).st = .pending ∨ (s.sec.slot sl).st = .good → ans (.activate p tag sl) 5 0 (fun s' => s'.sec.next = sl)))
      ∧ ∃ s', exec (.restart p tag) s = .next s' ∧ ColdReset s s' ∧ ∃ body, .mailbox p 6 0 tag body ∈ s'.out)

/-- Enrolled keys and the gearing minimum (R454, R455, Table SEC-6): a signed message counts only with its signatures; the flash changes
only while it may be written; a role holds at most four keys, the last OWNER key stays, and the minimum never falls. -/
def MailboxKeys : Prop :=
  ∀ (p : MbxPath) (tag : BitVec 16) (role : Role) (key : BitVec 256) (svn : BitVec 32) (sigs : List MbxSig) (s : State), s.mbxLive p = true →
    let c := s.sec
    let k : Key := { role := role, key := key }
    let ans (i : Instr) (type status : Nat) (q : State → Prop) : Prop := ∃ s', exec i s = .next s' ∧ Answered s' p type status tag ∧ q s'
    let same (s' : State) : Prop := s'.sec.keys = c.keys ∧ s'.sec.gearSvn = c.gearSvn ∧ s'.sec.nonce = c.nonce
    (c.phase ≠ .running → ans (.keyEnroll p tag role key sigs) 7 8 same ∧ ans (.keyRevoke p tag role key sigs) 8 8 same
      ∧ ans (.gearSvn p tag svn sigs) 9 8 same)
    ∧ (c.phase = .running →
      (c.enrollSigned role key sigs = false → ans (.keyEnroll p tag role key sigs) 7 3 same)
      ∧ (c.enrollSigned role key sigs = true →
        (k ∈ c.keys → ans (.keyEnroll p tag role key sigs) 7 0 (fun s' => s'.sec.keys = c.keys))
        ∧ (k ∉ c.keys → 4 ≤ (c.keysOf role).length → ans (.keyEnroll p tag role key sigs) 7 7 same)
        ∧ (k ∉ c.keys → (c.keysOf role).length < 4 → c.flashWp = true → ans (.keyEnroll p tag role key sigs) 7 10 same)
        ∧ (k ∉ c.keys → (c.keysOf role).length < 4 → c.flashWp = false →
          ans (.keyEnroll p tag role key sigs) 7 0 (fun s' => s'.sec.keys = c.keys ++ [k] ∧ s'.sec.gearSvn = c.gearSvn)))
      ∧ (let ok := c.byBoth (Config.mbxBody 0x08 (Role.code role) key) sigs
        let last : Prop := role = .owner ∧ (c.keysOf .owner).length ≤ 1
        (ok = false → ans (.keyRevoke p tag role key sigs) 8 3 same)
        ∧ (ok = true → k ∉ c.keys ∨ last → ans (.keyRevoke p tag role key sigs) 8 1 same)
        ∧ (ok = true → k ∈ c.keys → ¬ last → c.flashWp = true → ans (.keyRevoke p tag role key sigs) 8 10 same)
        ∧ (ok = true → k ∈ c.keys → ¬ last → c.flashWp = false → ans (.keyRevoke p tag role key sigs) 8 0 (fun s' =>
          ∀ x, x ∈ s'.sec.keys ↔ x ∈ c.keys ∧ x ≠ k)))
      ∧ (let ok := c.byOwner (Config.mbxBody 0x09 svn.toNat 0) sigs
        (ok = false → ans (.gearSvn p tag svn sigs) 9 3 same)
        ∧ (ok = true → svn.toNat < c.gearSvn.toNat → ans (.gearSvn p tag svn sigs) 9 4 same)
        ∧ (ok = true → c.gearSvn.toNat ≤ svn.toNat → c.flashWp = true → ans (.gearSvn p tag svn sigs) 9 10 same)
        ∧ (ok = true → c.gearSvn.toNat ≤ svn.toNat → c.flashWp = false →
          ans (.gearSvn p tag svn sigs) 9 0 (fun s' => s'.sec.gearSvn = svn ∧ s'.sec.keys = c.keys))))

end Sys2Proof.Machine

open Sys2Proof Sys2Proof.Machine

/-- The step is the front command: with `c` in front of the queue, the step is what `c` makes of the state that holds the rest. -/
def Obligations.StepTakesFront : Prop :=
  ∀ (c : Instr) (s : State), step { s with pending := c :: s.pending } = exec c s
    ∧ ∀ rest, s.pending = c :: rest → step s = exec c { s with pending := rest }

/-- With no command the clocks tick, which is this model's choice of a step (log 3): of each domain whose clock runs and that has a
cycle now the counter advances by one (R32), of the others it holds; in a die's CCLK cycle the timers of its cores that are ON count
down to 1 (R60, R62), and a thread may count a yield (R55). While no local ERRRSP waits (log 58), threads, memory, semaphores, Bells and
data caches stay as they are but for that count, and so do the tiles of a core whose arrays are idle. -/
def Obligations.IdleTick : Prop :=
  ∀ s : State, s.pending = [] → (∀ q ∈ s.remotes, q.2.err = 0) → ∃ s', step s = .next s' ∧ s'.pending = [] ∧ s'.ticks = s.ticks + 1
    ∧ (∀ id, s'.count id = if id ∈ domains ∧ id ∉ s.clkOff ∧ Config.cycleAt id s.ticks = true then s.count id + 1 else s.count id)
    ∧ (∀ (c : CoreId) k, s'.timer c.val k =
        if dieOf c.val ∉ s.clkOff ∧ Config.cycleAt (dieOf c.val) s.ticks = true ∧ s.coreOn c.val = true ∧ (s.timer c.val k).en = true ∧ 1 < (s.timer c.val k).count.toNat
        then { s.timer c.val k with count := (s.timer c.val k).count - 1 } else s.timer c.val k)
    ∧ (∀ t, ∃ y, s'.thr t = { s.thr t with yieldCnt := y } ∧ (y = (s.thr t).yieldCnt ∨ y = (s.thr t).yieldCnt + 1
        ∧ dieOf (coreOf t) ∉ s.clkOff ∧ Config.cycleAt (dieOf (coreOf t)) s.ticks = true))
    ∧ s'.mem = s.mem ∧ s'.gran = s.gran ∧ s'.sem = s.sem ∧ s'.clkOff = s.clkOff
    ∧ (∀ c, (s'.core c).bell = (s.core c).bell ∧ (s'.core c).dcache = (s.core c).dcache
      ∧ ((∀ a, a < 2 → (s.arr c a).busy = none) → (s'.core c).tiles = (s.core c).tiles))

/-- What the module holds before power: every thread and context UNALLOTTED (R475), every counter 0 with its clock stopped, no
command waiting, no line valid in a cache, every tile EMPTY and every semaphore 0, no timer or Bell source
active, memory with nothing listed, which reads 0 (log 1). Registers that the manual gives no value for hold the values of logs 20 to 25. -/
def Obligations.ResetState : Prop :=
  State.reset.pending = [] ∧ (∀ t : ThreadId, (State.reset.thr t.val).st = .unallotted)
    ∧ (∀ x, (State.reset.ctx x).st = .unallotted) ∧ (∀ id, State.reset.count id = 0) ∧ (∀ id ∈ domains, id ∈ State.reset.clkOff)
    ∧ (∀ c d e, (State.reset.centry c d e).valid = false) ∧ (∀ c j, State.reset.tileSt c j = 0) ∧ (∀ n, State.reset.semCount n = 0)
    ∧ (∀ c k, (State.reset.timer c k).en = false) ∧ (∀ c, (State.reset.core c).bell.pend = 0) ∧ (∀ n, (State.reset.hubSrc n).pend = false)
    ∧ (∀ a, State.reset.byte a = 0) ∧ (∀ t : ThreadId, ∀ r, (State.reset.thr t.val).rg r = 0)

/-- The state after reset has memory, its detection codes and the semaphores in canonical form. -/
def Obligations.ResetCanonical : Prop := State.reset.Canonical

/-- Every step keeps memory, its detection codes and the semaphores in canonical form: addresses strictly rising and no entry equal
to what an unlisted one reads as. -/
def Obligations.StepKeepsCanonical : Prop :=
  ∀ s s' : State, s.Canonical → step s = .next s' → s'.Canonical

/-- Scalar arithmetic, compares, moves and products: AluRegister, AluImmediate, CompareCountMove and Products together. -/
def Obligations.ScalarArithmetic : Prop := AluRegister ∧ AluImmediate ∧ CompareCountMove ∧ Products

/-- MFS and MTS, and the privilege faults of scalar instructions. Choices and readings of the model in it: log 55. -/
def Obligations.SpecialRegisterAccess : Prop := SpecialRegisters ∧ PrivilegeFaults

/-- B, BL, JR and JLR (R98, R99): the next instruction is the delay slot at PC + 8, the one after it stands at the target, and
BL and JLR write PC + 16 to their link register. -/
def Obligations.Branches : Prop :=
  (∀ (th : Thread) (tg : Word), (th.takeBranch (some tg)).pc = th.pc + 8#64
    ∧ (th.takeBranch (some tg)).delay = some { branch := th.pc, target := tg })
  ∧ ∀ (t : ThreadId) (cond : BitVec 4) (f : BitVec 52) (s : State), Fires s t cond true →
    let pc := (s.thr t.val).pc
    let rel : Word := pc + (f.extractLsb' 0 47).signExtend 64 * 8#64
    let reg : Word := (s.thr t.val).rg (Body.ra f)
    ThreadBy (.b t cond f) s t (fun th => th.takeBranch (some rel))
    ∧ ThreadBy (.bl t cond f) s t (fun th => (th.wg (Body.rd f) (pc + 16#64)).takeBranch (some rel))
    ∧ (Body.resR f = 0 → reg.toNat % 8 = 0 →
        ThreadBy (.jr t cond f) s t (fun th => th.takeBranch (some reg))
        ∧ ThreadBy (.jlr t cond f) s t (fun th => (th.wg (Body.rd f) (pc + 16#64)).takeBranch (some reg)))
    ∧ (Body.resR f = 0 → reg.toNat % 8 ≠ 0 →
        exec (.jr t cond f) s = .next ((s.fetch t.val).2.takeExc t.val { code := 8, xaddr := reg } (s.thr t.val).pos)
        ∧ exec (.jlr t cond f) s = .next ((s.fetch t.val).2.takeExc t.val { code := 8, xaddr := reg } (s.thr t.val).pos))

/-- Retirement with delay slots and block repeat, and RPT itself. -/
def Obligations.RetirementAndLoops : Prop := Retirement ∧ BlockRepeat

/-- Exception entry, skid and stop, system entry and the returns. -/
def Obligations.ExceptionsAndReturns : Prop := ExceptionEntry ∧ SkidAndStop ∧ SystemEntryAndReturn

/-- LD and SD past the data cache: memory of this module, register space, the host window and other modules. Choices and readings of the model in it: logs 33, 58. -/
def Obligations.PlainMemoryAccess : Prop := LoadsFromMemory ∧ StoresToMemory ∧ FarAccess

/-- LD and SD that hit the data cache, PRF and the cache operations. -/
def Obligations.CachesAndOperations : Prop := CachedAccess ∧ CacheOperations

/-- CACHE_FILL and LOAD_DATA_RETURNS (R70, R91, R114, R126, R507): a fill that no other miss waits behind writes the line that memory or
another module gave into its entry, with the waiting stores applied in order, and gives a load that joined it its value; a fill with
poison leaves the entry empty; no data, no fill. The oldest result under way from a pipe, memory or a semaphore is formed, sets its
flags, and is written once it is due. -/
def Obligations.FillsAndReturns : Prop :=
  (∀ (c : CoreId) (d : Bool) (e : Fin 48) (err : CacheErr) (s : State) (x : CEntry), s.centry c.val d e.val = x →
    let base (i : Nat) : Byte := match x.remote with
      | some l => (l.getD (i / 32) ([], false)).1.getD (i % 32) 0
      | none => s.byte (localOf (x.la * 256) + i)
    let whole : Prop := match x.remote with
      | some l => l.length = 8 ∧ ∀ g ∈ l, g.1.length = 32
      | none => x.awaits = false
    let poisoned : Prop := match x.remote with
      | some l => ∃ g ∈ l, g.2 = true
      | none => ∃ i, i < 8 ∧ s.bad (localOf (x.la * 256) / 32 + i) x.tag = true
    let still (t : Nat) : Prop := (s.thr t).pend = [] ∧ (s.thr t).excWait = none ∧ (s.thr t).far = []
    let r (s' : State) := s'.centry c.val d e.val
    let taken (s' : State) : Prop := (r s').valid = true ∧ (r s').inflight = false ∧ (r s').la = x.la
      ∧ (r s').dirty = decide (x.stores ≠ []) ∧ (r s').err = err
      ∧ (∀ i, i < 256 → lineByte (r s').data i = storesOver base x.stores i) ∧ MemOutside s s' 0 0
    (x.inflight = false ∨ (x.awaits = true ∧ x.remote = none) → exec (.cacheFill c d e err) s = .next s)
    ∧ (x.inflight = true → whole → ¬ poisoned → (s.core c.val).misses d = [] →
      (d = true → ∀ i, i < 16 → still (c.val * 16 + i)) →
      ∃ s', exec (.cacheFill c d e err) s = .next s' ∧ taken s' ∧ ∀ t, s'.thr t = s.thr t)
    ∧ (x.inflight = true → whole → ¬ poisoned → (s.core c.val).misses d = [] → d = true → ∀ (k : Fin 16) p rd w off size sx n,
      let t := c.val * 16 + k.val
      (∀ i, i < 16 → i ≠ k.val → still (c.val * 16 + i)) → (s.thr t).excWait = none → (s.thr t).far = [] →
      (s.thr t).pend = [p] → p.src = .line x.la off size sx n → p.writes = [.g rd w] → p.left ≠ 0 → size ∈ [1, 2, 4, 8] → off + size ≤ 256 →
      ∃ s' v, exec (.cacheFill c d e err) s = .next s' ∧ taken s' ∧ HoldsBytes v size sx (fun i => storesOver base (x.stores.take n) (off + i))
        ∧ s'.thr t = { s.thr t with pend := [{ p with src := .ready, writes := [.g rd v] }] } ∧ ∀ u, u ≠ t → s'.thr u = s.thr u)
    ∧ (x.inflight = true → whole → poisoned → (s.core c.val).misses d = [] → (d = true → ∀ i, i < 16 → still (c.val * 16 + i)) →
      ∃ s', exec (.cacheFill c d e err) s = .next s' ∧ (r s').valid = false ∧ (r s').inflight = false))
  ∧ (∀ (t : ThreadId) (s : State) (l r : List Pend) (p : Pend), (s.thr t.val).pend = l ++ p :: r → (∀ q ∈ l, s.returning t.val q = false) →
    (∀ q ∈ l ++ r, Pend.due q = false) → (s.thr t.val).excWait = none →
    ((s.thr t.val).sr.st.getLsbD 12 = false ∨ p.flags &&& (s.thr t.val).atrap = 0) →
    (p.src = .unit ∨ p.src = .load →
      (p.left ≠ 0 → ThreadBy (.loadDataReturns t) s t (fun th =>
        { th with aflags := th.aflags ||| p.flags, pend := l ++ { p with src := .ready } :: r }))
      ∧ (p.left = 0 → ThreadBy (.loadDataReturns t) s t (fun th =>
        { ({ th with aflags := th.aflags ||| p.flags } : Thread).apply p.writes with pend := l ++ r })))
    ∧ ∀ n rd w v a b, p.src = .sem n → p.writes = [.g rd w] → p.left = 0 → s.readReply = a ++ (t.val, n, v) :: b →
      (∀ q ∈ a, ¬ (q.1 = t.val ∧ q.2.1 = n)) → ∃ s', exec (.loadDataReturns t) s = .next s' ∧ SemOnly s s' t.val ∧ s'.readReply = a ++ b
        ∧ s'.thr t.val = { ({ s.thr t.val with aflags := (s.thr t.val).aflags ||| p.flags } : Thread).wg rd (v.zeroExtend 64) with pend := l ++ r })
  ∧ ∀ (t : ThreadId) (s : State), (∀ q ∈ (s.thr t.val).pend, s.returning t.val q = false) → exec (.loadDataReturns t) s = .next s

/-- MOVS, FILLS, SCANS and CMPS. Choices and readings of the model in it: logs 53, 61. -/
def Obligations.StringInstructions : Prop := StringEdges ∧ FillAndScan ∧ CopyAndCompare

/-- R86: an instruction with a legal encoding whose COND does not hold retires with no effect on anything, whatever it would have done; a
branch or jump then is one that is not taken, and its delay slot still follows (R99). R81, R100, R104: with an illegal encoding, with
the reserved COND or at a barred position, as a branch, RPT, SYSCALL, SYSRET or XRET is in a delay slot, an instruction takes ILLEGAL
whatever its COND. A word with an opcode that no table assigns, a cache operation with RD 6 to 31 (R97) and a TEW with OP 4 to 7 (R233)
take ILLEGAL. -/
def Obligations.ConditionsAndIllegal : Prop :=
  ∀ (t : ThreadId) (cond : BitVec 4) (f : BitVec 52) (s : State), s.mayIssue t.val = true → (s.fetch t.val).1 = .ready →
    (cond ≠ 15#4 → (s.thr t.val).posIllegal false = false → condHolds cond (s.thr t.val).sr.st = false → ∀ mk, Skippable mk f →
      LegalBody mk false f → ThreadStep (mk t cond f) s t id)
    ∧ (cond ≠ 15#4 → (s.thr t.val).posIllegal true = false → condHolds cond (s.thr t.val).sr.st = false →
      (∀ mk ∈ branchOps, LegalBody mk true f → ThreadBy (mk t cond f) s t (fun th => th.takeBranch none))
      ∧ ∀ mk ∈ barredOps, LegalBody mk true f → ThreadStep (mk t cond f) s t id)
    ∧ (cond = 15#4 ∨ (s.thr t.val).delay ≠ none ∨ (s.thr t.val).atLe = true → ∀ mk ∈ branchOps ++ barredOps, exec (mk t cond f) s
        = .next ((s.fetch t.val).2.takeExc t.val { code := 3, xaddr := 0 } (s.thr t.val).pos))
    ∧ (cond = 15#4 ∨ (s.thr t.val).posIllegal false = true → ∀ mk, Skippable mk f → exec (mk t cond f) s
        = .next ((s.fetch t.val).2.takeExc t.val { code := 3, xaddr := 0 } (s.thr t.val).pos))
    ∧ ((∀ n : Fin 14, Body.resR f ≠ 0 → exec ((regOps.getD n.val .add) t cond f) s
        = .next ((s.fetch t.val).2.takeExc t.val { code := 3, xaddr := 0 } (s.thr t.val).pos))
    ∧ (6 ≤ Body.rd f → ∀ mk ∈ ([.dcwb, .dcwbi, .dcinv, .icinv, .icinvall, .dcwbiall] : List Mk), exec (mk t cond f) s
        = .next ((s.fetch t.val).2.takeExc t.val { code := 3, xaddr := 0 } (s.thr t.val).pos))
    ∧ (4 ≤ Body.modeA f → ∀ mk ∈ ([.tewAdd, .tewMul, .tewMax, .tewScale] : List Mk), exec (mk t cond f) s
        = .next ((s.fetch t.val).2.takeExc t.val { code := 3, xaddr := 0 } (s.thr t.val).pos))
    ∧ ∀ w : Word, fld w 59 52 ∉ assignedOps →
        exec (.unassignedOpcode t w) s
          = .next ((s.fetch t.val).2.takeExc t.val { code := 3, xaddr := 0 } (s.thr t.val).pos))

/-- WAIT: its issue and its ends. Choices and readings of the model in it: log 60. -/
def Obligations.WaitInstruction : Prop := WaitIssue ∧ WaitEnds

/-- SIG, SEMRD, SEMSET and the service of a semaphore. Choices and readings of the model in it: logs 60, 61. -/
def Obligations.Semaphores : Prop := SignalReadSet ∧ SemaphoreService

/-- FENCE and TSYNC (R96, R127, R195): FENCE holds while a load, a store or a write-back is outstanding, not for a result of the vector unit, TSYNC while tile work is;
else they retire, and an arithmetic exception that is pending outside a handler is taken after them. -/
def Obligations.FenceAndTileSync : Prop :=
  ∀ (t : ThreadId) (cond : BitVec 4) (f : BitVec 52) (s : State), Fires s t cond false → f = 0 → CleanCache s (coreOf t.val) →
    let th := (s.thr t.val).retire
    let done (i : Instr) : Prop :=
      (th.aflags &&& th.atrap = 0 ∨ th.sr.st.getLsbD 14 = true ∨ th.sr.st.getLsbD 15 = true → ThreadStep i s t id)
      ∧ (th.aflags &&& th.atrap ≠ 0 → th.sr.st.getLsbD 14 = false → th.sr.st.getLsbD 15 = false →
        ∃ s1, exec i s = .next (s1.takeExc t.val { code := 13, xaddr := 0 } th.pos) ∧ s1.thr t.val = th ∧ Kept s s1 t.val)
    ((∀ p ∈ (s.thr t.val).pend, p.src = .ready ∨ p.src = .unit) → s.storeWaits t.val = false → s.remoteWrites t.val = [] →
      done (.fence t cond f))
    ∧ ((∃ p ∈ (s.thr t.val).pend, p.src ≠ .ready ∧ p.src ≠ .unit) ∨ s.storeWaits t.val = true ∨ s.remoteWrites t.val ≠ [] →
      ThreadBy (.fence t cond f) s t id)
    ∧ (s.tileWork t.val = false → done (.tsync t cond f))
    ∧ (s.tileWork t.val = true → ThreadBy (.tsync t cond f) s t id)

/-- Thread control (R44 to R48, Table CORE-2): RUN makes a HALTED thread run, HALT asks a running one to stop, which it does at a
boundary that R135 allows, CLEAR makes a STOPPED one HALTED; RUN of an UNALLOTTED or STOPPED thread only
reports, and so does RUN in a partition that is blocked, with GEAR_BLOCKED in place of any other code (R418, R487). -/
def Obligations.ThreadControl : Prop :=
  ∀ (t : ThreadId) (s : State), RegOpen s → s.coreOn (coreOf t.val) = true →
    ((s.thr t.val).st = .halted → s.blockedPart (s.core (coreOf t.val)).part = false →
      exec (.thrCtlRun t) s = .next (s.setThr t.val { s.thr t.val with st := .running, haltReq := false }))
    ∧ ((s.thr t.val).st = .unallotted ∨ (s.thr t.val).st = .stopped → s.blockedPart (s.core (coreOf t.val)).part = false →
      exec (.thrCtlRun t) s = .next (s.raiseCore (coreOf t.val) 0x0102 3 t.val (s.thr t.val).st.code))
    ∧ (s.blockedPart (s.core (coreOf t.val)).part = true →
      exec (.thrCtlRun t) s = .next (s.raiseCore (coreOf t.val) 0x0A03 3 t.val 1))
    ∧ ((s.thr t.val).st = .running → exec (.thrCtlHalt t) s = .next (s.setThr t.val { s.thr t.val with haltReq := true }))
    ∧ ((s.thr t.val).st ≠ .running → exec (.thrCtlHalt t) s = .next s)
    ∧ ((s.thr t.val).st = .stopped → ∃ s', exec (.thrCtlClear t) s = .next s'
      ∧ s'.thr t.val = { s.thr t.val with st := .halted, haltReq := false } ∧ (∀ u, u ≠ t.val → s'.thr u = s.thr u)
      ∧ s'.hub.haltN = s'.threads.any (fun p => decide (p.2.st = .stopped)))
    ∧ ((s.thr t.val).st ≠ .stopped → exec (.thrCtlClear t) s = .next s)
    ∧ ((s.thr t.val).haltReq = true → (s.thr t.val).st = .running → s.mayStop t.val = true → s.latchedFor t.val = false →
      ∃ s', exec (.threadHaltAtBoundary t) s = .next s' ∧ (∀ u, u ≠ t.val → s'.thr u = s.thr u)
        ∧ (s'.thr t.val).st = .halted ∧ (s'.thr t.val).haltReq = false ∧ (s'.thr t.val).wait = none
        ∧ (s'.thr t.val).pc = (s.thr t.val).pc ∧ (s'.thr t.val).sr = (s.thr t.val).sr ∧ (s'.thr t.val).g = (s.thr t.val).g)

/-- Countdown timers (R60, R61) and BELL_SET (R137): an expiry pends the timer's Bell source, and reloads a periodic timer whose
RELOAD is not 0 or stops the timer; writes set the count or the control word, and enabling a timer at count 0 expires it. A write of count
0 to a timer that is enabled leaves EN and expires nothing, where R60 is silent (log 60). -/
def Obligations.TimersAndSoftwareBells : Prop :=
  ∀ (c : CoreId) (k : Fin 4) (v : Word) (s : State),
    let x := s.timer c.val k.val
    let pends (s' : State) : Prop := (s'.core c.val).bell.pend = (s.core c.val).bell.pend ||| BitVec.ofNat 64 (2 ^ k.val)
    let rest (s' : State) : Prop := (∀ d, d ≠ c.val → s'.core d = s.core d) ∧ s'.threads = s.threads
      ∧ ∀ j, j ≠ k.val → s'.timer c.val j = s.timer c.val j
    let expired (y : Timer) : Timer := if y.periodic = true ∧ y.reload ≠ 0 then { y with count := y.reload }
      else { y with count := 0, en := false }
    (x.en = true → x.count = 1 → s.coreOn c.val = true → dieOf c.val ∉ s.clkOff → ∃ s', exec (.timerExpiry c k) s = .next s' ∧ s'.timer c.val k.val = expired x ∧ pends s' ∧ rest s')
    ∧ (RegOpen s → s.coreOn c.val = true →
      (∃ s', exec (.tmrCountWrite c k v) s = .next s' ∧ s'.timer c.val k.val = { x with count := v.truncate 48 } ∧ rest s'
        ∧ (s'.core c.val).bell = (s.core c.val).bell)
      ∧ (let y : Timer := { x with reload := v.extractLsb' 16 48, periodic := v.getLsbD 1, en := v.getLsbD 0 }
        ∃ s', exec (.tmrCtlWrite c k v) s = .next s' ∧ rest s'
          ∧ (if y.en = true ∧ y.count = 0 then s'.timer c.val k.val = expired y ∧ pends s'
            else s'.timer c.val k.val = y ∧ (s'.core c.val).bell = (s.core c.val).bell))
      ∧ (∃ s', exec (.bellSet c v) s = .next s' ∧ rest s' ∧ s'.timer c.val k.val = x
        ∧ (s'.core c.val).bell = { (s.core c.val).bell with
            pend := (s.core c.val).bell.pend ||| ((v &&& 0xF#64) <<< 4) }))

/-- The core Bell latches its winner, and the interrupt thread enters. -/
def Obligations.CoreBell : Prop := BellLatchesWinner ∧ InterruptEntry

/-- The hub Bell, EVT_IN filters and the end of an EVT_OUT pulse. -/
def Obligations.HubBellAndPins : Prop := HubBell ∧ EventPins

/-- R144, R145, R149, R151, R153, R156: the element-wise instructions on integers. Results wrap, or saturate with FN[0] of VADD and
VSUB; shifts take the low bits of VB's element; no flag is set. VAND, VOR and VXOR take the floating types too.
Where the manual is silent it is as log 60 says. -/
def Obligations.VectorIntegers : Prop :=
  ∀ (n : Fin 13) (t : ThreadId) (cond : BitVec 4) (f : BitVec 52) (s : State), Fires s t cond false →
    laneLegal n.val f → Body.et f ≤ 3 ∨ (8 ≤ n.val ∧ n.val ≤ 10 ∧ Body.et f ≤ 6) →
    let th := s.thr t.val
    let w := if Body.et f = 4 ∨ Body.et f = 5 then 2 else if Body.et f = 6 then 4 else 2 ^ Body.et f
    let lane (r k : Nat) := laneOf w (th.rv r).data k
    ∃ r, VecStep ((laneOps.getD n.val .vadd) t cond f) s t [.v (Body.vd f) r] {}
      ∧ lanesAre w (th.rp (Body.psel f)) (Body.zm f) (th.rv (Body.vd f))
        (fun g => ∃ x ∈ laneSrcs n.val f, (th.rv x).poison.getLsbD g = true)
        (fun k => (intLane n.val w (Body.us f) (decide (Body.fn f = 1)) (lane (Body.va f) k) (lane (Body.vb f) k) (lane (Body.vc f) k), {}))
        r {}

/-- R151, R153 to R155: the element-wise instructions on FP16, BF16 and FP32. Each result is the exact value rounded once to nearest
even, NaN results are canonical, and the flags are those of R155. Where the manual is silent it is as logs 32 and 60 say. -/
def Obligations.VectorFloats : Prop :=
  ∀ (n : Fin 16) (t : ThreadId) (cond : BitVec 4) (f : BitVec 52) (s : State), Fires s t cond false →
    laneLegal n.val f → 4 ≤ Body.et f → Body.et f ≤ 6 → Body.us f = false → ¬ (8 ≤ n.val ∧ n.val ≤ 12) →
    let th := s.thr t.val
    let w := if Body.et f = 6 then 4 else 2
    let fm : Fmt := if Body.et f = 4 then ⟨5, 10⟩ else if Body.et f = 5 then ⟨8, 7⟩ else ⟨8, 23⟩
    let lane (r k : Nat) := laneOf w (th.rv r).data k
    ∃ r fl, VecStep ((laneOps.getD n.val .vadd) t cond f) s t [.v (Body.vd f) r] fl
      ∧ lanesAre w (th.rp (Body.psel f)) (Body.zm f) (th.rv (Body.vd f))
        (fun g => ∃ x ∈ laneSrcs n.val f, (th.rv x).poison.getLsbD g = true)
        (fun k => fpLane n.val fm (lane (Body.va f) k) (lane (Body.vb f) k) (lane (Body.vc f) k)) r fl

/-- R154, R160: rounding a finite value to nearest even gives a number of the format that no other number of the format is closer
to, while it does not overflow; the sign is kept. `scaled` is a magnitude in units of 2^(-n). -/
def Obligations.RoundingIsNearest : Prop :=
  ∀ (fm : Fmt), fm ∈ [fp16, bf16, fp32] → ∀ (neg : Bool) (m : Nat) (e : Int) (n : Nat), 0 ≤ e + n → 0 ≤ 1 - fm.bias - fm.mb + n →
    let c := (fm.round .rne (.fin neg m e)).1 % fm.sign
    let scaled (v : FV) : Int := match v with
      | .fin _ k x => (k : Int) * (2 : Int) ^ (x + n).toNat
      | _ => 0
    (fm.round .rne (.fin neg m e)).1 / fm.sign = (if neg then 1 else 0)
      ∧ (c < fm.infCode → ∀ d, d < fm.infCode →
        |scaled (.fin false m e) - scaled (fm.decode c)| ≤ |scaled (.fin false m e) - scaled (fm.decode d)|)

/-- VCMP, VSEL, VBCAST, VPERM, VSLIDE, VEXT, VINS and the predicate operations. Choices and readings of the model in it: logs 53, 60, 61. -/
def Obligations.VectorMoves : Prop := VectorCompareAndMove ∧ VectorScalarsAndPredicates

/-- VRSUM, VRMAX, VRMIN, VCVT, VQMX, VDQMX and VBLKZ. Choices and readings of the model in it: logs 53, 60. -/
def Obligations.VectorReductionsAndConversions : Prop := VectorReductions ∧ VectorConversion ∧ VectorBlocks

/-- The vector loads and stores. -/
def Obligations.VectorMemory : Prop := VectorLoads ∧ VectorStores

/-- TLOAD, TSTORE, the completion of moves and bank gating. -/
def Obligations.TileMovesAndCompletions : Prop := TileMoves ∧ TileCompletions

/-- TZERO, TREL, VTRD, VTWR and TCFG. Choices and readings of the model in it: log 60. -/
def Obligations.TileRowsAndConfiguration : Prop := TileZeroReleaseRows ∧ TileConfiguration

/-- TMMA, TLDACC, TDRAIN and TEW: issue, begin and completion. Choices and readings of the model in it: log 61. -/
def Obligations.ArrayOperations : Prop := ArrayIssue ∧ ArrayBegins ∧ ArrayCompletes

/-- CSAVE and CLOAD. Choices and readings of the model in it: log 28. -/
def Obligations.SaveAndRestore : Prop := CoreSaves ∧ CoreLoads

/-- The control of stream engines and what their descriptors do. Choices and readings of the model in it: log 62. -/
def Obligations.EngineControlAndDescriptors : Prop := EngineControl ∧ EngineDescriptors

/-- SE_READ_RETURN and SE_WRITE_ACCEPTED between memories and tiles of this module (R194, R248 to R251, R261 to R263, R266, R268, R277,
R284, R285). A return brings the next elements into the engine: of a COPY the first holds the bytes at its source address, of a
GATHER, SCATTER, DISPATCH or COMBINE those at the address that its index, routing or map entry gives, and an entry that DISPATCH
drops, or one that COMBINE finds marked absent, moves nothing or zeros; from a READY tile it holds the tile's bytes and the tile
becomes IN-USE, and READY again with the last one. An acceptance writes the buffered element's bytes at its destination in memory or in
the tile, which is LOADING until the last one, and no other byte. After a cancel a return goes into the sink (R280). Requests need a slot of the engine
(R269, R270). -/
def Obligations.EngineElements : Prop :=
  ∀ (x : CtxId) (s : State) (d : DescRun), let k := s.ctx x.val
    let o : XOwner := .engine (engineOf x.val)
    let i0 : Int := (d.rd % d.len 0 : Nat)
    let r := d.rd / d.len 0
    let row0 (m : Nat × Nat) : Option (Nat × Nat) := if i0 = 0 then some m else none
    (ReadsNext s x.val d → d.dstTile = false →
      (d.op = 0 → d.srcTile = false → MemElem s s x.val d (copyAddr d false d.rd) (Enters s x d) (copyAddr d true d.rd) none)
      ∧ (∀ n v s1, d.op = 1 ∨ d.op = 2 → n = (if d.ixw then 8 else 4) → d.srcTile = false →
          s.side x.val ((d.w 0x88).toNat + r * n) n = .ok (v, 0, s1) →
          (d.op = 1 → MemElem s s1 x.val d ((d.w 8).toNat + toI n false v * d.ss 1 + i0 * d.ss 0) (Enters s x d)
            (outerPart d true d.rd + i0 * d.ds 0) none)
          ∧ (d.op = 2 → MemElem s s1 x.val d (outerPart d false d.rd + i0 * d.ss 0) (Enters s x d)
            ((d.w 0x10).toNat + toI n false v * d.ds 1 + i0 * d.ds 0) none))
      ∧ (∀ v s1, d.op = 3 → d.srcTile = false → s.side x.val ((d.w 0x88).toNat + 8 * r) 8 = .ok (v, 0, s1) →
          let ma := ((d.w 0xB0).toNat + 4 * r) % 2 ^ 64
          let rho := kget 0 d.rowsGiven (expertOf v)
          s1.writable x.val ma = true → v / 2 ^ 43 % 32 = 0 → expertOf v < d.nexp → rankOf v < d.k →
          (expertOf v ≠ 255 → rho < d.cap → MemElem s s1 x.val d ((d.w 8).toNat + tokenOf v * d.ss 1 + i0 * d.ss 0) (Enters s x d)
            ((d.w 0x10).toNat + expertOf v * d.estr + rho * d.ds 1 + i0 * d.ds 0) (row0 (ma, rho)))
          ∧ (expertOf v ≠ 255 → d.cap ≤ rho → Enters s x d (fun el d' _ =>
            el.act = 2 ∧ el.map = row0 (ma, 0xFFFFFFFF) ∧ d.dropped < d'.dropped)))
      ∧ (∀ v s1 m s2, d.op = 4 → d.srcTile = false → s.side x.val ((d.w 0x88).toNat + 8 * r) 8 = .ok (v, 0, s1) →
          s1.side x.val ((d.w 0xB0).toNat + 4 * r) 4 = .ok (m, 0, s2) → v / 2 ^ 43 % 32 = 0 → expertOf v < d.nexp → rankOf v < d.k →
          let dst := (d.w 0x10).toNat + (tokenOf v * d.k + rankOf v : Nat) * d.ds 1 + i0 * d.ds 0
          (m < 0xFFFFFFFE → MemElem s s2 x.val d ((d.w 8).toNat + expertOf v * d.estr + m * d.ss 1 + i0 * d.ss 0) (Enters s x d) dst none)
          ∧ (m = 0xFFFFFFFF → Enters s x d (fun el _ _ => el.act = 0 ∧ el.cause = 0 ∧ el.poison = false ∧ el.dst = dst
            ∧ el.bytes = List.replicate d.esz 0)))
      ∧ (d.op = 0 → d.srcTile = true → d.srcHeld = false →
          let c := (d.w 8).toNat / 32 % 512
          let j := (d.w 8).toNat % 32
          let at_ : Int := (d.w 8).toNat / 2 ^ 14 % 32 * 128 + (copyAddr d false d.rd - (d.w 8).toNat)
          s.tileSt c j = 2 → 0 ≤ at_ → at_ + d.esz ≤ 4096 → at_ % d.esz = 0 → Enters s x d (fun el d' s' => el.act = 0 ∧ el.dst = copyAddr d true d.rd
            ∧ el.bytes = (List.range d.esz).map (fun b => rowByte ((s.tile c j).row (at_.toNat / 128)) (at_.toNat % 128 + b))
            ∧ el.poison = ((s.tile c j).row (at_.toNat / 128)).poison.getLsbD (at_.toNat % 128 / 32)
            ∧ (s'.tile c j).rows = (s.tile c j).rows ∧ s'.tileSt c j = (if d'.rd = d.total then 2 else 3))))
    ∧ (∀ va n leaf level pa, va < 2 ^ 64 → 0 < n → va % 256 + n ≤ 256 → s.xlat o k.part k.pv .read va = .ok leaf level pa → s.isLocal pa = true →
        s.isMem (localOf pa) = true → s.anyBad (localOf pa) n (leafTag leaf) = false →
        ∃ s1, s.side x.val va n = .ok (numAt s (localOf pa) n, 0, s1) ∧ MemOutside s s1 0 0 ∧ s1.threads = s.threads)
    ∧ (∀ el : Elem, WritesNext s x.val d el →
      (d.dstTile = false →
        ∀ leaf level pa, s.xlat o k.part k.pv .write (el.dst % 2 ^ 64).toNat = .ok leaf level pa → s.isLocal pa = true →
        s.isMem (localOf pa) = true →
        ∃ s', exec (.seWriteAccepted x) s = .next s' ∧ (∀ j, j < d.esz → s'.byte (localOf pa + j) = el.bytes.getD j 0)
          ∧ MemOutside s s' (localOf pa) d.esz ∧ (s'.ctx x.val).done = BitVec.ofNat 64 (d.delivered + 1) ∧ s'.threads = s.threads)
      ∧ (d.dstTile = true → d.dstHeld = false → (d.wr + 1) % d.unitSize = 0 →
        let c := (d.w 0x10).toNat / 32 % 512
        let j := (d.w 0x10).toNat % 32
        let at_ := el.dst.toNat
        s.tileSt c j = (if d.te then 0 else 2) → s.bankOn c j = true → 0 ≤ el.dst → el.dst + d.esz ≤ 4096 →
        ∃ s', exec (.seWriteAccepted x) s = .next s' ∧ MemOutside s s' 0 0 ∧ s'.threads = s.threads
          ∧ (∀ q b, q < 32 → b < 128 → rowByte ((s'.tile c j).row q) b = if at_ ≤ q * 128 + b ∧ q * 128 + b < at_ + d.esz
              then el.bytes.getD (q * 128 + b - at_) 0 else if d.te then 0 else rowByte ((s.tile c j).row q) b)
          ∧ s'.tileSt c j = (if d.rd = d.total then 2 else 1) ∧ (∀ m, m ≠ j → s'.tile c m = s.tile c m)
          ∧ (s'.ctx x.val).done = BitVec.ofNat 64 (d.delivered + 1)))
    ∧ (k.st = .cancelling → 1 < k.sink.length → (∀ d ∈ k.runs, d.ended = false) → ∃ s', exec (.seReadReturn x) s = .next s'
        ∧ (s'.ctx x.val).sink = k.sink.tail
        ∧ (s'.ctx x.val).st = .cancelling ∧ MemOutside s s' 0 0 ∧ s'.threads = s.threads
        ∧ (s'.engine (engineOf x.val)).cancelDropped = (s.engine (engineOf x.val)).cancelDropped + 1)

/-- The pool cache, admission, banks and refresh. -/
def Obligations.MemorySystem : Prop := PoolCache ∧ AdmissionAndBanks

/-- XLAT_INV and its completion (R305), training (R288, R289), package temperature (R312, R472): after a GO no unit of the copy holds a
matching translation, and the completion removes those cached since and ends BUSY once no access through a removed one is open; training done
makes every channel trained, a failed channel only reports; MEM_READY follows with LPDDR6 reading 0, both by the running firmware;
above 85 °C a package sets MEMHOT while the always-on domain is powered. Where the manual is silent it is as log 44 says. -/
def Obligations.MemoryServices : Prop :=
  (∀ (u : Fin 5) (v : Word) (s : State), RegOpen s → v.getLsbD 0 = true → (s.xinvOf u.val).busy = false →
    let vpn : BitVec 36 := v.extractLsb' 16 36
    ∃ s', exec (.xlatInv u v) s = .next s' ∧ s'.threads = s.threads
      ∧ (let x := s'.xinvOf u.val
        x.vpn = vpn ∧ x.part = fld v 3 2 ∧ x.all = v.getLsbD 1 ∧ x.busy = true ∧ x.goVpn = vpn ∧ x.goPart = fld v 3 2
          ∧ x.goAll = v.getLsbD 1)
      ∧ Gone s' u.val (s'.xinvOf u.val)
      ∧ (∀ c, c / 72 ≠ u.val → s'.core c = s.core c))
  ∧ (∀ (u : Fin 5) (s : State), let x := s.invMark u.val (s.xinvOf u.val)
      ((s.xinvOf u.val).busy = false → exec (.xlatInvComplete u) s = .next s)
      ∧ ((s.xinvOf u.val).busy = true → ∃ s', exec (.xlatInvComplete u) s = .next s'
        ∧ s'.xinvOf u.val = { x with busy := s.invOpen x } ∧ Gone s' u.val x ∧ s'.threads = s.threads ∧ s'.mem = s.mem))
  ∧ (∀ s : State, s.power.training = true → s.ref25 = true → s.sec.phase = .running →
      exec (.lpddr6TrainingDone none) s = .next { s with power := { s.power with training := false, trained := true } }
      ∧ ∀ c : Fin 96, ∃ s', exec (.lpddr6TrainingDone (some c)) s = .next s' ∧ s'.power = { s.power with training := false, trained := false }
        ∧ s'.threads = s.threads ∧ s'.mem = s.mem)
  ∧ (∀ (s : State) (i : Image), s.gear.image = some i → s.power.trained = true → s.gear.memReady = false → s.ref25 = true →
      s.sec.phase = .running →
      ∃ s', exec .memReady s = .next s' ∧ s'.gear.memReady = true ∧ ∀ a, a < 0x18000000000 → s'.byte a = 0)
  ∧ ∀ (pkg : Fin 24) (temp : Nat) (s : State),
      (temp ≤ 85 ∨ bit s.power.on 72 = false → exec (.packageOverTemperature pkg temp) s = .next s)
      ∧ (85 < temp → bit s.power.on 72 = true → ∃ s', exec (.packageOverTemperature pkg temp) s = .next s' ∧ s'.power.memhot = true
        ∧ s'.threads = s.threads ∧ s'.power.memT = max s.power.memT temp
        ∧ (s.power.down = false → s'.events = (s.raise .sc 0x80 0x0504 5 (pkg.val / 6 + pkg.val % 6 * 4) temp).events))

/-- Step control and the sequence table (R324, R326, R327, R332 to R334): STEP_CFG takes effect at once while APPLIED is 0 and else waits;
RESET clears STEP and APPLIED; EVAL_OPEN opens a window at APPLIED 0 and else asks for one; EVAL_CLOSE and the limit close it,
counting a deferral when EVAL work stands, and the contexts of the class let in go on; an entry with a reserved code is not written; STEP_TOKENS counts DONE entries that are not
EXCLUDE and adds their tokens. Where the manual is silent it is as log 47 says. -/
def Obligations.StepControl : Prop :=
  ∀ (v : Word) (e : Fin 1024) (s : State), RegOpen s → let c := s.stepc
    (∃ s', exec (.stepCfgWrite v) s = .next s' ∧ StepcOnly s s' (if c.applied = 0 then { c with cfg := v &&& 0xFFFFFFFFFFFC001F#64, cfgWait := none }
        else { c with cfgWait := some (v &&& 0xFFFFFFFFFFFC001F#64) }))
    ∧ (∃ s', exec .stepCtlReset s = .next s' ∧ s'.stepc = { c with step := 0, applied := 0, evpend := false } ∧ s'.threads = s.threads ∧ s'.mem = s.mem
        ∧ ∀ t, (s'.tree t).applied = [])
    ∧ (∃ s', exec .evalOpen s = .next s' ∧ Window s s' (if c.evalOpen then c
        else if c.applied = 0 then { c with evalOpen := true, evpend := false } else { c with evpend := true })
        (!c.evalOpen && decide (c.applied = 0)) .eval)
    ∧ (let shut : StepCtl := if c.evalOpen then { c with evalOpen := false, defer := if s.evalWork then c.defer + 1 else c.defer } else c
      (∃ s', exec .evalClose s = .next s' ∧ Window s s' shut c.evalOpen .step)
      ∧ ∃ s', exec .evalLimitExpiry s = .next s' ∧ Window s s' (if c.limit = 0 then c else shut) (c.evalOpen && decide (c.limit ≠ 0)) .step)
    ∧ (fld v 39 37 ≤ 4 → fld v 35 34 ≠ 3 → fld v 33 32 ≠ 3 → ∃ s', exec (.seqEntryWrite e v) s = .next s' ∧ s'.threads = s.threads
        ∧ ∀ n, s'.seqOf n = if n = e.val then v &&& 0xFFFFFFFF00FFFFFF#64 else s.seqOf n)
    ∧ (5 ≤ fld v 39 37 ∨ fld v 35 34 = 3 ∨ fld v 33 32 = 3 → exec (.seqEntryWrite e v) s
        = .next (s.raise (.seqTab (e.val / 256)) (0x10 + e.val / 256) 0x0608 3 e.val v.toNat))
    ∧ (kwf 0 s.seqEntry = true → (∀ p ∈ s.seqEntry, p.1 < 1024) →
        let counted := (List.range 1024).filter (fun n => decide (fld (s.seqOf n) 33 32 = 2) && decide (fld (s.seqOf n) 35 34 ≠ 2))
        let r : Word := BitVec.ofNat 64 (counted.length * 2 ^ 40 + ((counted.map (fun n => fld (s.seqOf n) 23 0)).sum) % 2 ^ 40)
        exec .stepTokensRead s = .next { s with out := .regRead 0x4F0028 r :: s.out })

/-- Peloton's arithmetic (R344 to R346): an EMPTY child leaves a partial as it is; no code of a partial is the NaN of E4M3; with two
ranks or more, no leaf code of a live block saturates when the agreed byte is at least the leaf's own. -/
def Obligations.PelotonArithmetic : Prop :=
  (∀ a : Option (List Byte), combine a none = (a, 0)) ∧ (∀ v : FV, (e4m3 v).1 % 128 ≤ 126 ∧ (e4m3 v).1 < 256)
  ∧ ∀ (x : List F32) (e : Byte) (n : Nat), x.length = 32 → 2 ≤ n → n ≤ 1024 → (expByte x).toNat ≤ e.toNat → liveByte e = true →
      (leafCodes x (scaleByte e n)).2 = 0 ∧ (leafCodes x (scaleByte e n)).1.length = 32

/-- A hand-off (R200, R202, R319, R322 to R324, R341, R361 to R363, R487), no deadline being past: a blocked partition, barred passes, a tree that
is off or has no rank there and a bucket already applied each report and take nothing; a hand-off after EXP is dropped, and one after SCALE
unless it is the first (log 47); a taken one names its descriptor by PEL_BTAB of that moment, and an ABSENT one is checked and fixes cycle 0
as soon as its descriptor is at hand. HANDOFF_CHECKED takes a lent tile that is READY, rejects what R362 lists, and reads the
contribution of the rest. Where the manual is silent it is as log 45 says. -/
def Obligations.PelotonHandoff : Prop :=
  (∀ (w : Writer) (tr : TreeId) (v : Word) (s : State), RegOpen s →
    ((s.tree tr.val).rank (fld v 14 13) = none ∨ OnTime s tr.val (fld v 11 0) (fld v 14 13)) →
    let t := tr.val
    let b := fld v 11 0
    let d := fld v 14 13
    let x := s.node t b d
    let held : Prop := (s.tree t).en = true ∧ bit s.gear.blocked (s.tree t).part = true
    let both (o : State) : Prop := exec (.handoff w tr v) s = .next o ∧ exec (.handoffAbsent w tr v) s = .next o
    let free : Prop := ∀ k, w = .thread k → (s.thr k.val).pass = .upd ∨ (s.thr k.val).pass = .sys
    (held → both (s.pelEvent t b 0x0A03 evConfig 3))
    ∧ (¬ held → ∀ k, w = .thread k → (s.thr k.val).pass ≠ .upd → (s.thr k.val).pass ≠ .sys →
      both (s.pelEvent t b 0x0607 evConfig (1 + k.val * 256)))
    ∧ (¬ held → free → ((s.tree t).en = false ∨ (s.tree t).rank d = none) → both (s.pelEvent t b 0x0607 evConfig 3))
    ∧ (¬ held → free → (s.tree t).en = true → ∀ r, (s.tree t).rank d = some r →
        (b * 4 + d ∈ (s.tree t).applied ∨ x.res ≠ none → both (s.pelEvent t b 0x0607 evConfig 2))
        ∧ (b * 4 + d ∉ (s.tree t).applied → x.res = none →
          (x.expSent = true ∨ (x.scaled = true ∧ x.started = true) → both s)
          ∧ (x.expSent = false → (x.scaled = true → x.started = false) →
            (∃ s', exec (.handoff w tr v) s = .next s' ∧ s'.threads = s.threads
              ∧ (let y := s'.node t b d
                y.reading = true ∧ y.own = 4 ∧ y.absent = false ∧ y.base = fld (s.tree t).btab 63 9 ∧ y.started = x.started))
            ∧ (x.tile = false →
              let x1 : Node := { x with
                reading := true, absent := true, got := false, base := fld (s.tree t).btab 63 9, own := 1, x := [], exps := [] }
              let y := ((s.setNode t b d x1).readDesc t b d x1).1
              let bad : Prop := y.rej = true ∨ s.overStg t y = true ∨ (y.gtile = true ∧ s.tileFit y ≠ 0)
              ∃ s', exec (.handoffAbsent w tr v) s = .next s' ∧ s'.threads = s.threads
                ∧ (y.got = false → (s'.node t b d).reading = true ∧ (s'.node t b d).started = x.started)
                ∧ (y.got = true → (s'.node t b d).reading = false ∧ (s'.node t b d).started = true
                  ∧ (bad → (s'.node t b d).own = 3 ∧ noted (s'.tree t) b d 2) ∧ (¬ bad → (s'.node t b d).own = 1)
                  ∧ ((∀ c ∈ childrenOf (s.tree t).n r, hasOf x.expIn c) → (s'.node t b d).expSent = true)))))))
  ∧ ∀ (tr : TreeId) (bb : BitVec 12) (d : DieId) (r : Nat) (s : State), (s.tree tr.val).rank d.val = some r → OnTime s tr.val bb.toNat d.val →
    let t := tr.val
    let b := bb.toNat
    let x := s.node t b d.val
    let q := s.readDesc t b d.val x
    let s1 := if x.got then s else q.2.setNode t b d.val q.1
    let y := s1.node t b d.val
    let c := y.gradA / 32 % 512
    let j := y.gradA % 32
    let lends : Prop := y.gtile = true ∧ y.tile = false ∧ y.rej = false ∧ y.absent = false ∧ s1.tileFit y = 0
    let bad : Prop := y.rej = true ∨ s1.overStg t y = true ∨ (y.gtile = true ∧ s1.tileFit y ≠ 0)
    let done (s' : State) : Prop := (s'.node t b d.val).started = true ∧ (s'.node t b d.val).reading = false
    (x.reading = false → exec (.handoffChecked tr bb d) s = .next s)
    ∧ (x.reading = true → y.got = false → exec (.handoffChecked tr bb d) s = .next s1)
    ∧ (x.reading = true → y.got = true → lends →
      (s1.tileSt c j = tReady → ∃ s', exec (.handoffChecked tr bb d) s = .next s'
        ∧ s'.tileSt c j = tInUse ∧ s'.node t b d.val = { y with tile := true } ∧ ∀ i k, s'.bankOn i k = s1.bankOn i k)
      ∧ (s1.tileSt c j ≠ tReady → exec (.handoffChecked tr bb d) s = .next s1))
    ∧ (x.reading = true → y.got = true → ¬ lends →
      (bad → ∃ s', exec (.handoffChecked tr bb d) s = .next s' ∧ done s' ∧ (s'.node t b d.val).own = 3 ∧ noted (s'.tree t) b d.val 2)
      ∧ (¬ bad → y.absent = true → ∃ s', exec (.handoffChecked tr bb d) s = .next s' ∧ done s' ∧ (s'.node t b d.val).own = y.own)
      ∧ (¬ bad → y.absent = false →
        let k := s1.pelAsk t y.gradSpans
        (k.2 = false → exec (.handoffChecked tr bb d) s = .next k.1)
        ∧ (k.2 = true →
          let own := ((k.1.contribution t b d.val y).node t b d.val).own
          ∃ s', exec (.handoffChecked tr bb d) s = .next s' ∧ done s' ∧ (s'.node t b d.val).own = own ∧ (own = 0 ∨ own = 2)
            ∧ (own = 2 → (s'.node t b d.val).exps = [] ∧ noted (s'.tree t) b d.val 1))))

/-- Peloton steps and the agreement of the norm. Choices and readings of the model in it: logs 45, 47. -/
def Obligations.PelotonStepsAndAgreement : Prop := PelotonSteps ∧ PelotonAgreement

/-- Peloton reduction and the gather check. Choices and readings of the model in it: logs 45, 47. -/
def Obligations.PelotonReductionAndGather : Prop := PelotonReduction ∧ PelotonGatherCheck

/-- Deadlines and application (R39, R325, R343, R349, R355, R361, R363, R364): past the EXP deadline a node sends with what is here and
declares each silent child's subtree missing; past the DATA deadline silent children are declared missing; the RESULT deadline only
reports, once; past the check deadline no check of the bucket is left. A bucket is finished once its RESULT is applied and its writes are
accepted; its result is written, and once that is accepted it is closed at the node, signalled, notified, and counts toward the fence.
Where the manual is silent it is as logs 45 and 47 say. -/
def Obligations.PelotonEnds : Prop :=
  ∀ (tr : TreeId) (bb : BitVec 12) (d : DieId) (r : Nat) (s : State), (s.tree tr.val).rank d.val = some r → PelOpen s tr.val →
    let t := tr.val
    let b := bb.toNat
    let x := s.node t b d.val
    let n := (s.tree t).n
    let past (lim : BitVec 32) : Prop := x.started = true ∧ lim.toNat < (s.count 0x40 - x.cyc0).toNat
    (¬ past (s.tree t).dlExp ∨ x.expSent = true → exec (.dlExpExpiry tr bb d) s = .next s)
    ∧ (past (s.tree t).dlExp → x.expSent = false → r ≠ 0 → ∃ s', exec (.dlExpExpiry tr bb d) s = .next s' ∧ (s'.node t b d.val).expSent = true
      ∧ (∀ c ∈ childrenOf n r, ¬ hasOf x.expIn c → c ∈ (s'.node t b d.val).kidMiss)
      ∧ Sent s' t (parentOf r) 1 (fun g => (x.own ≠ 0 → r < 1024 → bit g.missing r = true)
        ∧ ∀ c ∈ childrenOf n r, ¬ hasOf x.expIn c → ∀ k ∈ subtreeOf n c, k < 1024 → bit g.missing k = true))
    ∧ (¬ past (s.tree t).dlData ∨ x.dataSent = true → exec (.dlDataExpiry tr bb d) s = .next s)
    ∧ (past (s.tree t).dlData → x.dataSent = false → r ≠ 0 → ∃ s', exec (.dlDataExpiry tr bb d) s = .next s'
      ∧ (∀ c ∈ childrenOf n r, ¬ hasOf x.dataIn c → c ∈ (s'.node t b d.val).kidMiss) ∧ (x.scaled = true → (s'.node t b d.val).dataSent = true))
    ∧ (past (s.tree t).dlRes → x.scaled = false ∨ x.res = none → x.resSaid = false → exec (.dlResExpiry tr bb d) s
      = .next ((s.setNode t b d.val { x with resSaid := true }).pelEvent t b 0x0602 evDeadline (if x.scaled then 2 else 1)))
    ∧ (¬ past (s.tree t).dlRes ∨ (x.scaled = true ∧ x.res ≠ none) ∨ x.resSaid = true → exec (.dlResExpiry tr bb d) s = .next s)
    ∧ (r ≠ 0 → exec (.dlChkExpiry tr bb d) s = .next s)
    ∧ (r = 0 → ∃ s', exec (.dlChkExpiry tr bb d) s = .next s' ∧ (s'.tree t).checks = (s.tree t).checks.filter (fun k =>
        !(decide (k.bucket = b) && decide ((s.tree t).dlChk.toNat < (s.count 0x40 - k.at_).toNat))))
    ∧ (x.res = none → exec (.bucketApplied tr bb d) s = .next s)
    ∧ ∀ m, x.res = some m → x.applied = true →
      let s0 := s.writeResult t b d.val r x m
      (x.finished n = false ∨ (x.wrote = false ∧ s.pelWrites t = true) → exec (.bucketApplied tr bb d) s = .next s)
      ∧ (x.finished n = true → x.desc ≠ [] → x.wrote = false → s.pelWrites t = false → s0.pelWrites t = true →
        exec (.bucketApplied tr bb d) s = .next (s0.setNode t b d.val { x with wrote := true }))
      ∧ (x.finished n = true → s.pelWrites t = false → x.desc = [] ∨ x.wrote = true ∨ s0.pelWrites t = false →
        ∃ s1 : State, exec (.bucketApplied tr bb d) s = .next s1.pelSettle ∧ s1.node t b d.val = {}
          ∧ (cfgFtree s.stepc.cfg ≠ t ∨ cfgNbkt s.stepc.cfg = 0 → b * 4 + d.val ∈ (s1.tree t).applied)
          ∧ (x.desc ≠ [] → x.nen = true → noted (s1.tree t) b d.val 3)
          ∧ (x.desc ≠ [] → x.asen = true → ∃ q ∈ s1.semQ, q.sem = x.asem ∧ q.who = 0xC000 + t ∧ q.ask = .signal 1)
          ∧ ((∀ e, e < 4 → (s.tree t).rank e = none ∨ e = d.val ∨ b * 4 + e ∈ (s.tree t).applied) → cfgFtree s.stepc.cfg = t →
              cfgNbkt s.stepc.cfg = 0 → s1.stepc.applied = (s.stepc.applied + 1) % 2 ^ 16))

/-- Port states (R382 to R385): training with the expected partner brings the port UP and otherwise DOWN with reason PEER; a timeout, a
host command and a lost lane bring it DOWN with their reasons, a ×8 port that may degrade going on at ×4; a retrain is ignored while
DISABLED. While the port's domain is OFF nothing of its lanes happens (R32). With the cadence port on its lanes 4 to 7, port 7 runs ×4 on
lanes 0 to 3 (R27). Where the manual is silent it is as logs 23 and 46 say. -/
def Obligations.LinkPorts : Prop :=
  ∀ (p : PortId) (s : State), let x := s.port p.val
    let own : Nat := if p.val = 7 ∧ s.cad.enabled = true then 1 else x.width
    let lit := s.power.on.getLsbD (74 + p.val / 4)
    (∀ peer width,
      (x.st ≠ .training ∨ lit = false → exec (.trainingDone p peer width) s = .next s)
      ∧ (x.st = .training → lit = true → peer.toNat = x.peer → width.val = own → ∃ s', exec (.trainingDone p peer width) s = .next s'
        ∧ (s'.port p.val).st = .up ∧ (s'.port p.val).widthNow = own ∧ (s'.port p.val).peerId = x.peer ∧ (s'.port p.val).lanef = 0
        ∧ (s'.port p.val).chg = true)
      ∧ (x.st = .training → lit = true → (peer.toNat ≠ x.peer ∨ width.val ≠ own) → ∃ s', exec (.trainingDone p peer width) s = .next s'
        ∧ WentDown s s' p.val 4 ∧ (s'.port p.val).peerId = peer.toNat ∧ (s'.port p.val).widthNow = width.val))
    ∧ (x.st ≠ .training ∨ lit = false → exec (.trainingTimeout p) s = .next s)
    ∧ (x.st = .training → lit = true → ∃ s', exec (.trainingTimeout p) s = .next s' ∧ WentDown s s' p.val 2)
    ∧ (RegOpen s → (x.st = .down ∨ x.st = .disabled → exec (.lnkCtlDown p) s = .next s)
      ∧ (x.st ≠ .down → x.st ≠ .disabled → ∃ s', exec (.lnkCtlDown p) s = .next s' ∧ WentDown s s' p.val 5)
      ∧ (x.st = .disabled → exec (.lnkCtlRetrain p) s = .next s)
      ∧ (x.st ≠ .disabled → ∃ s', exec (.lnkCtlRetrain p) s = .next s' ∧ (s'.port p.val).st = .training
        ∧ (s'.port p.val).widthNow = own ∧ (x.st ≠ .training → (s'.port p.val).chg = true) ∧ s'.mem = s.mem
        ∧ ∀ q, q ≠ p.val → s'.port q = s.port q))
    ∧ ∀ lanes, let hit := lanes &&& lanesOf x.widthNow
      let bad := x.lanef ||| hit
      (x.live = false ∨ lit = false ∨ hit = 0 → exec (.laneLossOfLock p lanes) s = .next s)
      ∧ (x.live = true → lit = true → hit ≠ 0 → x.widthNow = 0 → x.degrade = true → (bad &&& 0x0F#8 = 0 ∨ bad &&& 0xF0#8 = 0) →
        ∃ s', exec (.laneLossOfLock p lanes) s = .next s' ∧ (s'.port p.val).st = .degraded ∧ (s'.port p.val).lanef = bad
          ∧ (s'.port p.val).widthNow = (if bad &&& 0x0F#8 = 0 then 1 else 2) ∧ s'.mem = s.mem)
      ∧ (x.live = true → lit = true → hit ≠ 0 → (x.widthNow ≠ 0 ∨ x.degrade = false ∨ (bad &&& 0x0F#8 ≠ 0 ∧ bad &&& 0xF0#8 ≠ 0)) →
        ∃ s', exec (.laneLossOfLock p lanes) s = .next s' ∧ WentDown s s' p.val 1 ∧ (s'.port p.val).lanef = bad)

/-- Frames, replay and stalled credits (R368 to R377): a bad frame changes nothing but the counts and asks for a replay, and a flit out of
order is discarded; the next flit in order is acknowledged and its slots freed; an acknowledgment and credits are taken from every good
frame; an expired acknowledgment replays what waits, and a flit's eighth replay brings the port DOWN.
Where the manual is silent it is as log 46 says. -/
def Obligations.LinkFrames : Prop :=
  ∀ (p : PortId) (s : State), let q := p.val
    let x := s.port q
    let lit := s.power.on.getLsbD (74 + p.val / 4)
    (∀ f : Frame, let counted := (s.linkCount q 0 f.corrected).linkCount q 1 f.uncorrectable
      let taken := counted.updPort q (fun y => (y.acked f.ack).credited (f.crvc.val * 2 + b2n f.crh) f.crn)
      (x.live = false ∨ lit = false → exec (.frameReceived p f) s = .next s)
      ∧ (x.live = true → lit = true → (f.crcGood = false ∨ f.uncorrectable ≠ 0) → ∃ s', exec (.frameReceived p f) s = .next s'
          ∧ CtlFrame counted s' q true)
      ∧ (x.live = true → lit = true → f.crcGood = true → f.uncorrectable = 0 → f.nak = false →
        (f.usemap = 0 → exec (.frameReceived p f) s = .next (taken.drainPort q))
        ∧ (f.usemap ≠ 0 → f.seq ≠ (taken.port q).rxSeq + 1 → exec (.frameReceived p f) s = .next (taken.drainPort q))
        ∧ (f.usemap ≠ 0 → f.seq = (taken.port q).rxSeq + 1 → ∃ s1 : State, exec (.frameReceived p f) s = .next (s1.drainPort q)
          ∧ (s1.port q).rxSeq = f.seq ∧ s1.mem = s.mem
          ∧ (∃ a b : State, (a.port q).rxSeq = f.seq ∧ CtlFrame a b q false ∧ ∀ o ∈ b.out, o ∈ s1.out)
          ∧ kget 0 (s1.port q).crFreed (f.vc.val * 2 + b2n f.half)
            = (kget 0 x.crFreed (f.vc.val * 2 + b2n f.half) + (List.range 8).countP (fun i => f.usemap.getLsbD i)) % 1024)))
    ∧ (∀ f : Frame, x.live = true → lit = true → f.crcGood = true → f.uncorrectable = 0 → f.nak = true → f.usemap = 0 →
        let taken := (s.linkCount q 0 f.corrected).updPort q (fun y => (y.acked f.ack).credited (f.crvc.val * 2 + b2n f.crh) f.crn)
        let l := (taken.port q).replay
        (l = [] → exec (.frameReceived p f) s = .next (taken.drainPort q))
        ∧ ((∀ e ∈ l, e.tries < 7) → ∃ s1 : State, exec (.frameReceived p f) s = .next (s1.drainPort q) ∧ Replayed s1 q l)
        ∧ ((∃ e ∈ l, 7 ≤ e.tries) → ∃ s', exec (.frameReceived p f) s = .next s' ∧ WentDown s s' q 3))
    ∧ (x.live = false ∨ lit = false ∨ x.replay = [] → exec (.ackTimeout p) s = .next s)
    ∧ (x.live = true → lit = true → (∀ e ∈ x.replay, e.tries < 7) → ∃ s', exec (.ackTimeout p) s = .next s' ∧ Replayed s' q x.replay
        ∧ kget 0 (s'.port q).cnt 2 = kget 0 x.cnt 2 + BitVec.ofNat 64 x.replay.length)
    ∧ (x.live = true → lit = true → (∃ e ∈ x.replay, 7 ≤ e.tries) → ∃ s', exec (.ackTimeout p) s = .next s' ∧ WentDown s s' q 3)
    ∧ ∀ (vc : Fin 4) (h : Bool), let k := vc.val * 2 + b2n h
      exec (.creditStallExpiry p vc h) s = .next (if kget [] x.queue k = [] ∨ k ∈ x.stalled ∨ lit = false then s
        else (s.setPort q { x with stalled := x.stalled ++ [k] }).portEvent q 0x0704 evDeadline (q + vc.val * 16 + b2n h * 64) 0)

/-- RD and WR at the target (R378, Table LNK-6): a request for another module changes nothing here; a failed check answers ERRRSP with the
code of the first failed one, a denial reported; else RD answers the granules with their poison, and WR stores the enabled bytes and
acknowledges. Where the manual is silent it is as log 58 says. -/
def Obligations.RemoteService : Prop :=
  ∀ (p : PortId) (m : LinkMsg) (s : State), let a := m.addr.toNat
    let n := m.nslot.toNat
    let size := max 1 (32 * n)
    let denied := s.portEvent p.val 0x0706 evSecurity a m.sid.toNat
    let good (w : Bool) : Prop := badHeader m = false ∧ memSpace a = true ∧ s.exported m.sid.toNat w a size = true
      ∧ ∀ b ∈ blocks a size, s.isMem (b * 64) = true
    let turned (o : Host.Outcome State Fault Refusal) (w : Bool) : Prop :=
      (badHeader m = true → Answers s o m 5 (fun r => r.arg = 6))
      ∧ (badHeader m = false → memSpace a = false → Answers s o m 5 (fun r => r.arg = 2))
      ∧ (badHeader m = false → memSpace a = true → s.exported m.sid.toNat w a size = false → Answers denied o m 5 (fun r => r.arg = 2))
      ∧ (badHeader m = false → memSpace a = true → s.exported m.sid.toNat w a size = true → (∃ b ∈ blocks a size, s.isMem (b * 64) = false) →
          Answers s o m 5 (fun r => r.arg = 1))
    (m.did ≠ s.lnkId → exec (.lnkRd p m) s = .next s ∧ exec (.lnkWr p m) s = .next s)
    ∧ (m.did = s.lnkId → turned (exec (.lnkRd p m) s) false ∧ turned (exec (.lnkWr p m) s) true)
    ∧ (m.did = s.lnkId → good false → ∃ s1 : State, s1.mem = s.mem ∧ s1.gran = s.gran
        ∧ Answers s1 (exec (.lnkRd p m) s) m 3 (fun r => r.nslot = m.nslot ∧ r.data.length = n
          ∧ ∀ i, i < n → r.data[i]? = some { bytes := s.bytes (a + 32 * i) 32, poison := s.bad (a / 32 + i) m.ctag }))
    ∧ (m.did = s.lnkId → m.op = 2 → good true → (∀ g ∈ m.data, g.bytes.length = 32) → let bs := m.data.flatMap (·.bytes)
        ∃ s1 : State, Answers s1 (exec (.lnkWr p m) s) m 4 (fun r => r.data = [])
          ∧ (n = 2 → ∀ b, s1.byte b = if a ≤ b ∧ b < a + 64 ∧ m.arg.getLsbD (b - a) = true then bs.getD (b - a) 0 else s.byte b)
          ∧ (n ≠ 2 → ∀ b, s1.byte b = if a ≤ b ∧ b < a + 32 * n then bs.getD (b - a) 0 else s.byte b))

/-- Answers at the requester (R379 to R381): one to nothing outstanding is discarded and counted; another ends its request; a store that
is refused reports, a fill takes its granules; a timeout reports, is counted and ends the request, unless its local ERRRSP already
waits (log 58). -/
def Obligations.RemoteAnswers : Prop :=
  ∀ (m : LinkMsg) (s : State), let i := m.xid.toNat
    let r := kget {} s.remotes i
    let ended : State := { s with remotes := kerase s.remotes i }
    let all (p : Host.Outcome State Fault Refusal → Prop) : Prop := p (exec (.rdrsp m) s) ∧ p (exec (.wrack m) s) ∧ p (exec (.errrsp m) s)
    (m.did ≠ s.lnkId → all (fun o => o = .next s))
    ∧ (m.did = s.lnkId → r.kind = .none → all (fun o => o = .next (s.linkCount (kget ({} : Route) s.routes m.sid.toNat).port 3)))
    ∧ (m.did = s.lnkId → r.kind ≠ .none → (∀ x, r.kind ≠ .seWrite x ∧ r.kind ≠ .seMap x) → all (fun o => ∃ s', o = .next s' ∧ (kget {} s'.remotes i).kind = .none
        ∧ (∀ j, j ≠ i → kget {} s'.remotes j = kget {} s.remotes j) ∧ ∀ b, s'.byte b = s.byte b))
    ∧ (m.did = s.lnkId → (∃ t, r.kind = .store t) ∨ (∃ c, r.kind = .wback c) → exec (.wrack m) s = .next ended
        ∧ exec (.errrsp m) s = .next (ended.raiseHub 0x0707 evPoisoned r.addr (max 1 (fld m.arg 7 0))))
    ∧ (m.did = s.lnkId → ∀ c data e, r.kind = .fill c data e → (s.centry c data e).inflight = true →
        exec (.rdrsp m) s = .next (ended.setCentry c data e { s.centry c data e with
          remote := some ((List.range 8).map (fun g => (((m.data.flatMap (·.bytes)).drop (32 * g)).take 32,
            Answer.bad (m.data.flatMap (·.bytes), m.data.map (·.poison), 0) (32 * g)))) }))
    ∧ ∀ xid : BitVec 32, let q := kget {} s.remotes xid.toNat
      (q.kind = .none ∨ q.err ≠ 0 → exec (.localTimeout xid) s = .next s)
      ∧ (q.kind ≠ .none → q.err = 0 → exec (.localTimeout xid) s = .next ((((s.raiseHub 0x0705 evDeadline q.addr (devOf q.addr)).linkCount
          (kget ({} : Route) s.routes (devOf q.addr)).port 5)).answer xid.toNat 5 [] []))

/-- Genlock, raster and lanes (R387, R391 to R394, R401): in ACQUIRE two edges one frame apart within SYNCTOL lock the port, and FS(F) is
the second edge; in LOCKED an edge outside SYNCTOL or a missing edge gives FLYWHEEL and its event; loss of the reference gives HOLDOVER;
FNUM goes up once its period is over and FS by FTOTAL, across the wrap too (the lock is taken on the raster that was applied, the
prediction keeps the earlier one until then); a RELOCK takes effect at a frame start without covered
slices ahead; lane training clears and sets LINK. Where the manual is silent it is as log 40 says. -/
def Obligations.CadenceGenlock : Prop :=
  ∀ s : State, let k := s.cad
    let e := s.vnow
    let near (e1 : Nat) : Prop := e ≤ e1 + frameTotal k.raster + k.synctol ∧ e1 + frameTotal k.raster ≤ e + k.synctol
    (k.gl = .acquire → k.pll = true → (∀ e1, k.edge = some e1 → ¬ near e1) → exec .cadSyncEdge s = .next { s with cad := { k with edge := some e } })
    ∧ (k.gl = .acquire → k.pll = true → ∀ e1, k.edge = some e1 → near e1 → k.rlpend = false → ∃ s', exec .cadSyncEdge s = .next s'
        ∧ s'.cad.gl = .locked ∧ s'.cad.fnum = (if k.relock then k.fnum + 1 else 0) ∧ s'.cad.fs = e ∧ s'.cad.relock = true ∧ s'.cad.held = none)
    ∧ (k.gl = .locked → let s1 : State := { s with cad := { k with edge := some e } }
        ((k.offset e).1.natAbs ≤ k.synctol → exec .cadSyncEdge s = .next s1)
        ∧ (k.synctol < (k.offset e).1.natAbs → exec .cadSyncEdge s = .next ((s1.genlock .flywheel).cadEvent 0x0802 evDeadline
            (locV 0 0 (k.offset e).2) (BitVec.ofInt 64 (k.offset e).1).toNat)))
    ∧ (k.gl ≠ .locked → (k.gl ≠ .acquire ∨ k.pll = false) → exec .cadSyncEdge s = .next s)
    ∧ exec .syncMissing s = .next (if k.gl = .locked ∧ k.fs + k.synctol ≤ e ∧ (∀ e1, k.edge = some e1 → e1 + k.synctol < k.fs)
        then (s.genlock .flywheel).cadEvent 0x0802 evDeadline (locV 0 0 k.fnum) 0 else s)
    ∧ (let s1 : State := { s with cad := { k with refclk := false, pll := false } }
      exec .cadRefclkLoss s = .next (if k.gl = .locked ∨ k.gl = .flywheel
        then (s1.genlock .holdover).cadEvent 0x0803 evDeadline (locV 0 0 k.fnum) 0
        else if k.gl = .holdover then s1 else { s1 with clkOff := insertNat s1.clkOff 0x70 }))
    ∧ (s.ref25 = false → exec .vclkPllLock s = .next { s with cad := { k with refclk := true } })
    ∧ (s.ref25 = true → ∃ s', exec .vclkPllLock s = .next s' ∧ s'.cad.pll = true ∧ s'.cad.refclk = true ∧ s'.cad.gl = k.gl
        ∧ (s.power.on.getLsbD 77 = true → 0x70 ∉ s'.clkOff) ∧ s'.threads = s.threads ∧ s'.mem = s.mem)
    ∧ (k.relock = true → k.gl ≠ .off → k.fs + k.ftotal ≤ e → ∃ s', exec .frameStart s = .next s' ∧ s'.cad.fnum = k.fnum + 1
        ∧ s'.cad.fs = (k.fs + k.ftotal) % 2 ^ 64 ∧ (k.rlpend = false → s'.cad.gl = k.gl)
        ∧ (k.rlpend = true → k.refclk = true → (∀ j ∈ k.jobs, s'.cad.check j.frame (j.first + j.nsl - 1) ≤ e) →
            s'.cad.gl = .acquire ∧ s'.cad.rlpend = false)
        ∧ (k.rlpend = true → (∃ j ∈ k.jobs, (e : Int) < s'.cad.check j.frame (j.first + j.nsl - 1)) → s'.cad.gl = k.gl ∧ s'.cad.rlpend = true))
    ∧ (k.relock = false ∨ k.gl = .off ∨ e < k.fs + k.ftotal → exec .frameStart s = .next s)
    ∧ (RegOpen s → exec .cadCtlRelock s = .next { s with cad := { k with rlpend := true } }
        ∧ exec .cadCtlRetrain s = .next { s with cad := { k with link := false, lanesTrain := decide (k.gl ≠ .off) } })
    ∧ exec .cadenceRetrainDone s = .next (if k.gl = .off ∨ k.lanesTrain = false then s
        else { s with cad := { k with link := true, lanesTrain := false } })
    ∧ ∀ lanes : BitVec 4, exec (.cadenceLaneLossOfLock lanes) s = .next (if k.link = true ∧ lanes ≠ 0
        then { s with cad := { k with link := false } }.cadEvent 0x0804 evFatal 0 lanes.toNat else s)

/-- Commits, fetched slices and decisions (R395 to R397, R401): a commit to a disabled port or channel, beyond the frame or onto a taken
slot is refused with CONFIG; one after its check instant is counted late; another waits; a fetched slice holds its bytes; once the cycle of the
check instant, the last that counts (Table CLK-4), is over, each enabled channel sends DATA or a HOLD with its reason, once, and counts it. A
covered slice without a commit is LATE (log 61), and in ACQUIRE and HOLDOVER HWERR goes before LATE (log 62). -/
def Obligations.CadenceSlices : Prop :=
  (∀ (w : Writer) (v : Word) (s : State), RegOpen s → let c := fld v 17 16
    (s.cad.relock = false → ∀ f sl, s.checkPassed f sl = false) ∧
    let sl := fld v 15 0
    let f : BitVec 32 := BitVec.ofNat 32 (fld v 63 32)
    let refused := s.commitRefused c sl f
    let taken : Prop := ∃ x ∈ s.cad.slices, x.chan = c ∧ s.cadSlot c x.frame x.slice = s.cadSlot c f sl
    (s.cad.enabled = false ∨ (s.chan c).en = false ∨ s.cad.spf ≤ sl → exec (.cadCommit w v) s = .next refused)
    ∧ (s.cad.enabled = true → (s.chan c).en = true → sl < s.cad.spf →
      (s.checkPassed f sl = true → exec (.cadCommit w v) s = .next (s.cadCount 3))
      ∧ (s.checkPassed f sl = false → taken → exec (.cadCommit w v) s = .next refused)
      ∧ (s.checkPassed f sl = false → ¬ taken → ∃ s', exec (.cadCommit w v) s = .next s'
        ∧ s'.cad = { s.cad with slices := s.cad.slices ++ [{ chan := c, frame := f, slice := sl }] } ∧ s'.mem = s.mem)))
  ∧ (∀ (ch : Fin 4) (err : Bool) (s : State), let wanted (x : Slice) : Prop := x.chan = ch.val ∧ x.complete = false
    ((∀ x ∈ s.cad.slices, ¬ wanted x) → exec (.sliceComplete ch err) s = .next s)
    ∧ ∀ a x b, s.cad.slices = a ++ x :: b → (∀ y ∈ a, ¬ wanted y) → wanted x →
      let at_ := s.cadSlotAddr ch.val (s.cadSlot ch.val x.frame x.slice)
      let n := (s.chan ch.val).slb
      exec (.sliceComplete ch err) s = .next { s with cad := { s.cad with slices := a ++ { x with
        complete := true, at_ := s.vnow, hwerr := err, poison := s.anyBad at_ n 0, bytes := s.bytes at_ n } :: b } })
  ∧ ∀ (f : BitVec 32) (sl : BitVec 16) (s : State), let k := s.cad
    let i := k.check f sl.toNat
    let due : Prop := k.relock = true ∧ k.gl ≠ .off ∧ sl.toNat < k.spfNow ∧ i < s.vnow ∧ ∀ d, k.decided = some d → d < i
    let why (c : Nat) := s.holdReason c f sl.toNat
    let cov (c : Nat) : Bool := k.jobs.any (fun j => j.covers c f sl.toNat)
    let live : Prop := k.link = true ∧ (k.gl = .locked ∨ k.gl = .flywheel)
    (¬ due → exec (.checkInstant f sl) s = .next s)
    ∧ (due → ∃ s', exec (.checkInstant f sl) s = .next s' ∧ s'.cad.decided = some i ∧ s'.mem = s.mem
      ∧ kget 0 s'.cad.cnt 0 = kget 0 k.cnt 0 + BitVec.ofNat 64 ((List.range 4).countP (fun c => (s.chan c).en && (why c).isNone))
      ∧ kget 0 s'.cad.cnt 1 = kget 0 k.cnt 1 + BitVec.ofNat 64 ((List.range 4).countP (fun c => (s.chan c).en && (why c).isSome && cov c))
      ∧ kget 0 s'.cad.cnt 2 = kget 0 k.cnt 2 + BitVec.ofNat 64 ((List.range 4).countP (fun c => (s.chan c).en && (why c).isSome && !cov c))
      ∧ ∀ c, c < 4 → (s.chan c).en = true → (∀ x ∈ s'.cad.slices, ¬ (x.chan = c ∧ x.frame = f ∧ x.slice = sl.toNat))
        ∧ (k.link = true → ∃ n rest tr, .cadFrame (sliceHeader c sl.toNat f (why c).isNone (cov c && (why c).isSome) ((why c).getD 0) n
              (s.chan c).fmt (BitVec.ofInt 64 (k.rasterAt f sl.toNat)) ++ rest) tr ∈ s'.out
            ∧ tr.extractLsb' 23 29 = 0 ∧ ((why c).isSome = true → n = 0)))
    ∧ ∀ c, let low : Prop := ∃ j ∈ k.jobs, j.covers c f sl.toNat = true ∧ s.underFloor j.pool = true
      let mine (x : Slice) : Prop := x.chan = c ∧ x.frame = f ∧ x.slice = sl.toNat
      (¬ live → why c = some 3) ∧ ((∀ x ∈ k.slices, ¬ mine x) → live →
        (¬ low → why c = if cov c then some 1 else some 0) ∧ (low → why c = some 3))
      ∧ ∀ a x b, k.slices = a ++ x :: b → (∀ y ∈ a, ¬ mine y) → mine x → live →
        (x.hwerr = true → x.at_ ≤ i → why c = some 3)
        ∧ (x.hwerr = false → x.complete = true → x.at_ ≤ i → why c = if x.poison then some 2 else none)
        ∧ (x.complete = false → x.hwerr = false → (low → why c = some 3) ∧ (¬ low → why c = some 1))
        ∧ (i < x.at_ → (low → why c = some 3) ∧ (¬ low → why c = some 1))

/-- Submissions, admission and job starts (R402 to R407): up to 64 submissions wait; the oldest is decided by the first check of Table CAD-7
that fails, answered in its descriptor with its CODE and REASON, SLACK and START, its NSEM signalled when NEN is set, and counted, and one that is accepted has slack, a START no earlier than the admission latency and the pool's earlier work allow, and slices
no other job covers; a pool's next job starts at its START and signals. -/
def Obligations.CadenceJobs : Prop :=
  ∀ s : State, let k := s.cad
    (∀ v : Word, RegOpen s → exec (.cadSubmit v) s = .next (if k.submits.length < 64
      then { s with cad := { k with submits := k.submits ++ [v &&& 0x0000FFFFFFFFFFC0#64] } } else s.cadEvent 0x0805 evConfig 0 2))
    ∧ (k.submits = [] → exec .admissionDecision s = .next s)
    ∧ (∀ aw rest, k.submits = aw :: rest → aw.toNat % 64 = 0 → s.isMem aw.toNat = true →
      let a := aw.toNat
      let w := (List.range 8).map (fun i => BitVec.ofNat 64 (s.word (a + 8 * i) 8))
      let w0 := w.getD 0 0
      let p := fld w0 11 8
      let held : Prop := (s.pool p).en = true ∧ bit s.gear.blocked (s.pool p).part = true
      let v := s.cadVerdict a w (s.anyBad a 64 0)
      let checks := jobChecks s a w
      let slack (x : Int) : Nat := (BitVec.ofInt 32 (max (-(2 ^ 31)) (min (2 ^ 31 - 1) x))).toNat
      (held → exec .admissionDecision s = .next s)
      ∧ (∀ n c, checks[n]? = some c → c.fails → (∀ m < n, ∀ e, checks[m]? = some e → ¬ e.fails) →
        v.code = c.code ∧ v.reason = c.reason ∧ v.start = 0
          ∧ v.word = 1 + c.code * 2 + c.reason * 16 + (if n = 10 then slack (jobSlack s w) else 0) * 2 ^ 32)
      ∧ ((∀ e ∈ checks, ¬ e.fails) → v.code = 0 ∧ v.start = jobStartAt s w ∧ v.word = 1 + slack (jobSlack s w) * 2 ^ 32)
      ∧ (¬ held → ∃ s', exec .admissionDecision s = .next s' ∧ s'.cad.submits = rest
        ∧ s'.word (a + 0x30) 8 = v.word % 2 ^ 64 ∧ s'.word (a + 0x38) 8 = v.start % 2 ^ 64
        ∧ (∀ b, b < a + 0x30 ∨ a + 0x40 ≤ b → s'.byte b = s.byte b)
        ∧ kget 0 s'.cad.cnt (if v.code = 0 then 5 else 6) = kget 0 k.cnt (if v.code = 0 then 5 else 6) + 1
        ∧ (v.code ≠ 0 → s'.cad.jobs = k.jobs)
        ∧ (w0.getLsbD 48 = true → ∃ q ∈ s'.semQ, q.sem = fld (w.getD 5 0) 13 0 ∧ q.who = 0xE000 + p ∧ q.ask = .signal 1)
        ∧ (v.code = 0 → s'.cad.jobs = k.jobs ++ [jobOf w v.start a]
          ∧ (s'.pool p).busy = v.start + fld (w.getD 4 0) 31 0 ∧ s.vnow + k.admlat ≤ v.start ∧ (s.pool p).busy ≤ v.start
          ∧ (w.getD 2 0).toNat ≤ v.start ∧ (∀ x, v.slack = some x → 0 ≤ x)
          ∧ ∀ j ∈ k.jobs, j.chan = fld w0 1 0 → j.frame = BitVec.ofNat 32 (fld (w.getD 1 0) 31 0) →
              fld w0 31 16 + fld w0 47 32 ≤ j.first ∨ j.first + j.nsl ≤ fld w0 31 16)))
    ∧ ∀ p : Fin 16, let x := s.pool p.val
      (∀ a j b, k.jobs = a ++ j :: b → (∀ i ∈ a, ¬ (i.pool = p.val ∧ i.started = false)) → j.pool = p.val → j.started = false →
        (s.vnow < j.start → exec (.jobStart p) s = .next s)
        ∧ (j.start ≤ s.vnow →
          let jobs := a ++ { j with started := true } :: b
          let pools := kset {} k.pools p.val { x with next := BitVec.ofNat 64 j.desc }
          let s1 : State := { s with cad := { k with jobs := jobs, pools := pools } }
          exec (.jobStart p) s = .next (s1.signal (0xE000 + p.val) x.gosem 1)))
      ∧ ((∀ i ∈ k.jobs, ¬ (i.pool = p.val ∧ i.started = false)) → exec (.jobStart p) s = .next s)

/-- Loading and applying gearing. Choices and readings of the model in it: logs 29, 60. -/
def Obligations.GearingImage : Prop := GearLoads ∧ GearApply

/-- Host queues: entries and their ends. Choices and readings of the model in it: log 52. -/
def Obligations.HostQueues : Prop := HostQueueEntries ∧ HostQueueEnds

/-- BAR2, the host window's answers, function resets, ATS and IDE (R424, R425, R427, R429, R438): BAR2 reads memory with its poison and
writes it, and answers or reports what it may not reach; each answer ends its read, an error or a timeout delivering poison; a reset
clears every queue and the host registers; an invalidation completes when no read uses the page.
Where the manual is silent it is as logs 33 and 52 say. -/
def Obligations.HostAccess : Prop :=
  (∀ (off : BitVec 48) (n : Fin 65) (s : State), let a := s.bar2Addr off.toNat
    let live : Prop := s.fnReady = true ∧ n.val ≠ 0 ∧ off.toNat + n.val ≤ s.host.bar2Size
    (¬ live → exec (.bar2Read off n) s = .next s)
    ∧ (live → s.bar2Off = true → exec (.bar2Read off n) s = .next (s.emit (.bar2 true false (List.replicate n.val 0))))
    ∧ (live → s.bar2Off = false → s.bar2Mem a n.val = true → ∃ s', exec (.bar2Read off n) s = .next s'
      ∧ s'.out = .bar2 true (s.anyBad a n.val 0) (s.bytes a n.val) :: s.out ∧ s'.mem = s.mem ∧ s'.threads = s.threads)
    ∧ (live → s.bar2Off = false → s.bar2Mem a n.val = false → exec (.bar2Read off n) s = .next ((s.bar2Prot a n.val).emit (.bar2 false false []))))
  ∧ (∀ (off : BitVec 48) (bs : List Byte) (ep : Bool) (s : State), let a := s.bar2Addr off.toNat
    let live : Prop := s.fnReady = true ∧ bs ≠ [] ∧ off.toNat + bs.length ≤ s.host.bar2Size ∧ s.bar2Off = false
    (¬ live → exec (.bar2Write off bs ep) s = .next s)
    ∧ (live → s.bar2Mem a bs.length = true → ∃ s', exec (.bar2Write off bs ep) s = .next s' ∧ (∀ b, b < a → s'.byte b = s.byte b)
      ∧ (∀ b, a + bs.length ≤ b → s'.byte b = s.byte b)
      ∧ (bs.length ≤ 64 → a / 64 = (a + bs.length - 1) / 64 → ∀ k, k < bs.length → s'.byte (a + k) = bs.getD k 0))
    ∧ (live → s.bar2Mem a bs.length = false →
      exec (.bar2Write off bs ep) s = .next ((s.bar2Prot a bs.length).raise .pcie 0x60 0x0904 evConfig a 0)))
  ∧ (∀ (tag : Nat) (bs : List Byte) (s : State),
    let cpl (st : CplStatus) := exec (.hostWindowCompletion tag st bs) s
    cpl .ur = exec (.hostWindowReadTimeout tag) s ∧ cpl .ca = exec (.hostWindowReadTimeout tag) s
    ∧ ((∀ r ∈ s.host.reads, r.tag ≠ tag) → cpl .ok = .next s ∧ cpl .ep = .next s ∧ cpl .ur = .next s)
    ∧ ∀ l1 r l2, s.host.reads = l1 ++ r :: l2 → (∀ x ∈ l1, x.tag ≠ tag) → r.tag = tag →
      (∀ st, ∃ s', cpl st = .next s' ∧ (∀ x, x ∈ s'.host.reads ↔ x ∈ s.host.reads ∧ x.tag ≠ tag) ∧ ∀ b, s'.byte b = s.byte b)
      ∧ (r.who = .host → r.pel = none → r.size = 8 → bs.length = 8 → ∃ s', cpl .ok = .next s'
        ∧ .tdo (BitVec.ofNat 128 ((0x40000000000 + r.addr) % 2 ^ 48 + ofBytes bs * 2 ^ 64)) ∈ s'.out)
      ∧ ∀ t, r.who = .thread t → bs.length = r.size → ∃ s1 : State, (∀ u, s1.thr u = s.thr u)
        ∧ cpl .ok = .next (s1.threadAnswer t.val true tag (0x40000000000 + r.addr) (bs, List.replicate ((r.size + 31) / 32) false, 0))
        ∧ cpl .ep = .next (s1.threadAnswer t.val true tag (0x40000000000 + r.addr) (bs, List.replicate ((r.size + 31) / 32) true, 0))
        ∧ cpl .ur = .next (s1.threadAnswer t.val true tag (0x40000000000 + r.addr) ([], [], 2)))
  ∧ (∀ (kind : FnReset) (s : State), ∃ s', exec (.functionLevelReset kind) s = .next s' ∧ (∀ q, q < 64 → s'.hq q = {})
    ∧ s'.host.bar2Base = 0 ∧ s'.host.winBase = 0 ∧ s'.host.bme = false ∧ s'.host.msix = false ∧ s'.host.ats = false ∧ s'.host.ide = false
    ∧ s'.host.linkUp = (s.host.linkUp && decide (kind = .flr))
    ∧ ((∀ q, q < 64 → (s.hq q).started = false) → s'.host.reads = s.host.reads ∧ s'.mem = s.mem ∧ s'.ctxs = s.ctxs))
  ∧ (∀ (page : BitVec 52) (s : State), let p := page.toNat
    ((∀ x ∈ s.host.atc, x.1 ≠ p) → exec (.atsInvalidateRequest page) s = .next (s.emit (.invalidated p)))
    ∧ ((∃ x ∈ s.host.atc, x.1 = p) → ∃ s', exec (.atsInvalidateRequest page) s = .next s' ∧ (∀ x ∈ s'.host.atc, x.1 ≠ p)
      ∧ ((∀ r ∈ s.host.reads, s.busAddr r.addr / 4096 ≠ p) → .invalidated p ∈ s'.out)
      ∧ ((∃ r ∈ s.host.reads, s.busAddr r.addr / 4096 = p) → p ∈ s'.host.inval)))
  ∧ ∀ s : State, exec .ideIntegrityFailure s = .next (if s.host.ide then { s with host := { s.host with ideFail := true } }.raise .pcie 0x60 0x0901 evSecurity 0 0 else s)

/-- Attestation (R437, R442, R449 to R451, R496): a responder that is not live ignores every request; a request out of the order of the
connection is answered with ERROR; in order, each is answered with its response, signed by the alias key (log 31), and moves the connection on;
slots other than 0 do not exist, and a measurement stands in a block of the DMTF layout (log 31). -/
def Obligations.Attestation : Prop :=
  ∀ (p : SpdmPath) (s : State), let x := s.sec.spdm p
    let err : Host.Outcome State Fault Refusal := .next (s.emit (.spdm p 0x7F (Signed s [] [])))
    let turns (i : Instr) (y : Spdm) (code : Nat) (nonce : List Byte) : Prop :=
      ∃ body, exec i s = .next ((s.setSpdm p y).draw.emit (.spdm p code (Signed s nonce body)))
    (s.spdmLive p = false → ∀ slot o n nonce ix bs, spdmAll p slot o n nonce ix bs (fun i => exec i s = .next s))
    ∧ (s.spdmLive p = true →
      exec (.getVersion p) s = .next ((s.setSpdm p { version := true }).emit (.spdm p 0x04 (Signed s [] [0x1300#64])))
      ∧ (x.version = false → exec (.getCapabilities p) s = err)
      ∧ (x.version = true → exec (.getCapabilities p) s
        = .next ((s.setSpdm p { x with caps := true }).emit (.spdm p 0x61 (Signed s [] (Config.spdmNames spdmCapabilities)))))
      ∧ (x.caps = false → exec (.negotiateAlgorithms p) s = err)
      ∧ (x.caps = true → exec (.negotiateAlgorithms p) s
        = .next ((s.setSpdm p { x with algs := true }).emit (.spdm p 0x63 (Signed s [] (Config.spdmNames spdmAlgorithms)))))
      ∧ (x.algs = false → exec (.getDigests p) s = err ∧ (∀ bs, exec (.keyExchange p bs) s = err)
        ∧ ∀ slot o n nonce ix, exec (.getCertificate p slot o n) s = err ∧ exec (.challenge p slot nonce) s = err
          ∧ exec (.getMeasurements p ix nonce) s = err)
      ∧ (x.algs = true → exec (.getDigests p) s = .next (s.emit (.spdm p 0x01 (Signed s [] (1#64 :: toWords (toBytes 64 (Config.sha512 s.certChain).toNat)))))
        ∧ (∀ slot o n nonce, slot ≠ 0 → exec (.getCertificate p slot o n) s = err ∧ exec (.challenge p slot nonce) s = err)
        ∧ (∀ o n, exec (.getCertificate p 0 o n) s = .next (s.emit (.spdm p 0x02 (Signed s [] (toWords ((s.certChain.drop o.toNat).take n.toNat))))))
        ∧ (∀ nonce, ∃ body, exec (.challenge p 0 nonce) s = .next (s.draw.emit (.spdm p 0x03 (Signed s (toBytes 32 nonce.toNat) body))))
        ∧ (∀ ix nonce, let n := ix.toNat
            let body : List Word := if n = 0 then [5#64] else if n = 0xFF then toWords ((List.range 5).flatMap (fun k => s.measBlock (k + 1)))
              else toWords (s.measBlock n)
            (n ≤ 5 ∨ n = 0xFF → exec (.getMeasurements p ix nonce) s = .next (s.emit (.spdm p 0x60 (Signed s (toBytes 32 nonce.toNat) body))))
            ∧ (s.measBlock n).take 4 = [BitVec.ofNat 8 n, 1#8] ++ toBytes 2 ((s.measurement n).length + 3)
            ∧ (s.measBlock n).drop 5 = toBytes 2 (s.measurement n).length ++ s.measurement n
            ∧ (5 < n → n ≠ 0xFF → exec (.getMeasurements p ix nonce) s = err))
        ∧ ∀ bs, turns (.keyExchange p bs) { x with session := 1, keyGen := 0 } 0x64 bs)
      ∧ (∀ bs, (x.session = 1 → Config.finishOk bs s.fresh = true → turns (.finish p bs) { x with session := 2 } 0x65 [])
        ∧ (x.session ≠ 1 ∨ Config.finishOk bs s.fresh = false → exec (.finish p bs) s = err))
      ∧ (x.session ≠ 2 → exec (.endSession p) s = err ∧ exec (.keyUpdate p) s = err ∧ ∀ bs, exec (.vendorDefinedRequest p bs) s = err)
      ∧ (x.session = 2 → turns (.endSession p) { x with session := 0, keyGen := 0 } 0x6C [] ∧ turns (.keyUpdate p) { x with keyGen := x.keyGen + 1 } 0x69 []
        ∧ ∀ bs, (p = .doe → ∃ body, exec (.vendorDefinedRequest p bs) s
            = .next (({ s.draw with host := { s.host with ideKeys := s.host.ideKeys ++ [bs] } } : State).emit (.spdm p 0x7E (Signed s [] body))))
          ∧ (p = .mctp → exec (.vendorDefinedRequest p bs) s = err)))

/-- Mailbox sessions and keys. Choices and readings of the model in it: log 29. -/
def Obligations.MailboxSessionsAndKeys : Prop := MailboxSessions ∧ MailboxKeys

/-- Power and start-up (R446 to R448, R460, R473, R494): power in range begins with a cold reset and its loss ends everything; the ROM
boots NEXT when it passes its checks, then the other slot, and else enters Sag mode; a boot that is not confirmed counts a failure, the
third one failing the slot; a confirmed PENDING slot is GOOD and raises the minimum. Where the manual is silent it is as log 29 says. -/
def Obligations.StartUp : Prop :=
  ∀ s : State, let c := s.sec
    (∀ b : Bool, (s.power.pwrOk = true → exec (.pwrOkRise b) s = .next s)
      ∧ (s.power.pwrOk = false → ∃ s', exec (.pwrOkRise b) s = .next s' ∧ ColdReset s s' ∧ s'.power.pwrOk = true ∧ s'.power.inRange = b
        ∧ ∀ d, d < 80 → s'.power.on.getLsbD d = (b && decide (d = 72))))
    ∧ (∃ s', exec .pwrOkFall s = .next s' ∧ ColdReset s s' ∧ s'.power.on = 0 ∧ s'.power.pwrOk = false
        ∧ (s.power.down = false → s.power.on.getLsbD 72 = true → s'.events = {})
        ∧ ∀ u e, s.power.down = true → s.events.queues = [(u, [e])] → e.cls = 5 → (s'.ring (s.events.ringFor 5)).lost = 1)
    ∧ (s.power.pwrOk = true → s.power.inRange = false → ∃ s', exec .inputVoltageInRange s = .next s' ∧ ColdReset s s' ∧ s'.power.inRange = true
        ∧ s'.power.on.getLsbD 72 = true)
    ∧ (s.power.pwrOk = false ∨ s.power.inRange = true → exec .inputVoltageInRange s = .next { s with power := { s.power with inRange := true } })
    ∧ (s.romReady = false → exec .romStart s = .next s)
    ∧ (s.romReady = true → ∃ s', exec .romStart s = .next s' ∧ s'.sec.boots = c.boots + (if c.coldStart then 1 else 0) ∧ s'.sec.coldStart = false
      ∧ (c.sagPin = true ∨ c.chooseSlot.1 = none → s'.sec.phase = .sag)
      ∧ (∀ b, c.sagPin = false → c.chooseSlot.1 = some b → s'.sec.phase = .running ∧ s'.sec.running = b ∧ s'.sec.watchdog = true ∧ s'.sec.next = b
          ∧ s'.sec.udsLocked = true ∧ s'.sec.setfmt = manSetfmt (c.slot b).bytes))
    ∧ (∀ b, c.chooseSlot.1 = some b → c.slotCheck (c.slot b).bytes = 0 ∧ (c.slot b).st ≠ .empty ∧ (c.slot b).st ≠ .failed
        ∧ (b ≠ c.next → (c.slot c.next).st = .empty ∨ (c.slot c.next).st = .failed ∨ c.slotCheck (c.slot c.next).bytes ≠ 0))
    ∧ (let due : Prop := c.watchdog = true ∧ s.power.perstHigh = true ∧ c.phase = .running
      (¬ due → exec .bootWatchdogExpiry s = .next s)
      ∧ (due → ∃ s', exec .bootWatchdogExpiry s = .next s' ∧ s'.sec.phase = .off ∧ s'.sec.watchdog = false
        ∧ (s'.sec.slot c.running).fails = (c.slot c.running).fails + 1
        ∧ (s'.sec.slot c.running).st = (if 3 ≤ (c.slot c.running).fails + 1 then .failed else (c.slot c.running).st)
        ∧ s'.sec.slot (!c.running) = c.slot (!c.running)))
    ∧ (let due : Prop := c.watchdog = true ∧ s.host.linkUp = true ∧ c.phase = .running
      let x := c.slot c.running
      (¬ due → exec .bootConfirmation s = .next s)
      ∧ (due → ∃ s', exec .bootConfirmation s = .next s' ∧ s'.sec.watchdog = false ∧ (s'.sec.slot c.running).fails = 0
        ∧ (s'.sec.slot c.running).confirmed = true ∧ s'.sec.fwsvn = (if x.confirmed then c.fwsvn else max c.fwsvn (min 256 (manMinSvn x.bytes)))
        ∧ (s'.sec.fwsvn ≤ manSvn x.bytes → (s'.sec.slot c.running).st = if x.st = .pending then .good else x.st)))

/-- Resets and the link (R31, R437, R474, R476, R477): PERST_N and a lost REF25 reset all but the always-on domain (a lost REF25 keeps the
Krymas ports too), PERST_N after an apply under way; the deassertion and the return of the clock let the start-up go on; the link comes up once its domain is on and PERST_N is
deasserted. Where the manual is silent it is as logs 29 and 33 say. -/
def Obligations.ResetsAndLink : Prop :=
  ∀ s : State, let w := s.power
    (w.perstHigh = false → exec .perstNAssert s = .next s)
    ∧ (w.perstHigh = true → w.down = true → exec .perstNAssert s = .next { s with power := { w with perstHigh := false } })
    ∧ (w.perstHigh = true → w.down = false → s.gear.st = .applying →
        exec .perstNAssert s = .next { s with power := { w with perstHigh := false, warmWait := true } })
    ∧ (w.perstHigh = true → w.down = false → s.gear.st ≠ .applying → ∃ s', exec .perstNAssert s = .next s' ∧ WarmReset s s'
        ∧ s'.power.perstHigh = false ∧ s'.gear.st = (if s.gear.st = .validating ∨ s.gear.st = .waiting then s.gear.rest else s.gear.st))
    ∧ (w.perstHigh = true → exec .perstNDeassert s = .next s)
    ∧ (w.perstHigh = false → let s1 : State := { s with power := { w with perstHigh := true }, tap := s.tap.leaveExtest }
      (∃ s', exec .perstNDeassert s = .next s' ∧ s'.power.perstHigh = true ∧ s'.tap = s.tap.leaveExtest)
      ∧ (w.down = true ∨ w.warmWait = true → exec .perstNDeassert s = .next s1)
      ∧ (w.down = false → w.warmWait = false → w.loadDue = false → (s.gear.memReady = true ∨ w.training = true ∨ w.trained = true) →
        exec .perstNDeassert s = .next s1)
      ∧ (w.down = false → w.warmWait = false → w.loadDue = true → s.ref25 = false ∨ s.sec.phase ≠ .running → exec .perstNDeassert s = .next s1)
      ∧ (w.down = false → w.warmWait = false → w.loadDue = true → s.ref25 = true → s.sec.phase = .running → s.gear.image = none → s.gear.stored = none →
        exec .perstNDeassert s = .next { s1 with power := { s1.power with loadDue := false } }))
    ∧ (s.ref25 = false → exec .ref25Loss s = .next s)
    ∧ (s.ref25 = true → ∃ s', exec .ref25Loss s = .next s' ∧ s'.ref25 = false ∧ s'.ports = s.ports ∧ (w.on.getLsbD 72 = true → w.down = false → WarmReset s s'))
    ∧ (s.ref25 = true → exec .ref25Return s = .next s)
    ∧ (s.ref25 = false → ∃ s', exec .ref25Return s = .next s' ∧ s'.ref25 = true ∧ s'.power.perstHigh = w.perstHigh
        ∧ (w.down = true → s'.gear = s.gear ∧ s'.threads = s.threads ∧ s'.mem = s.mem))
    ∧ ∀ width rate cfg, exec (.pcieLinkUp width rate cfg) s
        = .next (if s.ref25 = true ∧ w.on.getLsbD 73 = true ∧ w.perstHigh = true ∧ s.sec.phase ≠ .off then { s with host := { s.host with
            linkUp := true, width := width.val, rate := rate.val, bme := cfg.bme, msix := cfg.msix, ats := cfg.ats, ide := cfg.ide,
            bar0 := cfg.addr0, bar2 := cfg.addr2, bar4 := cfg.addr4, bar2Size := 2 ^ (36 + cfg.bar2.val) } } else s)

/-- Limits and protection (R467 to R471): an evaluation lowers a die's power target by 25 MHz, not below its floor, above PLIM and raises it,
not above 3,300 MHz, below 97% of it, and its thermal target likewise at 105 °C and 100 °C; CCLK follows the lower target while its clock runs; a trip or a
rail fault, each of them also when the module is held off already, switches off all domains but 72 and 73 and holds the module off. -/
def Obligations.LimitsAndProtection : Prop :=
  ∀ s : State, let w := s.power
    (∀ (pw : Nat) (t : Temps), (s.sec.phase ≠ .running → exec (.limitEvaluation pw t) s = .next s)
      ∧ (s.sec.phase = .running → ∃ s', exec (.limitEvaluation pw t) s = .next s' ∧ s'.power.power = pw
        ∧ s'.power.hubT = t.hub ∧ s'.power.cclk = w.cclk ∧ s'.threads = s.threads ∧ s'.mem = s.mem
        ∧ ∀ q ∈ [(0, t.d0), (1, t.d1), (2, t.d2), (3, t.d3)], let g := kget 3300 w.ptgt q.1
          let h := kget 3300 w.ttgt q.1
          (kget 0 s'.power.tmax q.1 = q.2
            ∧ (w.plim < pw → kget 3300 s'.power.ptgt q.1 = max (s.floorOf q.1) (g - 25))
            ∧ (pw * 100 < w.plim * 97 → kget 3300 s'.power.ptgt q.1 = min 3300 (g + 25))
            ∧ (pw ≤ w.plim → w.plim * 97 ≤ pw * 100 → kget 3300 s'.power.ptgt q.1 = g)
            ∧ kget 3300 s'.power.ttgt q.1 = (if 105 ≤ q.2 then max 825 (h - 25) else if q.2 ≤ 100 then min 3300 (h + 25) else h))))
    ∧ (∀ d : DieId, exec (.cclkChangeComplete d) s = .next (if w.on.getLsbD (d.val * 18 + 16) = true ∧ s.ref25 = true then { s with power := { w with
        cclk := kset 0 w.cclk d.val (min (kget 3300 w.ptgt d.val) (kget 3300 w.ttgt d.val)) } } else s))
    ∧ (∀ (die : Fin 5) (t : Nat), let off : Prop := t < 115 ∨ s.hub.thermN = true ∨ w.on.getLsbD 72 = false
      (off → exec (.thermalTrip die t) s = .next s)
      ∧ (¬ off → ∃ s', exec (.thermalTrip die t) s = .next s' ∧ s'.power.down = true ∧ s'.power.trip = true ∧ s'.hub.thermN = true
        ∧ s'.gear.memReady = false ∧ s'.power.cause.getLsbD 0 = true ∧ s'.events.fatalValid = true
        ∧ ∀ d, d < 80 → s'.power.on.getLsbD d = (w.on.getLsbD d && (decide (d = 72) || decide (d = 73)))))
    ∧ ∀ rail : Byte, let off : Prop := w.on.getLsbD 72 = false
      (off → exec (.railFault rail) s = .next s)
      ∧ (¬ off → ∃ s', exec (.railFault rail) s = .next s' ∧ s'.power.down = true ∧ s'.power.rail = true ∧ s'.power.railId = rail
        ∧ s'.gear.memReady = false ∧ s'.events.fatalValid = true
        ∧ ∀ d, d < 80 → s'.power.on.getLsbD d = (w.on.getLsbD d && (decide (d = 72) || decide (d = 73))))

/-- The TAP and I3C (R496, R498 to R501, Table PIN-6): while the always-on domain is off nothing answers; IDCODE and DBG_STAT shift out
their words; EXTEST needs PERST_N low; a debug read needs level INSPECT and reads memory, or asks the host for a doubleword of its
window, a debug write level FULL and writes it, but not while REF25 is lost (R31), and SCONLY regions read 0 and take no write; every other code selects BYPASS.
Where the manual is silent it is as log 57 says. -/
def Obligations.TestAccess : Prop :=
  ∀ s : State, let up := s.power.on.getLsbD 72
    let sel (t : Tap) : State := if up then { s with tap := t } else s
    let out (t : Tap) (v : Nat) : State := if up then { s with tap := t, out := .tdo (BitVec.ofNat 128 v) :: s.out } else s
    (∀ a, exec (.setdasa a) s = .next (if up then { s with sec := { s.sec with i3cDyn := some a } } else s))
    ∧ exec .idcode s = .next (out .idcode (s.stepping.toNat % 16 * 2 ^ 28 + 0x7200 * 2 ^ 12 + Config.jedec.toNat * 2 + 1))
    ∧ exec .samplePreload s = .next (sel .sample)
    ∧ exec .extest s = .next (sel (if s.power.perstHigh then .bypass else .extest))
    ∧ exec .extestPulse s = .next (sel (if s.power.perstHigh then .bypass else .extestPulse))
    ∧ exec .extestTrain s = .next (sel (if s.power.perstHigh then .bypass else .extestTrain))
    ∧ exec .dbgStat s = .next (out .dbgStat s.dbgStat)
    ∧ (∀ code, exec (.bypass code) s = .next (if s.tapPermits code then s else sel .bypass))
    ∧ ∀ (a : BitVec 48) (v : Word), (s.gear.dbg = 0 → exec (.dbgRead a) s = .next (sel .bypass)) ∧ (s.gear.dbg < 2 → exec (.dbgWrite a v) s = .next (sel .bypass))
      ∧ (up = true → a.toNat % 8 = 0 → s.isMem a.toNat = true →
        (1 ≤ s.gear.dbg → ∃ s', exec (.dbgRead a) s = .next s' ∧ s'.tap = .dbgRead ∧ s'.mem = s.mem
          ∧ s'.out = .tdo (BitVec.ofNat 128 (a.toNat + (if s.scOnly a.toNat then 0 else s.word a.toNat 8) * 2 ^ 64)) :: s.out)
        ∧ (2 ≤ s.gear.dbg → s.ref25 = true → ∃ s', exec (.dbgWrite a v) s = .next s' ∧ s'.tap = .dbgWrite ∧ s'.out = s.out
          ∧ (∀ b, b < a.toNat ∨ a.toNat + 8 ≤ b → s'.byte b = s.byte b)
          ∧ s'.word a.toNat 8 = (if s.scOnly a.toNat then s.word a.toNat 8 else v.toNat))
        ∧ (2 ≤ s.gear.dbg → s.ref25 = false → exec (.dbgWrite a v) s = .next { s with tap := .dbgWrite }))
      ∧ (up = true → a.toNat % 8 = 0 → 1 ≤ s.gear.dbg → s.scOnly a.toNat = false → ∀ o, s.place a.toNat = .host o → s.host.bme = true →
        ∃ s', exec (.dbgRead a) s = .next s' ∧ s'.tap = .dbgRead ∧ (∃ r ∈ s'.host.reads, r.who = .host ∧ r.pel = none ∧ r.addr = o ∧ r.size = 8)
          ∧ ∀ x, .tdo x ∈ s'.out → .tdo x ∈ s.out)

/-- Register writes and cycle counters (R12, R32 to R35, R291, R437, R470, R488): a write of the host while the function is not ready, one to a register of the Security Controller alone, or reaches an offset with
no register, changes nothing, nor does one to a read-only register; else it has the effect of the register it addresses, a
Stream Engine reaching CAD_COMMIT alone; a counter is read whole, an unassigned one reads 0 and
reports; a snapshot latches HCLK at once and each other domain once. -/
def Obligations.RegisterAccess : Prop :=
  ∀ s : State,
    (∀ (w : Writer) (off : BitVec 26) (v : Word),
      let lost : Prop := (w = .host ∧ s.fnReady = false) ∨ s.scReg off.toNat = true
      (lost ∨ regAt off.toNat = none → exec (.registerWrite w off v) s = .next s)
      ∧ (¬ lost → ∀ r, regAt off.toNat = some r → (∀ x, w ≠ .ctx x) →
        (s.served r = false → exec (.registerWrite w off v) s = .next s)
        ∧ (s.served r = true → exec (.registerWrite w off v) s = .next (s.writeReg w off.toNat r v))))
    ∧ (∀ (v : Word) (x : CtxId) (off : BitVec 26), (regAt off.toNat ≠ some .cadCommit → exec (.registerWrite (.ctx x) off v) s = .next s)
      ∧ (RegOpen s → s.scReg 0x500208 = false →
        exec (.registerWrite (.ctx x) 0x500208#26 v) s = .next (s.commitSlice v)))
    ∧ (∀ (w : Writer) (v : Word), ∀ off ∈ [0x40000#26, 0x200000#26, 0x200038#26, 0x3F0000#26, 0x4F0008#26, 0x500010#26, 0x7C0000#26],
        exec (.registerWrite w off v) s = .next s)
    ∧ (RegOpen s → s.fnReady = true → s.prots = [] →
      (∀ v, exec (.registerWrite .host 0x40008#26 v) s = .next { s with host := { s.host with bar2Base := v &&& 0x0000FFF000000000#64 } })
      ∧ (∀ v, exec (.registerWrite .host 0x40010#26 v) s = .next { s with host := { s.host with winBase := v &&& 0xFFFFFC0000000000#64 } })
      ∧ (∀ v, exec (.registerWrite .host 0x200008#26 v) s = .next { s with gear := { s.gear with loadAddr := v &&& ~~~0x3F#64 } })
      ∧ (∀ v, exec (.registerWrite .host 0x4F0018#26 v) s = .next { s with stepc := { s.stepc with limit := v.setWidth 48 } })
      ∧ ∀ v, exec (.registerWrite .host 0x7C0048#26 v) s = .next { s with power := { s.power with
          trip := v.getLsbD 0, rail := v.getLsbD 1, memhot := v.getLsbD 2, railId := v.extractLsb' 8 8 } })
    ∧ (∀ id : BitVec 12, RegOpen s →
      (id.toNat ∈ clockIds → exec (.clkCountRead id) s = .next (s.emit (.regRead (0x3F0000 + id.toNat * 8) (s.count id.toNat))))
      ∧ (id.toNat ∉ clockIds → exec (.clkCountRead id) s
        = .next ((s.raiseHub 0x0002 evConfig (0x3F0000 + id.toNat * 8) id.toNat).emit (.regRead (0x3F0000 + id.toNat * 8) 0))))
    ∧ (RegOpen s → (s.snapBusy = true → exec .clkSnap s = .next s) ∧ (s.snapBusy = false → exec .clkSnap s = .next { s with
        snapBusy := true, snapDone := false, snapWait := snapDomains, snap := kset 0 s.snap 0x40 (s.count 0x40) }))
    ∧ ∀ id : BitVec 12, (s.snapBusy = false ∨ id.toNat ∉ s.snapWait → exec (.snapshotLatch id) s = .next s)
      ∧ (s.snapBusy = true → id.toNat ∈ s.snapWait → ∃ s', exec (.snapshotLatch id) s = .next s' ∧ kget 0 s'.snap id.toNat = s.count id.toNat
        ∧ s'.snapWait = s.snapWait.erase id.toNat ∧ (s'.snapDone = true ↔ s'.snapWait = []) ∧ (s'.snapBusy = true ↔ s'.snapWait ≠ [])
        ∧ ∀ j, j ≠ id.toNat → kget 0 s'.snap j = kget 0 s.snap j)

/-- Events (R481 to R485, R511): the collector takes a record only while the fabric runs, from a queue whose head is FATAL when there is
one; it latches the first FATAL record, and writes the record to its ring with the next SEQ or counts it lost; a ring that is enabled
starts empty; EVT_FATAL0 takes what is written. -/
def Obligations.EventRings : Prop :=
  ∀ s : State, let v := s.events
    (s.clkOff.contains 0x40 = true ∨ (∀ q ∈ v.queues, q.2 = []) → exec .eventCollection s = .next s)
    ∧ (∀ u e l, s.clkOff.contains 0x40 = false → v.queues = [(u, e :: l)] →
      let r := v.ringFor e.cls
      let x := s.ring r
      let off : Prop := e.cls ≠ 5 ∧ bit v.dis e.cls = true
      ∃ s', exec .eventCollection s = .next s' ∧ s'.threads = s.threads ∧ s'.events.queues = (if l = [] then [] else [(u, l)])
        ∧ (e.cls = 5 → v.fatalValid = false → s'.events.fatalValid = true ∧ s'.events.fatalCode = e.code ∧ s'.events.fatalLoc = e.location)
        ∧ (e.cls ≠ 5 ∨ v.fatalValid = true → s'.events.fatalValid = v.fatalValid ∧ s'.events.fatalCode = v.fatalCode)
        ∧ (off → s'.ring r = x ∧ s'.mem = s.mem)
        ∧ (¬ off → s.ringOk x = false ∨ x.room = 0 → (s'.ring r).seq = x.seq + 1 ∧ (s'.ring r).tail = x.tail ∧ s'.mem = s.mem
          ∧ (s'.ring r).lost = (if x.lost = BitVec.allOnes 32 then x.lost else x.lost + 1))
        ∧ (¬ off → s.ringOk x = true → x.since ≠ 0 → (x.room = 1 → (s'.ring r).seq = x.seq + 1 ∧ (s'.ring r).tail = x.tail + 1)
          ∧ (2 ≤ x.room → (s'.ring r).seq = x.seq + 2
            ∧ (s.ringOk { x with tail := x.tail + 1 } = true → (s'.ring r).tail = x.tail + 2 ∧ (s'.ring r).since = 0)
            ∧ (s.ringOk { x with tail := x.tail + 1 } = false → (s'.ring r).tail = x.tail + 1 ∧ (s'.ring r).since = 1)))
        ∧ (¬ off → s.ringOk x = true → x.room ≠ 0 → x.since = 0 → (s'.ring r).seq = x.seq + 1 ∧ (s'.ring r).tail = x.tail + 1
          ∧ (s'.ring r).arm = false ∧ (s'.ring r).lost = x.lost
          ∧ (x.space = true → ∀ i, i < 32 → s'.byte (x.slot + i) = (e.bytes x.seq).getD i 0)
          ∧ (x.space = true → ∀ a, a < x.slot ∨ x.slot + 32 ≤ a → s'.byte a = s.byte a)
          ∧ (x.space = false → .hostWrite (s'.busTo (s.busAddr (x.slot - s.host.winBase.toNat))) (e.bytes x.seq) s.host.ats ∈ s'.out ∧ s'.mem = s.mem)))
    ∧ (∀ c, v.choice = some c → (∃ q ∈ v.queues, ∃ e l, q.2 = e :: l ∧ e.cls = 5) → c.2.cls = 5)
    ∧ (RegOpen s → ∀ (r : Fin 8) (w : Word), ∃ s', exec (.evrCfgWrite r w) s = .next s' ∧ (s'.ring r.val).en = w.getLsbD 63
        ∧ (s'.ring r.val).space = w.getLsbD 62 ∧ (s'.ring r.val).arm = w.getLsbD 61 ∧ (s'.ring r.val).base = (s.ring r.val).base ∧ (s'.ring r.val).since = (s.ring r.val).since
        ∧ (w.getLsbD 63 = true → (s.ring r.val).en = false → (s'.ring r.val).head = 0 ∧ (s'.ring r.val).tail = 0 ∧ (s'.ring r.val).lost = 0)
        ∧ (w.getLsbD 63 = false ∨ (s.ring r.val).en = true → (s'.ring r.val).head = (s.ring r.val).head ∧ (s'.ring r.val).tail = (s.ring r.val).tail)
        ∧ (∀ k, k ≠ r.val → s'.ring k = s.ring k) ∧ s'.threads = s.threads ∧ s'.mem = s.mem)
    ∧ (RegOpen s → ∀ w : Word, exec (.evtFatal0Write w) s
        = .next { s with events := { v with fatalCode := fld w 63 48, fatalDomain := fld w 47 36, fatalValid := w.getLsbD 0 } })
end

