-- ==== Sys2Proof/Laws/Maps.lean ====
section
/-! SUPPORT. Laws of keyed maps: a read after a write, and that every operation keeps the canonical form. -/

namespace Sys2Proof.Machine

variable {α : Type}

@[simp] theorem kget_nil (d : α) (i : Nat) : kget d [] i = d := rfl

theorem kget_kerase_same (d : α) (m : KMap α) (i : Nat) : kget d (kerase m i) i = d := by
  induction m with
  | nil => rfl
  | cons p m ih =>
    obtain ⟨k, v⟩ := p
    by_cases h : i = k
    · simp [kerase, h] at ih ⊢; exact ih
    · simp [kerase, kget, h, ih]

theorem kget_kerase_ne (d : α) (m : KMap α) {i j : Nat} (h : j ≠ i) : kget d (kerase m i) j = kget d m j := by
  induction m with
  | nil => rfl
  | cons p m ih =>
    obtain ⟨k, v⟩ := p
    by_cases hk : i = k
    · have : j ≠ k := hk ▸ h
      simp only [kerase, hk, if_true, kget, this, if_false]
      exact hk ▸ ih
    · simp only [kerase, hk, if_false, kget, ih]

theorem kget_kins_same (d : α) (m : KMap α) (i : Nat) (x : α) (hne : ∀ p ∈ m, p.1 ≠ i) :
    kget d (kins m i x) i = x := by
  induction m with
  | nil => simp [kins, kget]
  | cons p m ih =>
    obtain ⟨k, v⟩ := p
    have hk : i ≠ k := fun e => hne (k, v) (by simp) e.symm
    by_cases hlt : i < k
    · simp [kins, hlt, kget]
    · simp only [kins, hlt, if_false, kget, hk]
      exact ih (fun q hq => hne q (by simp [hq]))

theorem kget_kins_ne (d : α) (m : KMap α) {i j : Nat} (x : α) (h : j ≠ i) : kget d (kins m i x) j = kget d m j := by
  induction m with
  | nil => simp [kins, kget, h]
  | cons p m ih =>
    obtain ⟨k, v⟩ := p
    by_cases hlt : i < k
    · simp [kins, hlt, kget, h]
    · simp only [kins, hlt, if_false, kget, ih]

theorem kerase_not_mem (m : KMap α) (i : Nat) : ∀ p ∈ kerase m i, p.1 ≠ i := by
  induction m with
  | nil => simp [kerase]
  | cons p m ih =>
    obtain ⟨k, v⟩ := p
    by_cases hk : i = k
    · simpa only [kerase, hk, if_true] using hk ▸ ih
    · simp only [kerase, hk, if_false]
      intro q hq
      rcases List.mem_cons.mp hq with rfl | hq
      · exact fun e => hk e.symm
      · exact ih q hq

/-- A read after a write of the same key gives the value written. -/
@[simp] theorem kget_kset_same [DecidableEq α] (d : α) (m : KMap α) (i : Nat) (x : α) : kget d (kset d m i x) i = x := by
  unfold kset
  split
  · rename_i h; rw [kget_kerase_same, h]
  · exact kget_kins_same d _ i x (kerase_not_mem m i)

/-- A write leaves every other key alone. -/
theorem kget_kset_ne [DecidableEq α] (d : α) (m : KMap α) {i j : Nat} (x : α) (h : j ≠ i) :
    kget d (kset d m i x) j = kget d m j := by
  unfold kset
  split
  · exact kget_kerase_ne d m h
  · rw [kget_kins_ne d _ x h, kget_kerase_ne d m h]

/-- A read after a write. -/
theorem kget_kset [DecidableEq α] (d : α) (m : KMap α) (i j : Nat) (x : α) :
    kget d (kset d m i x) j = if j = i then x else kget d m j := by
  split
  · rename_i h; subst h; simp
  · rename_i h; exact kget_kset_ne d m x h

/-- A lower bound that is weaker still holds. -/
theorem kwfFrom_mono [DecidableEq α] (d : α) (m : KMap α) {a b : Option Nat}
    (h : ∀ l, a = some l → ∃ k, b = some k ∧ l ≤ k) (hm : kwfFrom d b m = true) : kwfFrom d a m = true := by
  cases m with
  | nil => rfl
  | cons p m =>
    obtain ⟨k, v⟩ := p
    simp only [kwfFrom, Bool.and_eq_true, decide_eq_true_eq] at hm ⊢
    refine ⟨⟨?_, hm.1.2⟩, hm.2⟩
    cases a with
    | none => rfl
    | some l =>
      obtain ⟨q, rfl, hq⟩ := h l rfl
      simp only [decide_eq_true_eq] at hm ⊢
      omega

theorem kwfFrom_kerase [DecidableEq α] (d : α) (m : KMap α) (i : Nat) (a : Option Nat)
    (hm : kwfFrom d a m = true) : kwfFrom d a (kerase m i) = true := by
  induction m generalizing a with
  | nil => rfl
  | cons p m ih =>
    obtain ⟨k, v⟩ := p
    simp only [kwfFrom, Bool.and_eq_true, decide_eq_true_eq] at hm
    simp only [kerase]
    split
    · refine ih a (kwfFrom_mono d m ?_ hm.2)
      intro l hl
      subst hl
      simp only [decide_eq_true_eq] at hm
      exact ⟨k, rfl, by omega⟩
    · simp only [kwfFrom, Bool.and_eq_true, decide_eq_true_eq]
      exact ⟨hm.1, ih _ hm.2⟩

theorem kwfFrom_kins [DecidableEq α] (d : α) (m : KMap α) (i : Nat) (x : α) (a : Option Nat)
    (hx : x ≠ d) (ha : ∀ l, a = some l → l < i) (hne : ∀ p ∈ m, p.1 ≠ i)
    (hm : kwfFrom d a m = true) : kwfFrom d a (kins m i x) = true := by
  induction m generalizing a with
  | nil =>
    cases a with
    | none => simp [kins, kwfFrom, hx]
    | some l => simp [kins, kwfFrom, hx, ha l rfl]
  | cons p m ih =>
    obtain ⟨k, v⟩ := p
    have hk : k ≠ i := hne (k, v) (by simp)
    simp only [kwfFrom, Bool.and_eq_true, decide_eq_true_eq] at hm
    simp only [kins]
    split
    · rename_i hlt
      simp only [kwfFrom, Bool.and_eq_true, decide_eq_true_eq]
      refine ⟨⟨?_, hx⟩, ⟨hlt, hm.1.2⟩, hm.2⟩
      cases a with
      | none => rfl
      | some l => simp [ha l rfl]
    · rename_i hge
      simp only [kwfFrom, Bool.and_eq_true, decide_eq_true_eq]
      refine ⟨hm.1, ih (some k) ?_ (fun q hq => hne q (by simp [hq])) hm.2⟩
      intro l hl
      cases hl
      omega

/-- A write keeps the canonical form. -/
theorem kwf_kset [DecidableEq α] (d : α) (m : KMap α) (i : Nat) (x : α) (h : kwf d m = true) : kwf d (kset d m i x) = true := by
  unfold kset
  split
  · exact kwfFrom_kerase d m i none h
  · rename_i hx
    exact kwfFrom_kins d _ i x none hx (by simp) (kerase_not_mem m i) (kwfFrom_kerase d m i none h)

/-- A run of writes keeps the canonical form. -/
theorem kwf_ksetMany [DecidableEq α] (d : α) (l : List α) (m : KMap α) (i : Nat) (h : kwf d m = true) :
    kwf d (ksetMany d m i l) = true := by
  induction l generalizing m i with
  | nil => exact h
  | cons x l ih => exact ih _ _ (kwf_kset d m i x h)

/-- Dropping entries keeps the canonical form. -/
theorem kwfFrom_filter [DecidableEq α] (d : α) (m : KMap α) (q : Nat × α → Bool) (a : Option Nat)
    (hm : kwfFrom d a m = true) : kwfFrom d a (m.filter q) = true := by
  induction m generalizing a with
  | nil => rfl
  | cons p m ih =>
    obtain ⟨k, v⟩ := p
    simp only [kwfFrom, Bool.and_eq_true, decide_eq_true_eq] at hm
    cases hq : q (k, v) with
    | true =>
      simp only [List.filter_cons, hq, if_true, kwfFrom, Bool.and_eq_true, decide_eq_true_eq]
      exact ⟨hm.1, ih _ hm.2⟩
    | false =>
      simp only [List.filter_cons, hq]
      refine ih a (kwfFrom_mono d m ?_ hm.2)
      intro l hl
      subst hl
      simp only [decide_eq_true_eq] at hm
      exact ⟨k, rfl, by omega⟩

theorem kwf_filter [DecidableEq α] (d : α) (m : KMap α) (q : Nat × α → Bool) (h : kwf d m = true) : kwf d (m.filter q) = true :=
  kwfFrom_filter d m q none h

/-- A read inside and outside a run of writes. -/
theorem kget_ksetMany_ne [DecidableEq α] (d : α) (l : List α) (m : KMap α) {i j : Nat} (h : j < i ∨ i + l.length ≤ j) :
    kget d (ksetMany d m i l) j = kget d m j := by
  induction l generalizing m i with
  | nil => rfl
  | cons x l ih =>
    simp only [List.length_cons] at h
    simp only [ksetMany]
    rw [ih (kset d m i x) (by omega), kget_kset_ne d m x (by omega)]

theorem kget_ksetMany_mem [DecidableEq α] (d : α) (l : List α) (m : KMap α) {i j : Nat} (h : i ≤ j) (h2 : j < i + l.length) :
    kget d (ksetMany d m i l) j = l.getD (j - i) d := by
  induction l generalizing m i with
  | nil => simp at h2; omega
  | cons x l ih =>
    simp only [List.length_cons] at h2
    simp only [ksetMany]
    by_cases hj : j = i
    · subst hj
      rw [kget_ksetMany_ne d l _ (by omega)]
      simp
    · rw [ih (kset d m i x) (by omega) (by omega)]
      obtain ⟨n, hn⟩ : ∃ n, j - i = n + 1 := ⟨j - i - 1, by omega⟩
      rw [hn, show j - (i + 1) = n by omega]
      rfl

@[simp] theorem kgetMany_length (d : α) (m : KMap α) (i n : Nat) : (kgetMany d m i n).length = n := by
  induction n generalizing i with
  | zero => rfl
  | succ n ih => simp [kgetMany, ih]

/-- A key below the bound reads as the default. -/
theorem kget_below [DecidableEq α] (d : α) (m : KMap α) (l i : Nat) (h : kwfFrom d (some l) m = true) (hi : i ≤ l) :
    kget d m i = d := by
  induction m generalizing l with
  | nil => rfl
  | cons p m ih =>
    obtain ⟨k, v⟩ := p
    simp only [kwfFrom, Bool.and_eq_true, decide_eq_true_eq] at h
    have : i ≠ k := by omega
    simp only [kget, this, if_false]
    exact ih k h.2 (by omega)

theorem kwfFrom_ext [DecidableEq α] (d : α) (m n : KMap α) (a b : Option Nat) (hm : kwfFrom d a m = true)
    (hn : kwfFrom d b n = true) (h : ∀ i, kget d m i = kget d n i) : m = n := by
  induction m generalizing n a b with
  | nil =>
    cases n with
    | nil => rfl
    | cons q n =>
      obtain ⟨k, v⟩ := q
      simp only [kwfFrom, Bool.and_eq_true, decide_eq_true_eq] at hn
      have := h k
      simp only [kget, if_true] at this
      exact absurd this.symm hn.1.2
  | cons p m ih =>
    obtain ⟨k, v⟩ := p
    simp only [kwfFrom, Bool.and_eq_true, decide_eq_true_eq] at hm
    cases n with
    | nil =>
      have := h k
      simp only [kget, if_true] at this
      exact absurd this hm.1.2
    | cons q n =>
      obtain ⟨j, w⟩ := q
      simp only [kwfFrom, Bool.and_eq_true, decide_eq_true_eq] at hn
      have hk := h k
      have hj := h j
      simp only [kget, if_true] at hk hj
      by_cases e : k = j
      · subst e
        simp only [if_true] at hk
        subst hk
        have : m = n := by
          refine ih n _ _ hm.2 hn.2 (fun i => ?_)
          by_cases hi : i = k
          · subst hi
            rw [kget_below d m i i hm.2 (le_refl i), kget_below d n i i hn.2 (le_refl i)]
          · have := h i
            simpa only [kget, hi, if_false] using this
        rw [this]
      · exfalso
        have e2 : j ≠ k := fun x => e x.symm
        rw [if_neg e] at hk
        rw [if_neg e2] at hj
        rcases Nat.lt_or_gt_of_ne e with hlt | hlt
        · rw [kget_below d n j k hn.2 (by omega)] at hk
          exact hm.1.2 hk
        · rw [kget_below d m k j hm.2 (by omega)] at hj
          exact hn.1.2 hj.symm

/-- Equal reads make equal maps: the canonical form is unique. -/
theorem kwf_ext [DecidableEq α] (d : α) (m n : KMap α) (hm : kwf d m = true) (hn : kwf d n = true)
    (h : ∀ i, kget d m i = kget d n i) : m = n := kwfFrom_ext d m n none none hm hn h

end Sys2Proof.Machine
end

