-- ==== Sys2Proof/Laws/State.lean ====
section
/-! SUPPORT. What each update of the state leaves in each field and accessor: one lemma per field per update. -/

namespace Sys2Proof.Machine

variable (s : State)

/-! ### setThr -/

@[simp] theorem State.setThr_pending (t : Nat) (x : Thread) : (s.setThr t x).pending = s.pending := rfl
@[simp] theorem State.setThr_fresh (t : Nat) (x : Thread) : (s.setThr t x).fresh = s.fresh := rfl
@[simp] theorem State.setThr_ticks (t : Nat) (x : Thread) : (s.setThr t x).ticks = s.ticks := rfl
@[simp] theorem State.setThr_clk (t : Nat) (x : Thread) : (s.setThr t x).clk = s.clk := rfl
@[simp] theorem State.setThr_clkOff (t : Nat) (x : Thread) : (s.setThr t x).clkOff = s.clkOff := rfl
@[simp] theorem State.setThr_ref25 (t : Nat) (x : Thread) : (s.setThr t x).ref25 = s.ref25 := rfl
@[simp] theorem State.setThr_snap (t : Nat) (x : Thread) : (s.setThr t x).snap = s.snap := rfl
@[simp] theorem State.setThr_snapDone (t : Nat) (x : Thread) : (s.setThr t x).snapDone = s.snapDone := rfl
@[simp] theorem State.setThr_snapWait (t : Nat) (x : Thread) : (s.setThr t x).snapWait = s.snapWait := rfl
@[simp] theorem State.setThr_snapBusy (t : Nat) (x : Thread) : (s.setThr t x).snapBusy = s.snapBusy := rfl
@[simp] theorem State.setThr_cores (t : Nat) (x : Thread) : (s.setThr t x).cores = s.cores := rfl
@[simp] theorem State.setThr_sem (t : Nat) (x : Thread) : (s.setThr t x).sem = s.sem := rfl
@[simp] theorem State.setThr_semQ (t : Nat) (x : Thread) : (s.setThr t x).semQ = s.semQ := rfl
@[simp] theorem State.setThr_takeReply (t : Nat) (x : Thread) : (s.setThr t x).takeReply = s.takeReply := rfl
@[simp] theorem State.setThr_readReply (t : Nat) (x : Thread) : (s.setThr t x).readReply = s.readReply := rfl
@[simp] theorem State.setThr_mem (t : Nat) (x : Thread) : (s.setThr t x).mem = s.mem := rfl
@[simp] theorem State.setThr_gran (t : Nat) (x : Thread) : (s.setThr t x).gran = s.gran := rfl
@[simp] theorem State.setThr_capAM (t : Nat) (x : Thread) : (s.setThr t x).capAM = s.capAM := rfl
@[simp] theorem State.setThr_stepping (t : Nat) (x : Thread) : (s.setThr t x).stepping = s.stepping := rfl
@[simp] theorem State.setThr_memRate (t : Nat) (x : Thread) : (s.setThr t x).memRate = s.memRate := rfl
@[simp] theorem State.setThr_regions (t : Nat) (x : Thread) : (s.setThr t x).regions = s.regions := rfl
@[simp] theorem State.setThr_poolCfg (t : Nat) (x : Thread) : (s.setThr t x).poolCfg = s.poolCfg := rfl
@[simp] theorem State.setThr_parts (t : Nat) (x : Thread) : (s.setThr t x).parts = s.parts := rfl
@[simp] theorem State.setThr_prots (t : Nat) (x : Thread) : (s.setThr t x).prots = s.prots := rfl
@[simp] theorem State.setThr_xinv (t : Nat) (x : Thread) : (s.setThr t x).xinv = s.xinv := rfl
@[simp] theorem State.setThr_pelXlat (t : Nat) (x : Thread) : (s.setThr t x).pelXlat = s.pelXlat := rfl
@[simp] theorem State.setThr_bkts (t : Nat) (x : Thread) : (s.setThr t x).bkts = s.bkts := rfl
@[simp] theorem State.setThr_memErr (t : Nat) (x : Thread) : (s.setThr t x).memErr = s.memErr := rfl
@[simp] theorem State.setThr_front (t : Nat) (x : Thread) : (s.setThr t x).front = s.front := rfl
@[simp] theorem State.setThr_banks (t : Nat) (x : Thread) : (s.setThr t x).banks = s.banks := rfl
@[simp] theorem State.setThr_poolLines (t : Nat) (x : Thread) : (s.setThr t x).poolLines = s.poolLines := rfl
@[simp] theorem State.setThr_lookupQ (t : Nat) (x : Thread) : (s.setThr t x).lookupQ = s.lookupQ := rfl
@[simp] theorem State.setThr_engines (t : Nat) (x : Thread) : (s.setThr t x).engines = s.engines := rfl
@[simp] theorem State.setThr_ctxs (t : Nat) (x : Thread) : (s.setThr t x).ctxs = s.ctxs := rfl
@[simp] theorem State.setThr_stepc (t : Nat) (x : Thread) : (s.setThr t x).stepc = s.stepc := rfl
@[simp] theorem State.setThr_seqEntry (t : Nat) (x : Thread) : (s.setThr t x).seqEntry = s.seqEntry := rfl
@[simp] theorem State.setThr_seqBase (t : Nat) (x : Thread) : (s.setThr t x).seqBase = s.seqBase := rfl
@[simp] theorem State.setThr_trees (t : Nat) (x : Thread) : (s.setThr t x).trees = s.trees := rfl
@[simp] theorem State.setThr_lnkTmo (t : Nat) (x : Thread) : (s.setThr t x).lnkTmo = s.lnkTmo := rfl
@[simp] theorem State.setThr_lnkStall (t : Nat) (x : Thread) : (s.setThr t x).lnkStall = s.lnkStall := rfl
@[simp] theorem State.setThr_lnkId (t : Nat) (x : Thread) : (s.setThr t x).lnkId = s.lnkId := rfl
@[simp] theorem State.setThr_routes (t : Nat) (x : Thread) : (s.setThr t x).routes = s.routes := rfl
@[simp] theorem State.setThr_exports (t : Nat) (x : Thread) : (s.setThr t x).exports = s.exports := rfl
@[simp] theorem State.setThr_ports (t : Nat) (x : Thread) : (s.setThr t x).ports = s.ports := rfl
@[simp] theorem State.setThr_remotes (t : Nat) (x : Thread) : (s.setThr t x).remotes = s.remotes := rfl
@[simp] theorem State.setThr_nextXid (t : Nat) (x : Thread) : (s.setThr t x).nextXid = s.nextXid := rfl
@[simp] theorem State.setThr_cad (t : Nat) (x : Thread) : (s.setThr t x).cad = s.cad := rfl
@[simp] theorem State.setThr_gear (t : Nat) (x : Thread) : (s.setThr t x).gear = s.gear := rfl
@[simp] theorem State.setThr_host (t : Nat) (x : Thread) : (s.setThr t x).host = s.host := rfl
@[simp] theorem State.setThr_sec (t : Nat) (x : Thread) : (s.setThr t x).sec = s.sec := rfl
@[simp] theorem State.setThr_power (t : Nat) (x : Thread) : (s.setThr t x).power = s.power := rfl
@[simp] theorem State.setThr_events (t : Nat) (x : Thread) : (s.setThr t x).events = s.events := rfl
@[simp] theorem State.setThr_hub (t : Nat) (x : Thread) : (s.setThr t x).hub = s.hub := rfl
@[simp] theorem State.setThr_tap (t : Nat) (x : Thread) : (s.setThr t x).tap = s.tap := rfl
@[simp] theorem State.setThr_out (t : Nat) (x : Thread) : (s.setThr t x).out = s.out := rfl
@[simp] theorem State.setThr_core (t : Nat) (x : Thread) (j : Nat) : (s.setThr t x).core j = s.core j := rfl
@[simp] theorem State.setThr_ctx (t : Nat) (x : Thread) (j : Nat) : (s.setThr t x).ctx j = s.ctx j := rfl
@[simp] theorem State.setThr_engine (t : Nat) (x : Thread) (j : Nat) : (s.setThr t x).engine j = s.engine j := rfl
@[simp] theorem State.setThr_tree (t : Nat) (x : Thread) (j : Nat) : (s.setThr t x).tree j = s.tree j := rfl
@[simp] theorem State.setThr_port (t : Nat) (x : Thread) (j : Nat) : (s.setThr t x).port j = s.port j := rfl
@[simp] theorem State.setThr_hq (t : Nat) (x : Thread) (j : Nat) : (s.setThr t x).hq j = s.hq j := rfl
@[simp] theorem State.setThr_hubSrc (t : Nat) (x : Thread) (j : Nat) : (s.setThr t x).hubSrc j = s.hubSrc j := rfl
@[simp] theorem State.setThr_semCount (t : Nat) (x : Thread) (j : Nat) : (s.setThr t x).semCount j = s.semCount j := rfl
@[simp] theorem State.setThr_bank (t : Nat) (x : Thread) (j : Nat) : (s.setThr t x).bank j = s.bank j := rfl
@[simp] theorem State.setThr_count (t : Nat) (x : Thread) (j : Nat) : (s.setThr t x).count j = s.count j := rfl
@[simp] theorem State.setThr_part (t : Nat) (x : Thread) (j : Nat) : (s.setThr t x).part j = s.part j := rfl
@[simp] theorem State.setThr_byte (t : Nat) (x : Thread) (j : Nat) : (s.setThr t x).byte j = s.byte j := rfl
@[simp] theorem State.setThr_granule (t : Nat) (x : Thread) (j : Nat) : (s.setThr t x).granule j = s.granule j := rfl
@[simp] theorem State.setThr_thr_same (t : Nat) (x : Thread) : (s.setThr t x).thr t = x := kget_kset_same _ _ _ _
theorem State.setThr_thr_ne (t : Nat) (x : Thread) (j : Nat) (h : j ≠ t) : (s.setThr t x).thr j = s.thr j := kget_kset_ne _ _ _ h
theorem State.setThr_thr (t : Nat) (x : Thread) (j : Nat) : (s.setThr t x).thr j = if j = t then x else s.thr j := kget_kset _ _ _ _ _

/-! ### setCore -/

@[simp] theorem State.setCore_pending (c : Nat) (x : Core) : (s.setCore c x).pending = s.pending := rfl
@[simp] theorem State.setCore_fresh (c : Nat) (x : Core) : (s.setCore c x).fresh = s.fresh := rfl
@[simp] theorem State.setCore_ticks (c : Nat) (x : Core) : (s.setCore c x).ticks = s.ticks := rfl
@[simp] theorem State.setCore_clk (c : Nat) (x : Core) : (s.setCore c x).clk = s.clk := rfl
@[simp] theorem State.setCore_clkOff (c : Nat) (x : Core) : (s.setCore c x).clkOff = s.clkOff := rfl
@[simp] theorem State.setCore_ref25 (c : Nat) (x : Core) : (s.setCore c x).ref25 = s.ref25 := rfl
@[simp] theorem State.setCore_snap (c : Nat) (x : Core) : (s.setCore c x).snap = s.snap := rfl
@[simp] theorem State.setCore_snapDone (c : Nat) (x : Core) : (s.setCore c x).snapDone = s.snapDone := rfl
@[simp] theorem State.setCore_snapWait (c : Nat) (x : Core) : (s.setCore c x).snapWait = s.snapWait := rfl
@[simp] theorem State.setCore_snapBusy (c : Nat) (x : Core) : (s.setCore c x).snapBusy = s.snapBusy := rfl
@[simp] theorem State.setCore_threads (c : Nat) (x : Core) : (s.setCore c x).threads = s.threads := rfl
@[simp] theorem State.setCore_sem (c : Nat) (x : Core) : (s.setCore c x).sem = s.sem := rfl
@[simp] theorem State.setCore_semQ (c : Nat) (x : Core) : (s.setCore c x).semQ = s.semQ := rfl
@[simp] theorem State.setCore_takeReply (c : Nat) (x : Core) : (s.setCore c x).takeReply = s.takeReply := rfl
@[simp] theorem State.setCore_readReply (c : Nat) (x : Core) : (s.setCore c x).readReply = s.readReply := rfl
@[simp] theorem State.setCore_mem (c : Nat) (x : Core) : (s.setCore c x).mem = s.mem := rfl
@[simp] theorem State.setCore_gran (c : Nat) (x : Core) : (s.setCore c x).gran = s.gran := rfl
@[simp] theorem State.setCore_capAM (c : Nat) (x : Core) : (s.setCore c x).capAM = s.capAM := rfl
@[simp] theorem State.setCore_stepping (c : Nat) (x : Core) : (s.setCore c x).stepping = s.stepping := rfl
@[simp] theorem State.setCore_memRate (c : Nat) (x : Core) : (s.setCore c x).memRate = s.memRate := rfl
@[simp] theorem State.setCore_regions (c : Nat) (x : Core) : (s.setCore c x).regions = s.regions := rfl
@[simp] theorem State.setCore_poolCfg (c : Nat) (x : Core) : (s.setCore c x).poolCfg = s.poolCfg := rfl
@[simp] theorem State.setCore_parts (c : Nat) (x : Core) : (s.setCore c x).parts = s.parts := rfl
@[simp] theorem State.setCore_prots (c : Nat) (x : Core) : (s.setCore c x).prots = s.prots := rfl
@[simp] theorem State.setCore_xinv (c : Nat) (x : Core) : (s.setCore c x).xinv = s.xinv := rfl
@[simp] theorem State.setCore_pelXlat (c : Nat) (x : Core) : (s.setCore c x).pelXlat = s.pelXlat := rfl
@[simp] theorem State.setCore_bkts (c : Nat) (x : Core) : (s.setCore c x).bkts = s.bkts := rfl
@[simp] theorem State.setCore_memErr (c : Nat) (x : Core) : (s.setCore c x).memErr = s.memErr := rfl
@[simp] theorem State.setCore_front (c : Nat) (x : Core) : (s.setCore c x).front = s.front := rfl
@[simp] theorem State.setCore_banks (c : Nat) (x : Core) : (s.setCore c x).banks = s.banks := rfl
@[simp] theorem State.setCore_poolLines (c : Nat) (x : Core) : (s.setCore c x).poolLines = s.poolLines := rfl
@[simp] theorem State.setCore_lookupQ (c : Nat) (x : Core) : (s.setCore c x).lookupQ = s.lookupQ := rfl
@[simp] theorem State.setCore_engines (c : Nat) (x : Core) : (s.setCore c x).engines = s.engines := rfl
@[simp] theorem State.setCore_ctxs (c : Nat) (x : Core) : (s.setCore c x).ctxs = s.ctxs := rfl
@[simp] theorem State.setCore_stepc (c : Nat) (x : Core) : (s.setCore c x).stepc = s.stepc := rfl
@[simp] theorem State.setCore_seqEntry (c : Nat) (x : Core) : (s.setCore c x).seqEntry = s.seqEntry := rfl
@[simp] theorem State.setCore_seqBase (c : Nat) (x : Core) : (s.setCore c x).seqBase = s.seqBase := rfl
@[simp] theorem State.setCore_trees (c : Nat) (x : Core) : (s.setCore c x).trees = s.trees := rfl
@[simp] theorem State.setCore_lnkTmo (c : Nat) (x : Core) : (s.setCore c x).lnkTmo = s.lnkTmo := rfl
@[simp] theorem State.setCore_lnkStall (c : Nat) (x : Core) : (s.setCore c x).lnkStall = s.lnkStall := rfl
@[simp] theorem State.setCore_lnkId (c : Nat) (x : Core) : (s.setCore c x).lnkId = s.lnkId := rfl
@[simp] theorem State.setCore_routes (c : Nat) (x : Core) : (s.setCore c x).routes = s.routes := rfl
@[simp] theorem State.setCore_exports (c : Nat) (x : Core) : (s.setCore c x).exports = s.exports := rfl
@[simp] theorem State.setCore_ports (c : Nat) (x : Core) : (s.setCore c x).ports = s.ports := rfl
@[simp] theorem State.setCore_remotes (c : Nat) (x : Core) : (s.setCore c x).remotes = s.remotes := rfl
@[simp] theorem State.setCore_nextXid (c : Nat) (x : Core) : (s.setCore c x).nextXid = s.nextXid := rfl
@[simp] theorem State.setCore_cad (c : Nat) (x : Core) : (s.setCore c x).cad = s.cad := rfl
@[simp] theorem State.setCore_gear (c : Nat) (x : Core) : (s.setCore c x).gear = s.gear := rfl
@[simp] theorem State.setCore_host (c : Nat) (x : Core) : (s.setCore c x).host = s.host := rfl
@[simp] theorem State.setCore_sec (c : Nat) (x : Core) : (s.setCore c x).sec = s.sec := rfl
@[simp] theorem State.setCore_power (c : Nat) (x : Core) : (s.setCore c x).power = s.power := rfl
@[simp] theorem State.setCore_events (c : Nat) (x : Core) : (s.setCore c x).events = s.events := rfl
@[simp] theorem State.setCore_hub (c : Nat) (x : Core) : (s.setCore c x).hub = s.hub := rfl
@[simp] theorem State.setCore_tap (c : Nat) (x : Core) : (s.setCore c x).tap = s.tap := rfl
@[simp] theorem State.setCore_out (c : Nat) (x : Core) : (s.setCore c x).out = s.out := rfl
@[simp] theorem State.setCore_thr (c : Nat) (x : Core) (j : Nat) : (s.setCore c x).thr j = s.thr j := rfl
@[simp] theorem State.setCore_ctx (c : Nat) (x : Core) (j : Nat) : (s.setCore c x).ctx j = s.ctx j := rfl
@[simp] theorem State.setCore_engine (c : Nat) (x : Core) (j : Nat) : (s.setCore c x).engine j = s.engine j := rfl
@[simp] theorem State.setCore_tree (c : Nat) (x : Core) (j : Nat) : (s.setCore c x).tree j = s.tree j := rfl
@[simp] theorem State.setCore_port (c : Nat) (x : Core) (j : Nat) : (s.setCore c x).port j = s.port j := rfl
@[simp] theorem State.setCore_hq (c : Nat) (x : Core) (j : Nat) : (s.setCore c x).hq j = s.hq j := rfl
@[simp] theorem State.setCore_hubSrc (c : Nat) (x : Core) (j : Nat) : (s.setCore c x).hubSrc j = s.hubSrc j := rfl
@[simp] theorem State.setCore_semCount (c : Nat) (x : Core) (j : Nat) : (s.setCore c x).semCount j = s.semCount j := rfl
@[simp] theorem State.setCore_bank (c : Nat) (x : Core) (j : Nat) : (s.setCore c x).bank j = s.bank j := rfl
@[simp] theorem State.setCore_count (c : Nat) (x : Core) (j : Nat) : (s.setCore c x).count j = s.count j := rfl
@[simp] theorem State.setCore_part (c : Nat) (x : Core) (j : Nat) : (s.setCore c x).part j = s.part j := rfl
@[simp] theorem State.setCore_byte (c : Nat) (x : Core) (j : Nat) : (s.setCore c x).byte j = s.byte j := rfl
@[simp] theorem State.setCore_granule (c : Nat) (x : Core) (j : Nat) : (s.setCore c x).granule j = s.granule j := rfl
@[simp] theorem State.setCore_core_same (c : Nat) (x : Core) : (s.setCore c x).core c = x := kget_kset_same _ _ _ _
theorem State.setCore_core_ne (c : Nat) (x : Core) (j : Nat) (h : j ≠ c) : (s.setCore c x).core j = s.core j := kget_kset_ne _ _ _ h
theorem State.setCore_core (c : Nat) (x : Core) (j : Nat) : (s.setCore c x).core j = if j = c then x else s.core j := kget_kset _ _ _ _ _

/-! ### setCtx -/

@[simp] theorem State.setCtx_pending (n : Nat) (x : Ctx) : (s.setCtx n x).pending = s.pending := rfl
@[simp] theorem State.setCtx_fresh (n : Nat) (x : Ctx) : (s.setCtx n x).fresh = s.fresh := rfl
@[simp] theorem State.setCtx_ticks (n : Nat) (x : Ctx) : (s.setCtx n x).ticks = s.ticks := rfl
@[simp] theorem State.setCtx_clk (n : Nat) (x : Ctx) : (s.setCtx n x).clk = s.clk := rfl
@[simp] theorem State.setCtx_clkOff (n : Nat) (x : Ctx) : (s.setCtx n x).clkOff = s.clkOff := rfl
@[simp] theorem State.setCtx_ref25 (n : Nat) (x : Ctx) : (s.setCtx n x).ref25 = s.ref25 := rfl
@[simp] theorem State.setCtx_snap (n : Nat) (x : Ctx) : (s.setCtx n x).snap = s.snap := rfl
@[simp] theorem State.setCtx_snapDone (n : Nat) (x : Ctx) : (s.setCtx n x).snapDone = s.snapDone := rfl
@[simp] theorem State.setCtx_snapWait (n : Nat) (x : Ctx) : (s.setCtx n x).snapWait = s.snapWait := rfl
@[simp] theorem State.setCtx_snapBusy (n : Nat) (x : Ctx) : (s.setCtx n x).snapBusy = s.snapBusy := rfl
@[simp] theorem State.setCtx_threads (n : Nat) (x : Ctx) : (s.setCtx n x).threads = s.threads := rfl
@[simp] theorem State.setCtx_cores (n : Nat) (x : Ctx) : (s.setCtx n x).cores = s.cores := rfl
@[simp] theorem State.setCtx_sem (n : Nat) (x : Ctx) : (s.setCtx n x).sem = s.sem := rfl
@[simp] theorem State.setCtx_semQ (n : Nat) (x : Ctx) : (s.setCtx n x).semQ = s.semQ := rfl
@[simp] theorem State.setCtx_takeReply (n : Nat) (x : Ctx) : (s.setCtx n x).takeReply = s.takeReply := rfl
@[simp] theorem State.setCtx_readReply (n : Nat) (x : Ctx) : (s.setCtx n x).readReply = s.readReply := rfl
@[simp] theorem State.setCtx_mem (n : Nat) (x : Ctx) : (s.setCtx n x).mem = s.mem := rfl
@[simp] theorem State.setCtx_gran (n : Nat) (x : Ctx) : (s.setCtx n x).gran = s.gran := rfl
@[simp] theorem State.setCtx_capAM (n : Nat) (x : Ctx) : (s.setCtx n x).capAM = s.capAM := rfl
@[simp] theorem State.setCtx_stepping (n : Nat) (x : Ctx) : (s.setCtx n x).stepping = s.stepping := rfl
@[simp] theorem State.setCtx_memRate (n : Nat) (x : Ctx) : (s.setCtx n x).memRate = s.memRate := rfl
@[simp] theorem State.setCtx_regions (n : Nat) (x : Ctx) : (s.setCtx n x).regions = s.regions := rfl
@[simp] theorem State.setCtx_poolCfg (n : Nat) (x : Ctx) : (s.setCtx n x).poolCfg = s.poolCfg := rfl
@[simp] theorem State.setCtx_parts (n : Nat) (x : Ctx) : (s.setCtx n x).parts = s.parts := rfl
@[simp] theorem State.setCtx_prots (n : Nat) (x : Ctx) : (s.setCtx n x).prots = s.prots := rfl
@[simp] theorem State.setCtx_xinv (n : Nat) (x : Ctx) : (s.setCtx n x).xinv = s.xinv := rfl
@[simp] theorem State.setCtx_pelXlat (n : Nat) (x : Ctx) : (s.setCtx n x).pelXlat = s.pelXlat := rfl
@[simp] theorem State.setCtx_bkts (n : Nat) (x : Ctx) : (s.setCtx n x).bkts = s.bkts := rfl
@[simp] theorem State.setCtx_memErr (n : Nat) (x : Ctx) : (s.setCtx n x).memErr = s.memErr := rfl
@[simp] theorem State.setCtx_front (n : Nat) (x : Ctx) : (s.setCtx n x).front = s.front := rfl
@[simp] theorem State.setCtx_banks (n : Nat) (x : Ctx) : (s.setCtx n x).banks = s.banks := rfl
@[simp] theorem State.setCtx_poolLines (n : Nat) (x : Ctx) : (s.setCtx n x).poolLines = s.poolLines := rfl
@[simp] theorem State.setCtx_lookupQ (n : Nat) (x : Ctx) : (s.setCtx n x).lookupQ = s.lookupQ := rfl
@[simp] theorem State.setCtx_engines (n : Nat) (x : Ctx) : (s.setCtx n x).engines = s.engines := rfl
@[simp] theorem State.setCtx_stepc (n : Nat) (x : Ctx) : (s.setCtx n x).stepc = s.stepc := rfl
@[simp] theorem State.setCtx_seqEntry (n : Nat) (x : Ctx) : (s.setCtx n x).seqEntry = s.seqEntry := rfl
@[simp] theorem State.setCtx_seqBase (n : Nat) (x : Ctx) : (s.setCtx n x).seqBase = s.seqBase := rfl
@[simp] theorem State.setCtx_trees (n : Nat) (x : Ctx) : (s.setCtx n x).trees = s.trees := rfl
@[simp] theorem State.setCtx_lnkTmo (n : Nat) (x : Ctx) : (s.setCtx n x).lnkTmo = s.lnkTmo := rfl
@[simp] theorem State.setCtx_lnkStall (n : Nat) (x : Ctx) : (s.setCtx n x).lnkStall = s.lnkStall := rfl
@[simp] theorem State.setCtx_lnkId (n : Nat) (x : Ctx) : (s.setCtx n x).lnkId = s.lnkId := rfl
@[simp] theorem State.setCtx_routes (n : Nat) (x : Ctx) : (s.setCtx n x).routes = s.routes := rfl
@[simp] theorem State.setCtx_exports (n : Nat) (x : Ctx) : (s.setCtx n x).exports = s.exports := rfl
@[simp] theorem State.setCtx_ports (n : Nat) (x : Ctx) : (s.setCtx n x).ports = s.ports := rfl
@[simp] theorem State.setCtx_remotes (n : Nat) (x : Ctx) : (s.setCtx n x).remotes = s.remotes := rfl
@[simp] theorem State.setCtx_nextXid (n : Nat) (x : Ctx) : (s.setCtx n x).nextXid = s.nextXid := rfl
@[simp] theorem State.setCtx_cad (n : Nat) (x : Ctx) : (s.setCtx n x).cad = s.cad := rfl
@[simp] theorem State.setCtx_gear (n : Nat) (x : Ctx) : (s.setCtx n x).gear = s.gear := rfl
@[simp] theorem State.setCtx_host (n : Nat) (x : Ctx) : (s.setCtx n x).host = s.host := rfl
@[simp] theorem State.setCtx_sec (n : Nat) (x : Ctx) : (s.setCtx n x).sec = s.sec := rfl
@[simp] theorem State.setCtx_power (n : Nat) (x : Ctx) : (s.setCtx n x).power = s.power := rfl
@[simp] theorem State.setCtx_events (n : Nat) (x : Ctx) : (s.setCtx n x).events = s.events := rfl
@[simp] theorem State.setCtx_hub (n : Nat) (x : Ctx) : (s.setCtx n x).hub = s.hub := rfl
@[simp] theorem State.setCtx_tap (n : Nat) (x : Ctx) : (s.setCtx n x).tap = s.tap := rfl
@[simp] theorem State.setCtx_out (n : Nat) (x : Ctx) : (s.setCtx n x).out = s.out := rfl
@[simp] theorem State.setCtx_thr (n : Nat) (x : Ctx) (j : Nat) : (s.setCtx n x).thr j = s.thr j := rfl
@[simp] theorem State.setCtx_core (n : Nat) (x : Ctx) (j : Nat) : (s.setCtx n x).core j = s.core j := rfl
@[simp] theorem State.setCtx_engine (n : Nat) (x : Ctx) (j : Nat) : (s.setCtx n x).engine j = s.engine j := rfl
@[simp] theorem State.setCtx_tree (n : Nat) (x : Ctx) (j : Nat) : (s.setCtx n x).tree j = s.tree j := rfl
@[simp] theorem State.setCtx_port (n : Nat) (x : Ctx) (j : Nat) : (s.setCtx n x).port j = s.port j := rfl
@[simp] theorem State.setCtx_hq (n : Nat) (x : Ctx) (j : Nat) : (s.setCtx n x).hq j = s.hq j := rfl
@[simp] theorem State.setCtx_hubSrc (n : Nat) (x : Ctx) (j : Nat) : (s.setCtx n x).hubSrc j = s.hubSrc j := rfl
@[simp] theorem State.setCtx_semCount (n : Nat) (x : Ctx) (j : Nat) : (s.setCtx n x).semCount j = s.semCount j := rfl
@[simp] theorem State.setCtx_bank (n : Nat) (x : Ctx) (j : Nat) : (s.setCtx n x).bank j = s.bank j := rfl
@[simp] theorem State.setCtx_count (n : Nat) (x : Ctx) (j : Nat) : (s.setCtx n x).count j = s.count j := rfl
@[simp] theorem State.setCtx_part (n : Nat) (x : Ctx) (j : Nat) : (s.setCtx n x).part j = s.part j := rfl
@[simp] theorem State.setCtx_byte (n : Nat) (x : Ctx) (j : Nat) : (s.setCtx n x).byte j = s.byte j := rfl
@[simp] theorem State.setCtx_granule (n : Nat) (x : Ctx) (j : Nat) : (s.setCtx n x).granule j = s.granule j := rfl
@[simp] theorem State.setCtx_ctx_same (n : Nat) (x : Ctx) : (s.setCtx n x).ctx n = x := kget_kset_same _ _ _ _
theorem State.setCtx_ctx_ne (n : Nat) (x : Ctx) (j : Nat) (h : j ≠ n) : (s.setCtx n x).ctx j = s.ctx j := kget_kset_ne _ _ _ h
theorem State.setCtx_ctx (n : Nat) (x : Ctx) (j : Nat) : (s.setCtx n x).ctx j = if j = n then x else s.ctx j := kget_kset _ _ _ _ _

/-! ### setEngine -/

@[simp] theorem State.setEngine_pending (e : Nat) (x : Engine) : (s.setEngine e x).pending = s.pending := rfl
@[simp] theorem State.setEngine_fresh (e : Nat) (x : Engine) : (s.setEngine e x).fresh = s.fresh := rfl
@[simp] theorem State.setEngine_ticks (e : Nat) (x : Engine) : (s.setEngine e x).ticks = s.ticks := rfl
@[simp] theorem State.setEngine_clk (e : Nat) (x : Engine) : (s.setEngine e x).clk = s.clk := rfl
@[simp] theorem State.setEngine_clkOff (e : Nat) (x : Engine) : (s.setEngine e x).clkOff = s.clkOff := rfl
@[simp] theorem State.setEngine_ref25 (e : Nat) (x : Engine) : (s.setEngine e x).ref25 = s.ref25 := rfl
@[simp] theorem State.setEngine_snap (e : Nat) (x : Engine) : (s.setEngine e x).snap = s.snap := rfl
@[simp] theorem State.setEngine_snapDone (e : Nat) (x : Engine) : (s.setEngine e x).snapDone = s.snapDone := rfl
@[simp] theorem State.setEngine_snapWait (e : Nat) (x : Engine) : (s.setEngine e x).snapWait = s.snapWait := rfl
@[simp] theorem State.setEngine_snapBusy (e : Nat) (x : Engine) : (s.setEngine e x).snapBusy = s.snapBusy := rfl
@[simp] theorem State.setEngine_threads (e : Nat) (x : Engine) : (s.setEngine e x).threads = s.threads := rfl
@[simp] theorem State.setEngine_cores (e : Nat) (x : Engine) : (s.setEngine e x).cores = s.cores := rfl
@[simp] theorem State.setEngine_sem (e : Nat) (x : Engine) : (s.setEngine e x).sem = s.sem := rfl
@[simp] theorem State.setEngine_semQ (e : Nat) (x : Engine) : (s.setEngine e x).semQ = s.semQ := rfl
@[simp] theorem State.setEngine_takeReply (e : Nat) (x : Engine) : (s.setEngine e x).takeReply = s.takeReply := rfl
@[simp] theorem State.setEngine_readReply (e : Nat) (x : Engine) : (s.setEngine e x).readReply = s.readReply := rfl
@[simp] theorem State.setEngine_mem (e : Nat) (x : Engine) : (s.setEngine e x).mem = s.mem := rfl
@[simp] theorem State.setEngine_gran (e : Nat) (x : Engine) : (s.setEngine e x).gran = s.gran := rfl
@[simp] theorem State.setEngine_capAM (e : Nat) (x : Engine) : (s.setEngine e x).capAM = s.capAM := rfl
@[simp] theorem State.setEngine_stepping (e : Nat) (x : Engine) : (s.setEngine e x).stepping = s.stepping := rfl
@[simp] theorem State.setEngine_memRate (e : Nat) (x : Engine) : (s.setEngine e x).memRate = s.memRate := rfl
@[simp] theorem State.setEngine_regions (e : Nat) (x : Engine) : (s.setEngine e x).regions = s.regions := rfl
@[simp] theorem State.setEngine_poolCfg (e : Nat) (x : Engine) : (s.setEngine e x).poolCfg = s.poolCfg := rfl
@[simp] theorem State.setEngine_parts (e : Nat) (x : Engine) : (s.setEngine e x).parts = s.parts := rfl
@[simp] theorem State.setEngine_prots (e : Nat) (x : Engine) : (s.setEngine e x).prots = s.prots := rfl
@[simp] theorem State.setEngine_xinv (e : Nat) (x : Engine) : (s.setEngine e x).xinv = s.xinv := rfl
@[simp] theorem State.setEngine_pelXlat (e : Nat) (x : Engine) : (s.setEngine e x).pelXlat = s.pelXlat := rfl
@[simp] theorem State.setEngine_bkts (e : Nat) (x : Engine) : (s.setEngine e x).bkts = s.bkts := rfl
@[simp] theorem State.setEngine_memErr (e : Nat) (x : Engine) : (s.setEngine e x).memErr = s.memErr := rfl
@[simp] theorem State.setEngine_front (e : Nat) (x : Engine) : (s.setEngine e x).front = s.front := rfl
@[simp] theorem State.setEngine_banks (e : Nat) (x : Engine) : (s.setEngine e x).banks = s.banks := rfl
@[simp] theorem State.setEngine_poolLines (e : Nat) (x : Engine) : (s.setEngine e x).poolLines = s.poolLines := rfl
@[simp] theorem State.setEngine_lookupQ (e : Nat) (x : Engine) : (s.setEngine e x).lookupQ = s.lookupQ := rfl
@[simp] theorem State.setEngine_ctxs (e : Nat) (x : Engine) : (s.setEngine e x).ctxs = s.ctxs := rfl
@[simp] theorem State.setEngine_stepc (e : Nat) (x : Engine) : (s.setEngine e x).stepc = s.stepc := rfl
@[simp] theorem State.setEngine_seqEntry (e : Nat) (x : Engine) : (s.setEngine e x).seqEntry = s.seqEntry := rfl
@[simp] theorem State.setEngine_seqBase (e : Nat) (x : Engine) : (s.setEngine e x).seqBase = s.seqBase := rfl
@[simp] theorem State.setEngine_trees (e : Nat) (x : Engine) : (s.setEngine e x).trees = s.trees := rfl
@[simp] theorem State.setEngine_lnkTmo (e : Nat) (x : Engine) : (s.setEngine e x).lnkTmo = s.lnkTmo := rfl
@[simp] theorem State.setEngine_lnkStall (e : Nat) (x : Engine) : (s.setEngine e x).lnkStall = s.lnkStall := rfl
@[simp] theorem State.setEngine_lnkId (e : Nat) (x : Engine) : (s.setEngine e x).lnkId = s.lnkId := rfl
@[simp] theorem State.setEngine_routes (e : Nat) (x : Engine) : (s.setEngine e x).routes = s.routes := rfl
@[simp] theorem State.setEngine_exports (e : Nat) (x : Engine) : (s.setEngine e x).exports = s.exports := rfl
@[simp] theorem State.setEngine_ports (e : Nat) (x : Engine) : (s.setEngine e x).ports = s.ports := rfl
@[simp] theorem State.setEngine_remotes (e : Nat) (x : Engine) : (s.setEngine e x).remotes = s.remotes := rfl
@[simp] theorem State.setEngine_nextXid (e : Nat) (x : Engine) : (s.setEngine e x).nextXid = s.nextXid := rfl
@[simp] theorem State.setEngine_cad (e : Nat) (x : Engine) : (s.setEngine e x).cad = s.cad := rfl
@[simp] theorem State.setEngine_gear (e : Nat) (x : Engine) : (s.setEngine e x).gear = s.gear := rfl
@[simp] theorem State.setEngine_host (e : Nat) (x : Engine) : (s.setEngine e x).host = s.host := rfl
@[simp] theorem State.setEngine_sec (e : Nat) (x : Engine) : (s.setEngine e x).sec = s.sec := rfl
@[simp] theorem State.setEngine_power (e : Nat) (x : Engine) : (s.setEngine e x).power = s.power := rfl
@[simp] theorem State.setEngine_events (e : Nat) (x : Engine) : (s.setEngine e x).events = s.events := rfl
@[simp] theorem State.setEngine_hub (e : Nat) (x : Engine) : (s.setEngine e x).hub = s.hub := rfl
@[simp] theorem State.setEngine_tap (e : Nat) (x : Engine) : (s.setEngine e x).tap = s.tap := rfl
@[simp] theorem State.setEngine_out (e : Nat) (x : Engine) : (s.setEngine e x).out = s.out := rfl
@[simp] theorem State.setEngine_thr (e : Nat) (x : Engine) (j : Nat) : (s.setEngine e x).thr j = s.thr j := rfl
@[simp] theorem State.setEngine_core (e : Nat) (x : Engine) (j : Nat) : (s.setEngine e x).core j = s.core j := rfl
@[simp] theorem State.setEngine_ctx (e : Nat) (x : Engine) (j : Nat) : (s.setEngine e x).ctx j = s.ctx j := rfl
@[simp] theorem State.setEngine_tree (e : Nat) (x : Engine) (j : Nat) : (s.setEngine e x).tree j = s.tree j := rfl
@[simp] theorem State.setEngine_port (e : Nat) (x : Engine) (j : Nat) : (s.setEngine e x).port j = s.port j := rfl
@[simp] theorem State.setEngine_hq (e : Nat) (x : Engine) (j : Nat) : (s.setEngine e x).hq j = s.hq j := rfl
@[simp] theorem State.setEngine_hubSrc (e : Nat) (x : Engine) (j : Nat) : (s.setEngine e x).hubSrc j = s.hubSrc j := rfl
@[simp] theorem State.setEngine_semCount (e : Nat) (x : Engine) (j : Nat) : (s.setEngine e x).semCount j = s.semCount j := rfl
@[simp] theorem State.setEngine_bank (e : Nat) (x : Engine) (j : Nat) : (s.setEngine e x).bank j = s.bank j := rfl
@[simp] theorem State.setEngine_count (e : Nat) (x : Engine) (j : Nat) : (s.setEngine e x).count j = s.count j := rfl
@[simp] theorem State.setEngine_part (e : Nat) (x : Engine) (j : Nat) : (s.setEngine e x).part j = s.part j := rfl
@[simp] theorem State.setEngine_byte (e : Nat) (x : Engine) (j : Nat) : (s.setEngine e x).byte j = s.byte j := rfl
@[simp] theorem State.setEngine_granule (e : Nat) (x : Engine) (j : Nat) : (s.setEngine e x).granule j = s.granule j := rfl
@[simp] theorem State.setEngine_engine_same (e : Nat) (x : Engine) : (s.setEngine e x).engine e = x := kget_kset_same _ _ _ _
theorem State.setEngine_engine_ne (e : Nat) (x : Engine) (j : Nat) (h : j ≠ e) : (s.setEngine e x).engine j = s.engine j := kget_kset_ne _ _ _ h
theorem State.setEngine_engine (e : Nat) (x : Engine) (j : Nat) : (s.setEngine e x).engine j = if j = e then x else s.engine j := kget_kset _ _ _ _ _

/-! ### setTree -/

@[simp] theorem State.setTree_pending (t : Nat) (x : Tree) : (s.setTree t x).pending = s.pending := rfl
@[simp] theorem State.setTree_fresh (t : Nat) (x : Tree) : (s.setTree t x).fresh = s.fresh := rfl
@[simp] theorem State.setTree_ticks (t : Nat) (x : Tree) : (s.setTree t x).ticks = s.ticks := rfl
@[simp] theorem State.setTree_clk (t : Nat) (x : Tree) : (s.setTree t x).clk = s.clk := rfl
@[simp] theorem State.setTree_clkOff (t : Nat) (x : Tree) : (s.setTree t x).clkOff = s.clkOff := rfl
@[simp] theorem State.setTree_ref25 (t : Nat) (x : Tree) : (s.setTree t x).ref25 = s.ref25 := rfl
@[simp] theorem State.setTree_snap (t : Nat) (x : Tree) : (s.setTree t x).snap = s.snap := rfl
@[simp] theorem State.setTree_snapDone (t : Nat) (x : Tree) : (s.setTree t x).snapDone = s.snapDone := rfl
@[simp] theorem State.setTree_snapWait (t : Nat) (x : Tree) : (s.setTree t x).snapWait = s.snapWait := rfl
@[simp] theorem State.setTree_snapBusy (t : Nat) (x : Tree) : (s.setTree t x).snapBusy = s.snapBusy := rfl
@[simp] theorem State.setTree_threads (t : Nat) (x : Tree) : (s.setTree t x).threads = s.threads := rfl
@[simp] theorem State.setTree_cores (t : Nat) (x : Tree) : (s.setTree t x).cores = s.cores := rfl
@[simp] theorem State.setTree_sem (t : Nat) (x : Tree) : (s.setTree t x).sem = s.sem := rfl
@[simp] theorem State.setTree_semQ (t : Nat) (x : Tree) : (s.setTree t x).semQ = s.semQ := rfl
@[simp] theorem State.setTree_takeReply (t : Nat) (x : Tree) : (s.setTree t x).takeReply = s.takeReply := rfl
@[simp] theorem State.setTree_readReply (t : Nat) (x : Tree) : (s.setTree t x).readReply = s.readReply := rfl
@[simp] theorem State.setTree_mem (t : Nat) (x : Tree) : (s.setTree t x).mem = s.mem := rfl
@[simp] theorem State.setTree_gran (t : Nat) (x : Tree) : (s.setTree t x).gran = s.gran := rfl
@[simp] theorem State.setTree_capAM (t : Nat) (x : Tree) : (s.setTree t x).capAM = s.capAM := rfl
@[simp] theorem State.setTree_stepping (t : Nat) (x : Tree) : (s.setTree t x).stepping = s.stepping := rfl
@[simp] theorem State.setTree_memRate (t : Nat) (x : Tree) : (s.setTree t x).memRate = s.memRate := rfl
@[simp] theorem State.setTree_regions (t : Nat) (x : Tree) : (s.setTree t x).regions = s.regions := rfl
@[simp] theorem State.setTree_poolCfg (t : Nat) (x : Tree) : (s.setTree t x).poolCfg = s.poolCfg := rfl
@[simp] theorem State.setTree_parts (t : Nat) (x : Tree) : (s.setTree t x).parts = s.parts := rfl
@[simp] theorem State.setTree_prots (t : Nat) (x : Tree) : (s.setTree t x).prots = s.prots := rfl
@[simp] theorem State.setTree_xinv (t : Nat) (x : Tree) : (s.setTree t x).xinv = s.xinv := rfl
@[simp] theorem State.setTree_pelXlat (t : Nat) (x : Tree) : (s.setTree t x).pelXlat = s.pelXlat := rfl
@[simp] theorem State.setTree_bkts (t : Nat) (x : Tree) : (s.setTree t x).bkts = s.bkts := rfl
@[simp] theorem State.setTree_memErr (t : Nat) (x : Tree) : (s.setTree t x).memErr = s.memErr := rfl
@[simp] theorem State.setTree_front (t : Nat) (x : Tree) : (s.setTree t x).front = s.front := rfl
@[simp] theorem State.setTree_banks (t : Nat) (x : Tree) : (s.setTree t x).banks = s.banks := rfl
@[simp] theorem State.setTree_poolLines (t : Nat) (x : Tree) : (s.setTree t x).poolLines = s.poolLines := rfl
@[simp] theorem State.setTree_lookupQ (t : Nat) (x : Tree) : (s.setTree t x).lookupQ = s.lookupQ := rfl
@[simp] theorem State.setTree_engines (t : Nat) (x : Tree) : (s.setTree t x).engines = s.engines := rfl
@[simp] theorem State.setTree_ctxs (t : Nat) (x : Tree) : (s.setTree t x).ctxs = s.ctxs := rfl
@[simp] theorem State.setTree_stepc (t : Nat) (x : Tree) : (s.setTree t x).stepc = s.stepc := rfl
@[simp] theorem State.setTree_seqEntry (t : Nat) (x : Tree) : (s.setTree t x).seqEntry = s.seqEntry := rfl
@[simp] theorem State.setTree_seqBase (t : Nat) (x : Tree) : (s.setTree t x).seqBase = s.seqBase := rfl
@[simp] theorem State.setTree_lnkTmo (t : Nat) (x : Tree) : (s.setTree t x).lnkTmo = s.lnkTmo := rfl
@[simp] theorem State.setTree_lnkStall (t : Nat) (x : Tree) : (s.setTree t x).lnkStall = s.lnkStall := rfl
@[simp] theorem State.setTree_lnkId (t : Nat) (x : Tree) : (s.setTree t x).lnkId = s.lnkId := rfl
@[simp] theorem State.setTree_routes (t : Nat) (x : Tree) : (s.setTree t x).routes = s.routes := rfl
@[simp] theorem State.setTree_exports (t : Nat) (x : Tree) : (s.setTree t x).exports = s.exports := rfl
@[simp] theorem State.setTree_ports (t : Nat) (x : Tree) : (s.setTree t x).ports = s.ports := rfl
@[simp] theorem State.setTree_remotes (t : Nat) (x : Tree) : (s.setTree t x).remotes = s.remotes := rfl
@[simp] theorem State.setTree_nextXid (t : Nat) (x : Tree) : (s.setTree t x).nextXid = s.nextXid := rfl
@[simp] theorem State.setTree_cad (t : Nat) (x : Tree) : (s.setTree t x).cad = s.cad := rfl
@[simp] theorem State.setTree_gear (t : Nat) (x : Tree) : (s.setTree t x).gear = s.gear := rfl
@[simp] theorem State.setTree_host (t : Nat) (x : Tree) : (s.setTree t x).host = s.host := rfl
@[simp] theorem State.setTree_sec (t : Nat) (x : Tree) : (s.setTree t x).sec = s.sec := rfl
@[simp] theorem State.setTree_power (t : Nat) (x : Tree) : (s.setTree t x).power = s.power := rfl
@[simp] theorem State.setTree_events (t : Nat) (x : Tree) : (s.setTree t x).events = s.events := rfl
@[simp] theorem State.setTree_hub (t : Nat) (x : Tree) : (s.setTree t x).hub = s.hub := rfl
@[simp] theorem State.setTree_tap (t : Nat) (x : Tree) : (s.setTree t x).tap = s.tap := rfl
@[simp] theorem State.setTree_out (t : Nat) (x : Tree) : (s.setTree t x).out = s.out := rfl
@[simp] theorem State.setTree_thr (t : Nat) (x : Tree) (j : Nat) : (s.setTree t x).thr j = s.thr j := rfl
@[simp] theorem State.setTree_core (t : Nat) (x : Tree) (j : Nat) : (s.setTree t x).core j = s.core j := rfl
@[simp] theorem State.setTree_ctx (t : Nat) (x : Tree) (j : Nat) : (s.setTree t x).ctx j = s.ctx j := rfl
@[simp] theorem State.setTree_engine (t : Nat) (x : Tree) (j : Nat) : (s.setTree t x).engine j = s.engine j := rfl
@[simp] theorem State.setTree_port (t : Nat) (x : Tree) (j : Nat) : (s.setTree t x).port j = s.port j := rfl
@[simp] theorem State.setTree_hq (t : Nat) (x : Tree) (j : Nat) : (s.setTree t x).hq j = s.hq j := rfl
@[simp] theorem State.setTree_hubSrc (t : Nat) (x : Tree) (j : Nat) : (s.setTree t x).hubSrc j = s.hubSrc j := rfl
@[simp] theorem State.setTree_semCount (t : Nat) (x : Tree) (j : Nat) : (s.setTree t x).semCount j = s.semCount j := rfl
@[simp] theorem State.setTree_bank (t : Nat) (x : Tree) (j : Nat) : (s.setTree t x).bank j = s.bank j := rfl
@[simp] theorem State.setTree_count (t : Nat) (x : Tree) (j : Nat) : (s.setTree t x).count j = s.count j := rfl
@[simp] theorem State.setTree_part (t : Nat) (x : Tree) (j : Nat) : (s.setTree t x).part j = s.part j := rfl
@[simp] theorem State.setTree_byte (t : Nat) (x : Tree) (j : Nat) : (s.setTree t x).byte j = s.byte j := rfl
@[simp] theorem State.setTree_granule (t : Nat) (x : Tree) (j : Nat) : (s.setTree t x).granule j = s.granule j := rfl
@[simp] theorem State.setTree_tree_same (t : Nat) (x : Tree) : (s.setTree t x).tree t = x := kget_kset_same _ _ _ _
theorem State.setTree_tree_ne (t : Nat) (x : Tree) (j : Nat) (h : j ≠ t) : (s.setTree t x).tree j = s.tree j := kget_kset_ne _ _ _ h
theorem State.setTree_tree (t : Nat) (x : Tree) (j : Nat) : (s.setTree t x).tree j = if j = t then x else s.tree j := kget_kset _ _ _ _ _

/-! ### setPort -/

@[simp] theorem State.setPort_pending (p : Nat) (x : Port) : (s.setPort p x).pending = s.pending := rfl
@[simp] theorem State.setPort_fresh (p : Nat) (x : Port) : (s.setPort p x).fresh = s.fresh := rfl
@[simp] theorem State.setPort_ticks (p : Nat) (x : Port) : (s.setPort p x).ticks = s.ticks := rfl
@[simp] theorem State.setPort_clk (p : Nat) (x : Port) : (s.setPort p x).clk = s.clk := rfl
@[simp] theorem State.setPort_clkOff (p : Nat) (x : Port) : (s.setPort p x).clkOff = s.clkOff := rfl
@[simp] theorem State.setPort_ref25 (p : Nat) (x : Port) : (s.setPort p x).ref25 = s.ref25 := rfl
@[simp] theorem State.setPort_snap (p : Nat) (x : Port) : (s.setPort p x).snap = s.snap := rfl
@[simp] theorem State.setPort_snapDone (p : Nat) (x : Port) : (s.setPort p x).snapDone = s.snapDone := rfl
@[simp] theorem State.setPort_snapWait (p : Nat) (x : Port) : (s.setPort p x).snapWait = s.snapWait := rfl
@[simp] theorem State.setPort_snapBusy (p : Nat) (x : Port) : (s.setPort p x).snapBusy = s.snapBusy := rfl
@[simp] theorem State.setPort_threads (p : Nat) (x : Port) : (s.setPort p x).threads = s.threads := rfl
@[simp] theorem State.setPort_cores (p : Nat) (x : Port) : (s.setPort p x).cores = s.cores := rfl
@[simp] theorem State.setPort_sem (p : Nat) (x : Port) : (s.setPort p x).sem = s.sem := rfl
@[simp] theorem State.setPort_semQ (p : Nat) (x : Port) : (s.setPort p x).semQ = s.semQ := rfl
@[simp] theorem State.setPort_takeReply (p : Nat) (x : Port) : (s.setPort p x).takeReply = s.takeReply := rfl
@[simp] theorem State.setPort_readReply (p : Nat) (x : Port) : (s.setPort p x).readReply = s.readReply := rfl
@[simp] theorem State.setPort_mem (p : Nat) (x : Port) : (s.setPort p x).mem = s.mem := rfl
@[simp] theorem State.setPort_gran (p : Nat) (x : Port) : (s.setPort p x).gran = s.gran := rfl
@[simp] theorem State.setPort_capAM (p : Nat) (x : Port) : (s.setPort p x).capAM = s.capAM := rfl
@[simp] theorem State.setPort_stepping (p : Nat) (x : Port) : (s.setPort p x).stepping = s.stepping := rfl
@[simp] theorem State.setPort_memRate (p : Nat) (x : Port) : (s.setPort p x).memRate = s.memRate := rfl
@[simp] theorem State.setPort_regions (p : Nat) (x : Port) : (s.setPort p x).regions = s.regions := rfl
@[simp] theorem State.setPort_poolCfg (p : Nat) (x : Port) : (s.setPort p x).poolCfg = s.poolCfg := rfl
@[simp] theorem State.setPort_parts (p : Nat) (x : Port) : (s.setPort p x).parts = s.parts := rfl
@[simp] theorem State.setPort_prots (p : Nat) (x : Port) : (s.setPort p x).prots = s.prots := rfl
@[simp] theorem State.setPort_xinv (p : Nat) (x : Port) : (s.setPort p x).xinv = s.xinv := rfl
@[simp] theorem State.setPort_pelXlat (p : Nat) (x : Port) : (s.setPort p x).pelXlat = s.pelXlat := rfl
@[simp] theorem State.setPort_bkts (p : Nat) (x : Port) : (s.setPort p x).bkts = s.bkts := rfl
@[simp] theorem State.setPort_memErr (p : Nat) (x : Port) : (s.setPort p x).memErr = s.memErr := rfl
@[simp] theorem State.setPort_front (p : Nat) (x : Port) : (s.setPort p x).front = s.front := rfl
@[simp] theorem State.setPort_banks (p : Nat) (x : Port) : (s.setPort p x).banks = s.banks := rfl
@[simp] theorem State.setPort_poolLines (p : Nat) (x : Port) : (s.setPort p x).poolLines = s.poolLines := rfl
@[simp] theorem State.setPort_lookupQ (p : Nat) (x : Port) : (s.setPort p x).lookupQ = s.lookupQ := rfl
@[simp] theorem State.setPort_engines (p : Nat) (x : Port) : (s.setPort p x).engines = s.engines := rfl
@[simp] theorem State.setPort_ctxs (p : Nat) (x : Port) : (s.setPort p x).ctxs = s.ctxs := rfl
@[simp] theorem State.setPort_stepc (p : Nat) (x : Port) : (s.setPort p x).stepc = s.stepc := rfl
@[simp] theorem State.setPort_seqEntry (p : Nat) (x : Port) : (s.setPort p x).seqEntry = s.seqEntry := rfl
@[simp] theorem State.setPort_seqBase (p : Nat) (x : Port) : (s.setPort p x).seqBase = s.seqBase := rfl
@[simp] theorem State.setPort_trees (p : Nat) (x : Port) : (s.setPort p x).trees = s.trees := rfl
@[simp] theorem State.setPort_lnkTmo (p : Nat) (x : Port) : (s.setPort p x).lnkTmo = s.lnkTmo := rfl
@[simp] theorem State.setPort_lnkStall (p : Nat) (x : Port) : (s.setPort p x).lnkStall = s.lnkStall := rfl
@[simp] theorem State.setPort_lnkId (p : Nat) (x : Port) : (s.setPort p x).lnkId = s.lnkId := rfl
@[simp] theorem State.setPort_routes (p : Nat) (x : Port) : (s.setPort p x).routes = s.routes := rfl
@[simp] theorem State.setPort_exports (p : Nat) (x : Port) : (s.setPort p x).exports = s.exports := rfl
@[simp] theorem State.setPort_remotes (p : Nat) (x : Port) : (s.setPort p x).remotes = s.remotes := rfl
@[simp] theorem State.setPort_nextXid (p : Nat) (x : Port) : (s.setPort p x).nextXid = s.nextXid := rfl
@[simp] theorem State.setPort_cad (p : Nat) (x : Port) : (s.setPort p x).cad = s.cad := rfl
@[simp] theorem State.setPort_gear (p : Nat) (x : Port) : (s.setPort p x).gear = s.gear := rfl
@[simp] theorem State.setPort_host (p : Nat) (x : Port) : (s.setPort p x).host = s.host := rfl
@[simp] theorem State.setPort_sec (p : Nat) (x : Port) : (s.setPort p x).sec = s.sec := rfl
@[simp] theorem State.setPort_power (p : Nat) (x : Port) : (s.setPort p x).power = s.power := rfl
@[simp] theorem State.setPort_events (p : Nat) (x : Port) : (s.setPort p x).events = s.events := rfl
@[simp] theorem State.setPort_hub (p : Nat) (x : Port) : (s.setPort p x).hub = s.hub := rfl
@[simp] theorem State.setPort_tap (p : Nat) (x : Port) : (s.setPort p x).tap = s.tap := rfl
@[simp] theorem State.setPort_out (p : Nat) (x : Port) : (s.setPort p x).out = s.out := rfl
@[simp] theorem State.setPort_thr (p : Nat) (x : Port) (j : Nat) : (s.setPort p x).thr j = s.thr j := rfl
@[simp] theorem State.setPort_core (p : Nat) (x : Port) (j : Nat) : (s.setPort p x).core j = s.core j := rfl
@[simp] theorem State.setPort_ctx (p : Nat) (x : Port) (j : Nat) : (s.setPort p x).ctx j = s.ctx j := rfl
@[simp] theorem State.setPort_engine (p : Nat) (x : Port) (j : Nat) : (s.setPort p x).engine j = s.engine j := rfl
@[simp] theorem State.setPort_tree (p : Nat) (x : Port) (j : Nat) : (s.setPort p x).tree j = s.tree j := rfl
@[simp] theorem State.setPort_hq (p : Nat) (x : Port) (j : Nat) : (s.setPort p x).hq j = s.hq j := rfl
@[simp] theorem State.setPort_hubSrc (p : Nat) (x : Port) (j : Nat) : (s.setPort p x).hubSrc j = s.hubSrc j := rfl
@[simp] theorem State.setPort_semCount (p : Nat) (x : Port) (j : Nat) : (s.setPort p x).semCount j = s.semCount j := rfl
@[simp] theorem State.setPort_bank (p : Nat) (x : Port) (j : Nat) : (s.setPort p x).bank j = s.bank j := rfl
@[simp] theorem State.setPort_count (p : Nat) (x : Port) (j : Nat) : (s.setPort p x).count j = s.count j := rfl
@[simp] theorem State.setPort_part (p : Nat) (x : Port) (j : Nat) : (s.setPort p x).part j = s.part j := rfl
@[simp] theorem State.setPort_byte (p : Nat) (x : Port) (j : Nat) : (s.setPort p x).byte j = s.byte j := rfl
@[simp] theorem State.setPort_granule (p : Nat) (x : Port) (j : Nat) : (s.setPort p x).granule j = s.granule j := rfl
@[simp] theorem State.setPort_port_same (p : Nat) (x : Port) : (s.setPort p x).port p = x := kget_kset_same _ _ _ _
theorem State.setPort_port_ne (p : Nat) (x : Port) (j : Nat) (h : j ≠ p) : (s.setPort p x).port j = s.port j := kget_kset_ne _ _ _ h
theorem State.setPort_port (p : Nat) (x : Port) (j : Nat) : (s.setPort p x).port j = if j = p then x else s.port j := kget_kset _ _ _ _ _

/-! ### setHq -/

@[simp] theorem State.setHq_pending (q : Nat) (x : HostQ) : (s.setHq q x).pending = s.pending := rfl
@[simp] theorem State.setHq_fresh (q : Nat) (x : HostQ) : (s.setHq q x).fresh = s.fresh := rfl
@[simp] theorem State.setHq_ticks (q : Nat) (x : HostQ) : (s.setHq q x).ticks = s.ticks := rfl
@[simp] theorem State.setHq_clk (q : Nat) (x : HostQ) : (s.setHq q x).clk = s.clk := rfl
@[simp] theorem State.setHq_clkOff (q : Nat) (x : HostQ) : (s.setHq q x).clkOff = s.clkOff := rfl
@[simp] theorem State.setHq_ref25 (q : Nat) (x : HostQ) : (s.setHq q x).ref25 = s.ref25 := rfl
@[simp] theorem State.setHq_snap (q : Nat) (x : HostQ) : (s.setHq q x).snap = s.snap := rfl
@[simp] theorem State.setHq_snapDone (q : Nat) (x : HostQ) : (s.setHq q x).snapDone = s.snapDone := rfl
@[simp] theorem State.setHq_snapWait (q : Nat) (x : HostQ) : (s.setHq q x).snapWait = s.snapWait := rfl
@[simp] theorem State.setHq_snapBusy (q : Nat) (x : HostQ) : (s.setHq q x).snapBusy = s.snapBusy := rfl
@[simp] theorem State.setHq_threads (q : Nat) (x : HostQ) : (s.setHq q x).threads = s.threads := rfl
@[simp] theorem State.setHq_cores (q : Nat) (x : HostQ) : (s.setHq q x).cores = s.cores := rfl
@[simp] theorem State.setHq_sem (q : Nat) (x : HostQ) : (s.setHq q x).sem = s.sem := rfl
@[simp] theorem State.setHq_semQ (q : Nat) (x : HostQ) : (s.setHq q x).semQ = s.semQ := rfl
@[simp] theorem State.setHq_takeReply (q : Nat) (x : HostQ) : (s.setHq q x).takeReply = s.takeReply := rfl
@[simp] theorem State.setHq_readReply (q : Nat) (x : HostQ) : (s.setHq q x).readReply = s.readReply := rfl
@[simp] theorem State.setHq_mem (q : Nat) (x : HostQ) : (s.setHq q x).mem = s.mem := rfl
@[simp] theorem State.setHq_gran (q : Nat) (x : HostQ) : (s.setHq q x).gran = s.gran := rfl
@[simp] theorem State.setHq_capAM (q : Nat) (x : HostQ) : (s.setHq q x).capAM = s.capAM := rfl
@[simp] theorem State.setHq_stepping (q : Nat) (x : HostQ) : (s.setHq q x).stepping = s.stepping := rfl
@[simp] theorem State.setHq_memRate (q : Nat) (x : HostQ) : (s.setHq q x).memRate = s.memRate := rfl
@[simp] theorem State.setHq_regions (q : Nat) (x : HostQ) : (s.setHq q x).regions = s.regions := rfl
@[simp] theorem State.setHq_poolCfg (q : Nat) (x : HostQ) : (s.setHq q x).poolCfg = s.poolCfg := rfl
@[simp] theorem State.setHq_parts (q : Nat) (x : HostQ) : (s.setHq q x).parts = s.parts := rfl
@[simp] theorem State.setHq_prots (q : Nat) (x : HostQ) : (s.setHq q x).prots = s.prots := rfl
@[simp] theorem State.setHq_xinv (q : Nat) (x : HostQ) : (s.setHq q x).xinv = s.xinv := rfl
@[simp] theorem State.setHq_pelXlat (q : Nat) (x : HostQ) : (s.setHq q x).pelXlat = s.pelXlat := rfl
@[simp] theorem State.setHq_bkts (q : Nat) (x : HostQ) : (s.setHq q x).bkts = s.bkts := rfl
@[simp] theorem State.setHq_memErr (q : Nat) (x : HostQ) : (s.setHq q x).memErr = s.memErr := rfl
@[simp] theorem State.setHq_front (q : Nat) (x : HostQ) : (s.setHq q x).front = s.front := rfl
@[simp] theorem State.setHq_banks (q : Nat) (x : HostQ) : (s.setHq q x).banks = s.banks := rfl
@[simp] theorem State.setHq_poolLines (q : Nat) (x : HostQ) : (s.setHq q x).poolLines = s.poolLines := rfl
@[simp] theorem State.setHq_lookupQ (q : Nat) (x : HostQ) : (s.setHq q x).lookupQ = s.lookupQ := rfl
@[simp] theorem State.setHq_engines (q : Nat) (x : HostQ) : (s.setHq q x).engines = s.engines := rfl
@[simp] theorem State.setHq_ctxs (q : Nat) (x : HostQ) : (s.setHq q x).ctxs = s.ctxs := rfl
@[simp] theorem State.setHq_stepc (q : Nat) (x : HostQ) : (s.setHq q x).stepc = s.stepc := rfl
@[simp] theorem State.setHq_seqEntry (q : Nat) (x : HostQ) : (s.setHq q x).seqEntry = s.seqEntry := rfl
@[simp] theorem State.setHq_seqBase (q : Nat) (x : HostQ) : (s.setHq q x).seqBase = s.seqBase := rfl
@[simp] theorem State.setHq_trees (q : Nat) (x : HostQ) : (s.setHq q x).trees = s.trees := rfl
@[simp] theorem State.setHq_lnkTmo (q : Nat) (x : HostQ) : (s.setHq q x).lnkTmo = s.lnkTmo := rfl
@[simp] theorem State.setHq_lnkStall (q : Nat) (x : HostQ) : (s.setHq q x).lnkStall = s.lnkStall := rfl
@[simp] theorem State.setHq_lnkId (q : Nat) (x : HostQ) : (s.setHq q x).lnkId = s.lnkId := rfl
@[simp] theorem State.setHq_routes (q : Nat) (x : HostQ) : (s.setHq q x).routes = s.routes := rfl
@[simp] theorem State.setHq_exports (q : Nat) (x : HostQ) : (s.setHq q x).exports = s.exports := rfl
@[simp] theorem State.setHq_ports (q : Nat) (x : HostQ) : (s.setHq q x).ports = s.ports := rfl
@[simp] theorem State.setHq_remotes (q : Nat) (x : HostQ) : (s.setHq q x).remotes = s.remotes := rfl
@[simp] theorem State.setHq_nextXid (q : Nat) (x : HostQ) : (s.setHq q x).nextXid = s.nextXid := rfl
@[simp] theorem State.setHq_cad (q : Nat) (x : HostQ) : (s.setHq q x).cad = s.cad := rfl
@[simp] theorem State.setHq_gear (q : Nat) (x : HostQ) : (s.setHq q x).gear = s.gear := rfl
@[simp] theorem State.setHq_sec (q : Nat) (x : HostQ) : (s.setHq q x).sec = s.sec := rfl
@[simp] theorem State.setHq_power (q : Nat) (x : HostQ) : (s.setHq q x).power = s.power := rfl
@[simp] theorem State.setHq_events (q : Nat) (x : HostQ) : (s.setHq q x).events = s.events := rfl
@[simp] theorem State.setHq_hub (q : Nat) (x : HostQ) : (s.setHq q x).hub = s.hub := rfl
@[simp] theorem State.setHq_tap (q : Nat) (x : HostQ) : (s.setHq q x).tap = s.tap := rfl
@[simp] theorem State.setHq_out (q : Nat) (x : HostQ) : (s.setHq q x).out = s.out := rfl
@[simp] theorem State.setHq_thr (q : Nat) (x : HostQ) (j : Nat) : (s.setHq q x).thr j = s.thr j := rfl
@[simp] theorem State.setHq_core (q : Nat) (x : HostQ) (j : Nat) : (s.setHq q x).core j = s.core j := rfl
@[simp] theorem State.setHq_ctx (q : Nat) (x : HostQ) (j : Nat) : (s.setHq q x).ctx j = s.ctx j := rfl
@[simp] theorem State.setHq_engine (q : Nat) (x : HostQ) (j : Nat) : (s.setHq q x).engine j = s.engine j := rfl
@[simp] theorem State.setHq_tree (q : Nat) (x : HostQ) (j : Nat) : (s.setHq q x).tree j = s.tree j := rfl
@[simp] theorem State.setHq_port (q : Nat) (x : HostQ) (j : Nat) : (s.setHq q x).port j = s.port j := rfl
@[simp] theorem State.setHq_hubSrc (q : Nat) (x : HostQ) (j : Nat) : (s.setHq q x).hubSrc j = s.hubSrc j := rfl
@[simp] theorem State.setHq_semCount (q : Nat) (x : HostQ) (j : Nat) : (s.setHq q x).semCount j = s.semCount j := rfl
@[simp] theorem State.setHq_bank (q : Nat) (x : HostQ) (j : Nat) : (s.setHq q x).bank j = s.bank j := rfl
@[simp] theorem State.setHq_count (q : Nat) (x : HostQ) (j : Nat) : (s.setHq q x).count j = s.count j := rfl
@[simp] theorem State.setHq_part (q : Nat) (x : HostQ) (j : Nat) : (s.setHq q x).part j = s.part j := rfl
@[simp] theorem State.setHq_byte (q : Nat) (x : HostQ) (j : Nat) : (s.setHq q x).byte j = s.byte j := rfl
@[simp] theorem State.setHq_granule (q : Nat) (x : HostQ) (j : Nat) : (s.setHq q x).granule j = s.granule j := rfl
@[simp] theorem State.setHq_hq_same (q : Nat) (x : HostQ) : (s.setHq q x).hq q = x := kget_kset_same _ _ _ _
theorem State.setHq_hq_ne (q : Nat) (x : HostQ) (j : Nat) (h : j ≠ q) : (s.setHq q x).hq j = s.hq j := kget_kset_ne _ _ _ h
theorem State.setHq_hq (q : Nat) (x : HostQ) (j : Nat) : (s.setHq q x).hq j = if j = q then x else s.hq j := kget_kset _ _ _ _ _

/-! ### setHubSrc -/

@[simp] theorem State.setHubSrc_pending (n : Nat) (x : HubSrc) : (s.setHubSrc n x).pending = s.pending := rfl
@[simp] theorem State.setHubSrc_fresh (n : Nat) (x : HubSrc) : (s.setHubSrc n x).fresh = s.fresh := rfl
@[simp] theorem State.setHubSrc_ticks (n : Nat) (x : HubSrc) : (s.setHubSrc n x).ticks = s.ticks := rfl
@[simp] theorem State.setHubSrc_clk (n : Nat) (x : HubSrc) : (s.setHubSrc n x).clk = s.clk := rfl
@[simp] theorem State.setHubSrc_clkOff (n : Nat) (x : HubSrc) : (s.setHubSrc n x).clkOff = s.clkOff := rfl
@[simp] theorem State.setHubSrc_ref25 (n : Nat) (x : HubSrc) : (s.setHubSrc n x).ref25 = s.ref25 := rfl
@[simp] theorem State.setHubSrc_snap (n : Nat) (x : HubSrc) : (s.setHubSrc n x).snap = s.snap := rfl
@[simp] theorem State.setHubSrc_snapDone (n : Nat) (x : HubSrc) : (s.setHubSrc n x).snapDone = s.snapDone := rfl
@[simp] theorem State.setHubSrc_snapWait (n : Nat) (x : HubSrc) : (s.setHubSrc n x).snapWait = s.snapWait := rfl
@[simp] theorem State.setHubSrc_snapBusy (n : Nat) (x : HubSrc) : (s.setHubSrc n x).snapBusy = s.snapBusy := rfl
@[simp] theorem State.setHubSrc_threads (n : Nat) (x : HubSrc) : (s.setHubSrc n x).threads = s.threads := rfl
@[simp] theorem State.setHubSrc_cores (n : Nat) (x : HubSrc) : (s.setHubSrc n x).cores = s.cores := rfl
@[simp] theorem State.setHubSrc_sem (n : Nat) (x : HubSrc) : (s.setHubSrc n x).sem = s.sem := rfl
@[simp] theorem State.setHubSrc_semQ (n : Nat) (x : HubSrc) : (s.setHubSrc n x).semQ = s.semQ := rfl
@[simp] theorem State.setHubSrc_takeReply (n : Nat) (x : HubSrc) : (s.setHubSrc n x).takeReply = s.takeReply := rfl
@[simp] theorem State.setHubSrc_readReply (n : Nat) (x : HubSrc) : (s.setHubSrc n x).readReply = s.readReply := rfl
@[simp] theorem State.setHubSrc_mem (n : Nat) (x : HubSrc) : (s.setHubSrc n x).mem = s.mem := rfl
@[simp] theorem State.setHubSrc_gran (n : Nat) (x : HubSrc) : (s.setHubSrc n x).gran = s.gran := rfl
@[simp] theorem State.setHubSrc_capAM (n : Nat) (x : HubSrc) : (s.setHubSrc n x).capAM = s.capAM := rfl
@[simp] theorem State.setHubSrc_stepping (n : Nat) (x : HubSrc) : (s.setHubSrc n x).stepping = s.stepping := rfl
@[simp] theorem State.setHubSrc_memRate (n : Nat) (x : HubSrc) : (s.setHubSrc n x).memRate = s.memRate := rfl
@[simp] theorem State.setHubSrc_regions (n : Nat) (x : HubSrc) : (s.setHubSrc n x).regions = s.regions := rfl
@[simp] theorem State.setHubSrc_poolCfg (n : Nat) (x : HubSrc) : (s.setHubSrc n x).poolCfg = s.poolCfg := rfl
@[simp] theorem State.setHubSrc_parts (n : Nat) (x : HubSrc) : (s.setHubSrc n x).parts = s.parts := rfl
@[simp] theorem State.setHubSrc_prots (n : Nat) (x : HubSrc) : (s.setHubSrc n x).prots = s.prots := rfl
@[simp] theorem State.setHubSrc_xinv (n : Nat) (x : HubSrc) : (s.setHubSrc n x).xinv = s.xinv := rfl
@[simp] theorem State.setHubSrc_pelXlat (n : Nat) (x : HubSrc) : (s.setHubSrc n x).pelXlat = s.pelXlat := rfl
@[simp] theorem State.setHubSrc_bkts (n : Nat) (x : HubSrc) : (s.setHubSrc n x).bkts = s.bkts := rfl
@[simp] theorem State.setHubSrc_memErr (n : Nat) (x : HubSrc) : (s.setHubSrc n x).memErr = s.memErr := rfl
@[simp] theorem State.setHubSrc_front (n : Nat) (x : HubSrc) : (s.setHubSrc n x).front = s.front := rfl
@[simp] theorem State.setHubSrc_banks (n : Nat) (x : HubSrc) : (s.setHubSrc n x).banks = s.banks := rfl
@[simp] theorem State.setHubSrc_poolLines (n : Nat) (x : HubSrc) : (s.setHubSrc n x).poolLines = s.poolLines := rfl
@[simp] theorem State.setHubSrc_lookupQ (n : Nat) (x : HubSrc) : (s.setHubSrc n x).lookupQ = s.lookupQ := rfl
@[simp] theorem State.setHubSrc_engines (n : Nat) (x : HubSrc) : (s.setHubSrc n x).engines = s.engines := rfl
@[simp] theorem State.setHubSrc_ctxs (n : Nat) (x : HubSrc) : (s.setHubSrc n x).ctxs = s.ctxs := rfl
@[simp] theorem State.setHubSrc_stepc (n : Nat) (x : HubSrc) : (s.setHubSrc n x).stepc = s.stepc := rfl
@[simp] theorem State.setHubSrc_seqEntry (n : Nat) (x : HubSrc) : (s.setHubSrc n x).seqEntry = s.seqEntry := rfl
@[simp] theorem State.setHubSrc_seqBase (n : Nat) (x : HubSrc) : (s.setHubSrc n x).seqBase = s.seqBase := rfl
@[simp] theorem State.setHubSrc_trees (n : Nat) (x : HubSrc) : (s.setHubSrc n x).trees = s.trees := rfl
@[simp] theorem State.setHubSrc_lnkTmo (n : Nat) (x : HubSrc) : (s.setHubSrc n x).lnkTmo = s.lnkTmo := rfl
@[simp] theorem State.setHubSrc_lnkStall (n : Nat) (x : HubSrc) : (s.setHubSrc n x).lnkStall = s.lnkStall := rfl
@[simp] theorem State.setHubSrc_lnkId (n : Nat) (x : HubSrc) : (s.setHubSrc n x).lnkId = s.lnkId := rfl
@[simp] theorem State.setHubSrc_routes (n : Nat) (x : HubSrc) : (s.setHubSrc n x).routes = s.routes := rfl
@[simp] theorem State.setHubSrc_exports (n : Nat) (x : HubSrc) : (s.setHubSrc n x).exports = s.exports := rfl
@[simp] theorem State.setHubSrc_ports (n : Nat) (x : HubSrc) : (s.setHubSrc n x).ports = s.ports := rfl
@[simp] theorem State.setHubSrc_remotes (n : Nat) (x : HubSrc) : (s.setHubSrc n x).remotes = s.remotes := rfl
@[simp] theorem State.setHubSrc_nextXid (n : Nat) (x : HubSrc) : (s.setHubSrc n x).nextXid = s.nextXid := rfl
@[simp] theorem State.setHubSrc_cad (n : Nat) (x : HubSrc) : (s.setHubSrc n x).cad = s.cad := rfl
@[simp] theorem State.setHubSrc_gear (n : Nat) (x : HubSrc) : (s.setHubSrc n x).gear = s.gear := rfl
@[simp] theorem State.setHubSrc_host (n : Nat) (x : HubSrc) : (s.setHubSrc n x).host = s.host := rfl
@[simp] theorem State.setHubSrc_sec (n : Nat) (x : HubSrc) : (s.setHubSrc n x).sec = s.sec := rfl
@[simp] theorem State.setHubSrc_power (n : Nat) (x : HubSrc) : (s.setHubSrc n x).power = s.power := rfl
@[simp] theorem State.setHubSrc_events (n : Nat) (x : HubSrc) : (s.setHubSrc n x).events = s.events := rfl
@[simp] theorem State.setHubSrc_tap (n : Nat) (x : HubSrc) : (s.setHubSrc n x).tap = s.tap := rfl
@[simp] theorem State.setHubSrc_out (n : Nat) (x : HubSrc) : (s.setHubSrc n x).out = s.out := rfl
@[simp] theorem State.setHubSrc_thr (n : Nat) (x : HubSrc) (j : Nat) : (s.setHubSrc n x).thr j = s.thr j := rfl
@[simp] theorem State.setHubSrc_core (n : Nat) (x : HubSrc) (j : Nat) : (s.setHubSrc n x).core j = s.core j := rfl
@[simp] theorem State.setHubSrc_ctx (n : Nat) (x : HubSrc) (j : Nat) : (s.setHubSrc n x).ctx j = s.ctx j := rfl
@[simp] theorem State.setHubSrc_engine (n : Nat) (x : HubSrc) (j : Nat) : (s.setHubSrc n x).engine j = s.engine j := rfl
@[simp] theorem State.setHubSrc_tree (n : Nat) (x : HubSrc) (j : Nat) : (s.setHubSrc n x).tree j = s.tree j := rfl
@[simp] theorem State.setHubSrc_port (n : Nat) (x : HubSrc) (j : Nat) : (s.setHubSrc n x).port j = s.port j := rfl
@[simp] theorem State.setHubSrc_hq (n : Nat) (x : HubSrc) (j : Nat) : (s.setHubSrc n x).hq j = s.hq j := rfl
@[simp] theorem State.setHubSrc_semCount (n : Nat) (x : HubSrc) (j : Nat) : (s.setHubSrc n x).semCount j = s.semCount j := rfl
@[simp] theorem State.setHubSrc_bank (n : Nat) (x : HubSrc) (j : Nat) : (s.setHubSrc n x).bank j = s.bank j := rfl
@[simp] theorem State.setHubSrc_count (n : Nat) (x : HubSrc) (j : Nat) : (s.setHubSrc n x).count j = s.count j := rfl
@[simp] theorem State.setHubSrc_part (n : Nat) (x : HubSrc) (j : Nat) : (s.setHubSrc n x).part j = s.part j := rfl
@[simp] theorem State.setHubSrc_byte (n : Nat) (x : HubSrc) (j : Nat) : (s.setHubSrc n x).byte j = s.byte j := rfl
@[simp] theorem State.setHubSrc_granule (n : Nat) (x : HubSrc) (j : Nat) : (s.setHubSrc n x).granule j = s.granule j := rfl
@[simp] theorem State.setHubSrc_hubSrc_same (n : Nat) (x : HubSrc) : (s.setHubSrc n x).hubSrc n = x := kget_kset_same _ _ _ _
theorem State.setHubSrc_hubSrc_ne (n : Nat) (x : HubSrc) (j : Nat) (h : j ≠ n) : (s.setHubSrc n x).hubSrc j = s.hubSrc j := kget_kset_ne _ _ _ h
theorem State.setHubSrc_hubSrc (n : Nat) (x : HubSrc) (j : Nat) : (s.setHubSrc n x).hubSrc j = if j = n then x else s.hubSrc j := kget_kset _ _ _ _ _

/-! ### setSem -/

@[simp] theorem State.setSem_pending (n : Nat) (v : BitVec 16) : (s.setSem n v).pending = s.pending := rfl
@[simp] theorem State.setSem_fresh (n : Nat) (v : BitVec 16) : (s.setSem n v).fresh = s.fresh := rfl
@[simp] theorem State.setSem_ticks (n : Nat) (v : BitVec 16) : (s.setSem n v).ticks = s.ticks := rfl
@[simp] theorem State.setSem_clk (n : Nat) (v : BitVec 16) : (s.setSem n v).clk = s.clk := rfl
@[simp] theorem State.setSem_clkOff (n : Nat) (v : BitVec 16) : (s.setSem n v).clkOff = s.clkOff := rfl
@[simp] theorem State.setSem_ref25 (n : Nat) (v : BitVec 16) : (s.setSem n v).ref25 = s.ref25 := rfl
@[simp] theorem State.setSem_snap (n : Nat) (v : BitVec 16) : (s.setSem n v).snap = s.snap := rfl
@[simp] theorem State.setSem_snapDone (n : Nat) (v : BitVec 16) : (s.setSem n v).snapDone = s.snapDone := rfl
@[simp] theorem State.setSem_snapWait (n : Nat) (v : BitVec 16) : (s.setSem n v).snapWait = s.snapWait := rfl
@[simp] theorem State.setSem_snapBusy (n : Nat) (v : BitVec 16) : (s.setSem n v).snapBusy = s.snapBusy := rfl
@[simp] theorem State.setSem_threads (n : Nat) (v : BitVec 16) : (s.setSem n v).threads = s.threads := rfl
@[simp] theorem State.setSem_cores (n : Nat) (v : BitVec 16) : (s.setSem n v).cores = s.cores := rfl
@[simp] theorem State.setSem_semQ (n : Nat) (v : BitVec 16) : (s.setSem n v).semQ = s.semQ := rfl
@[simp] theorem State.setSem_takeReply (n : Nat) (v : BitVec 16) : (s.setSem n v).takeReply = s.takeReply := rfl
@[simp] theorem State.setSem_readReply (n : Nat) (v : BitVec 16) : (s.setSem n v).readReply = s.readReply := rfl
@[simp] theorem State.setSem_mem (n : Nat) (v : BitVec 16) : (s.setSem n v).mem = s.mem := rfl
@[simp] theorem State.setSem_gran (n : Nat) (v : BitVec 16) : (s.setSem n v).gran = s.gran := rfl
@[simp] theorem State.setSem_capAM (n : Nat) (v : BitVec 16) : (s.setSem n v).capAM = s.capAM := rfl
@[simp] theorem State.setSem_stepping (n : Nat) (v : BitVec 16) : (s.setSem n v).stepping = s.stepping := rfl
@[simp] theorem State.setSem_memRate (n : Nat) (v : BitVec 16) : (s.setSem n v).memRate = s.memRate := rfl
@[simp] theorem State.setSem_regions (n : Nat) (v : BitVec 16) : (s.setSem n v).regions = s.regions := rfl
@[simp] theorem State.setSem_poolCfg (n : Nat) (v : BitVec 16) : (s.setSem n v).poolCfg = s.poolCfg := rfl
@[simp] theorem State.setSem_parts (n : Nat) (v : BitVec 16) : (s.setSem n v).parts = s.parts := rfl
@[simp] theorem State.setSem_prots (n : Nat) (v : BitVec 16) : (s.setSem n v).prots = s.prots := rfl
@[simp] theorem State.setSem_xinv (n : Nat) (v : BitVec 16) : (s.setSem n v).xinv = s.xinv := rfl
@[simp] theorem State.setSem_pelXlat (n : Nat) (v : BitVec 16) : (s.setSem n v).pelXlat = s.pelXlat := rfl
@[simp] theorem State.setSem_bkts (n : Nat) (v : BitVec 16) : (s.setSem n v).bkts = s.bkts := rfl
@[simp] theorem State.setSem_memErr (n : Nat) (v : BitVec 16) : (s.setSem n v).memErr = s.memErr := rfl
@[simp] theorem State.setSem_front (n : Nat) (v : BitVec 16) : (s.setSem n v).front = s.front := rfl
@[simp] theorem State.setSem_banks (n : Nat) (v : BitVec 16) : (s.setSem n v).banks = s.banks := rfl
@[simp] theorem State.setSem_poolLines (n : Nat) (v : BitVec 16) : (s.setSem n v).poolLines = s.poolLines := rfl
@[simp] theorem State.setSem_lookupQ (n : Nat) (v : BitVec 16) : (s.setSem n v).lookupQ = s.lookupQ := rfl
@[simp] theorem State.setSem_engines (n : Nat) (v : BitVec 16) : (s.setSem n v).engines = s.engines := rfl
@[simp] theorem State.setSem_ctxs (n : Nat) (v : BitVec 16) : (s.setSem n v).ctxs = s.ctxs := rfl
@[simp] theorem State.setSem_stepc (n : Nat) (v : BitVec 16) : (s.setSem n v).stepc = s.stepc := rfl
@[simp] theorem State.setSem_seqEntry (n : Nat) (v : BitVec 16) : (s.setSem n v).seqEntry = s.seqEntry := rfl
@[simp] theorem State.setSem_seqBase (n : Nat) (v : BitVec 16) : (s.setSem n v).seqBase = s.seqBase := rfl
@[simp] theorem State.setSem_trees (n : Nat) (v : BitVec 16) : (s.setSem n v).trees = s.trees := rfl
@[simp] theorem State.setSem_lnkTmo (n : Nat) (v : BitVec 16) : (s.setSem n v).lnkTmo = s.lnkTmo := rfl
@[simp] theorem State.setSem_lnkStall (n : Nat) (v : BitVec 16) : (s.setSem n v).lnkStall = s.lnkStall := rfl
@[simp] theorem State.setSem_lnkId (n : Nat) (v : BitVec 16) : (s.setSem n v).lnkId = s.lnkId := rfl
@[simp] theorem State.setSem_routes (n : Nat) (v : BitVec 16) : (s.setSem n v).routes = s.routes := rfl
@[simp] theorem State.setSem_exports (n : Nat) (v : BitVec 16) : (s.setSem n v).exports = s.exports := rfl
@[simp] theorem State.setSem_ports (n : Nat) (v : BitVec 16) : (s.setSem n v).ports = s.ports := rfl
@[simp] theorem State.setSem_remotes (n : Nat) (v : BitVec 16) : (s.setSem n v).remotes = s.remotes := rfl
@[simp] theorem State.setSem_nextXid (n : Nat) (v : BitVec 16) : (s.setSem n v).nextXid = s.nextXid := rfl
@[simp] theorem State.setSem_cad (n : Nat) (v : BitVec 16) : (s.setSem n v).cad = s.cad := rfl
@[simp] theorem State.setSem_gear (n : Nat) (v : BitVec 16) : (s.setSem n v).gear = s.gear := rfl
@[simp] theorem State.setSem_host (n : Nat) (v : BitVec 16) : (s.setSem n v).host = s.host := rfl
@[simp] theorem State.setSem_sec (n : Nat) (v : BitVec 16) : (s.setSem n v).sec = s.sec := rfl
@[simp] theorem State.setSem_power (n : Nat) (v : BitVec 16) : (s.setSem n v).power = s.power := rfl
@[simp] theorem State.setSem_events (n : Nat) (v : BitVec 16) : (s.setSem n v).events = s.events := rfl
@[simp] theorem State.setSem_hub (n : Nat) (v : BitVec 16) : (s.setSem n v).hub = s.hub := rfl
@[simp] theorem State.setSem_tap (n : Nat) (v : BitVec 16) : (s.setSem n v).tap = s.tap := rfl
@[simp] theorem State.setSem_out (n : Nat) (v : BitVec 16) : (s.setSem n v).out = s.out := rfl
@[simp] theorem State.setSem_thr (n : Nat) (v : BitVec 16) (j : Nat) : (s.setSem n v).thr j = s.thr j := rfl
@[simp] theorem State.setSem_core (n : Nat) (v : BitVec 16) (j : Nat) : (s.setSem n v).core j = s.core j := rfl
@[simp] theorem State.setSem_ctx (n : Nat) (v : BitVec 16) (j : Nat) : (s.setSem n v).ctx j = s.ctx j := rfl
@[simp] theorem State.setSem_engine (n : Nat) (v : BitVec 16) (j : Nat) : (s.setSem n v).engine j = s.engine j := rfl
@[simp] theorem State.setSem_tree (n : Nat) (v : BitVec 16) (j : Nat) : (s.setSem n v).tree j = s.tree j := rfl
@[simp] theorem State.setSem_port (n : Nat) (v : BitVec 16) (j : Nat) : (s.setSem n v).port j = s.port j := rfl
@[simp] theorem State.setSem_hq (n : Nat) (v : BitVec 16) (j : Nat) : (s.setSem n v).hq j = s.hq j := rfl
@[simp] theorem State.setSem_hubSrc (n : Nat) (v : BitVec 16) (j : Nat) : (s.setSem n v).hubSrc j = s.hubSrc j := rfl
@[simp] theorem State.setSem_bank (n : Nat) (v : BitVec 16) (j : Nat) : (s.setSem n v).bank j = s.bank j := rfl
@[simp] theorem State.setSem_count (n : Nat) (v : BitVec 16) (j : Nat) : (s.setSem n v).count j = s.count j := rfl
@[simp] theorem State.setSem_part (n : Nat) (v : BitVec 16) (j : Nat) : (s.setSem n v).part j = s.part j := rfl
@[simp] theorem State.setSem_byte (n : Nat) (v : BitVec 16) (j : Nat) : (s.setSem n v).byte j = s.byte j := rfl
@[simp] theorem State.setSem_granule (n : Nat) (v : BitVec 16) (j : Nat) : (s.setSem n v).granule j = s.granule j := rfl
@[simp] theorem State.setSem_semCount_same (n : Nat) (v : BitVec 16) : (s.setSem n v).semCount n = v := kget_kset_same _ _ _ _
theorem State.setSem_semCount_ne (n : Nat) (v : BitVec 16) (j : Nat) (h : j ≠ n) : (s.setSem n v).semCount j = s.semCount j := kget_kset_ne _ _ _ h
theorem State.setSem_semCount (n : Nat) (v : BitVec 16) (j : Nat) : (s.setSem n v).semCount j = if j = n then v else s.semCount j := kget_kset _ _ _ _ _

/-! ### setBank -/

@[simp] theorem State.setBank_pending (k : Nat) (b : Bank) : (s.setBank k b).pending = s.pending := rfl
@[simp] theorem State.setBank_fresh (k : Nat) (b : Bank) : (s.setBank k b).fresh = s.fresh := rfl
@[simp] theorem State.setBank_ticks (k : Nat) (b : Bank) : (s.setBank k b).ticks = s.ticks := rfl
@[simp] theorem State.setBank_clk (k : Nat) (b : Bank) : (s.setBank k b).clk = s.clk := rfl
@[simp] theorem State.setBank_clkOff (k : Nat) (b : Bank) : (s.setBank k b).clkOff = s.clkOff := rfl
@[simp] theorem State.setBank_ref25 (k : Nat) (b : Bank) : (s.setBank k b).ref25 = s.ref25 := rfl
@[simp] theorem State.setBank_snap (k : Nat) (b : Bank) : (s.setBank k b).snap = s.snap := rfl
@[simp] theorem State.setBank_snapDone (k : Nat) (b : Bank) : (s.setBank k b).snapDone = s.snapDone := rfl
@[simp] theorem State.setBank_snapWait (k : Nat) (b : Bank) : (s.setBank k b).snapWait = s.snapWait := rfl
@[simp] theorem State.setBank_snapBusy (k : Nat) (b : Bank) : (s.setBank k b).snapBusy = s.snapBusy := rfl
@[simp] theorem State.setBank_threads (k : Nat) (b : Bank) : (s.setBank k b).threads = s.threads := rfl
@[simp] theorem State.setBank_cores (k : Nat) (b : Bank) : (s.setBank k b).cores = s.cores := rfl
@[simp] theorem State.setBank_sem (k : Nat) (b : Bank) : (s.setBank k b).sem = s.sem := rfl
@[simp] theorem State.setBank_semQ (k : Nat) (b : Bank) : (s.setBank k b).semQ = s.semQ := rfl
@[simp] theorem State.setBank_takeReply (k : Nat) (b : Bank) : (s.setBank k b).takeReply = s.takeReply := rfl
@[simp] theorem State.setBank_readReply (k : Nat) (b : Bank) : (s.setBank k b).readReply = s.readReply := rfl
@[simp] theorem State.setBank_mem (k : Nat) (b : Bank) : (s.setBank k b).mem = s.mem := rfl
@[simp] theorem State.setBank_gran (k : Nat) (b : Bank) : (s.setBank k b).gran = s.gran := rfl
@[simp] theorem State.setBank_capAM (k : Nat) (b : Bank) : (s.setBank k b).capAM = s.capAM := rfl
@[simp] theorem State.setBank_stepping (k : Nat) (b : Bank) : (s.setBank k b).stepping = s.stepping := rfl
@[simp] theorem State.setBank_memRate (k : Nat) (b : Bank) : (s.setBank k b).memRate = s.memRate := rfl
@[simp] theorem State.setBank_regions (k : Nat) (b : Bank) : (s.setBank k b).regions = s.regions := rfl
@[simp] theorem State.setBank_poolCfg (k : Nat) (b : Bank) : (s.setBank k b).poolCfg = s.poolCfg := rfl
@[simp] theorem State.setBank_parts (k : Nat) (b : Bank) : (s.setBank k b).parts = s.parts := rfl
@[simp] theorem State.setBank_prots (k : Nat) (b : Bank) : (s.setBank k b).prots = s.prots := rfl
@[simp] theorem State.setBank_xinv (k : Nat) (b : Bank) : (s.setBank k b).xinv = s.xinv := rfl
@[simp] theorem State.setBank_pelXlat (k : Nat) (b : Bank) : (s.setBank k b).pelXlat = s.pelXlat := rfl
@[simp] theorem State.setBank_bkts (k : Nat) (b : Bank) : (s.setBank k b).bkts = s.bkts := rfl
@[simp] theorem State.setBank_memErr (k : Nat) (b : Bank) : (s.setBank k b).memErr = s.memErr := rfl
@[simp] theorem State.setBank_front (k : Nat) (b : Bank) : (s.setBank k b).front = s.front := rfl
@[simp] theorem State.setBank_poolLines (k : Nat) (b : Bank) : (s.setBank k b).poolLines = s.poolLines := rfl
@[simp] theorem State.setBank_lookupQ (k : Nat) (b : Bank) : (s.setBank k b).lookupQ = s.lookupQ := rfl
@[simp] theorem State.setBank_engines (k : Nat) (b : Bank) : (s.setBank k b).engines = s.engines := rfl
@[simp] theorem State.setBank_ctxs (k : Nat) (b : Bank) : (s.setBank k b).ctxs = s.ctxs := rfl
@[simp] theorem State.setBank_stepc (k : Nat) (b : Bank) : (s.setBank k b).stepc = s.stepc := rfl
@[simp] theorem State.setBank_seqEntry (k : Nat) (b : Bank) : (s.setBank k b).seqEntry = s.seqEntry := rfl
@[simp] theorem State.setBank_seqBase (k : Nat) (b : Bank) : (s.setBank k b).seqBase = s.seqBase := rfl
@[simp] theorem State.setBank_trees (k : Nat) (b : Bank) : (s.setBank k b).trees = s.trees := rfl
@[simp] theorem State.setBank_lnkTmo (k : Nat) (b : Bank) : (s.setBank k b).lnkTmo = s.lnkTmo := rfl
@[simp] theorem State.setBank_lnkStall (k : Nat) (b : Bank) : (s.setBank k b).lnkStall = s.lnkStall := rfl
@[simp] theorem State.setBank_lnkId (k : Nat) (b : Bank) : (s.setBank k b).lnkId = s.lnkId := rfl
@[simp] theorem State.setBank_routes (k : Nat) (b : Bank) : (s.setBank k b).routes = s.routes := rfl
@[simp] theorem State.setBank_exports (k : Nat) (b : Bank) : (s.setBank k b).exports = s.exports := rfl
@[simp] theorem State.setBank_ports (k : Nat) (b : Bank) : (s.setBank k b).ports = s.ports := rfl
@[simp] theorem State.setBank_remotes (k : Nat) (b : Bank) : (s.setBank k b).remotes = s.remotes := rfl
@[simp] theorem State.setBank_nextXid (k : Nat) (b : Bank) : (s.setBank k b).nextXid = s.nextXid := rfl
@[simp] theorem State.setBank_cad (k : Nat) (b : Bank) : (s.setBank k b).cad = s.cad := rfl
@[simp] theorem State.setBank_gear (k : Nat) (b : Bank) : (s.setBank k b).gear = s.gear := rfl
@[simp] theorem State.setBank_host (k : Nat) (b : Bank) : (s.setBank k b).host = s.host := rfl
@[simp] theorem State.setBank_sec (k : Nat) (b : Bank) : (s.setBank k b).sec = s.sec := rfl
@[simp] theorem State.setBank_power (k : Nat) (b : Bank) : (s.setBank k b).power = s.power := rfl
@[simp] theorem State.setBank_events (k : Nat) (b : Bank) : (s.setBank k b).events = s.events := rfl
@[simp] theorem State.setBank_hub (k : Nat) (b : Bank) : (s.setBank k b).hub = s.hub := rfl
@[simp] theorem State.setBank_tap (k : Nat) (b : Bank) : (s.setBank k b).tap = s.tap := rfl
@[simp] theorem State.setBank_out (k : Nat) (b : Bank) : (s.setBank k b).out = s.out := rfl
@[simp] theorem State.setBank_thr (k : Nat) (b : Bank) (j : Nat) : (s.setBank k b).thr j = s.thr j := rfl
@[simp] theorem State.setBank_core (k : Nat) (b : Bank) (j : Nat) : (s.setBank k b).core j = s.core j := rfl
@[simp] theorem State.setBank_ctx (k : Nat) (b : Bank) (j : Nat) : (s.setBank k b).ctx j = s.ctx j := rfl
@[simp] theorem State.setBank_engine (k : Nat) (b : Bank) (j : Nat) : (s.setBank k b).engine j = s.engine j := rfl
@[simp] theorem State.setBank_tree (k : Nat) (b : Bank) (j : Nat) : (s.setBank k b).tree j = s.tree j := rfl
@[simp] theorem State.setBank_port (k : Nat) (b : Bank) (j : Nat) : (s.setBank k b).port j = s.port j := rfl
@[simp] theorem State.setBank_hq (k : Nat) (b : Bank) (j : Nat) : (s.setBank k b).hq j = s.hq j := rfl
@[simp] theorem State.setBank_hubSrc (k : Nat) (b : Bank) (j : Nat) : (s.setBank k b).hubSrc j = s.hubSrc j := rfl
@[simp] theorem State.setBank_semCount (k : Nat) (b : Bank) (j : Nat) : (s.setBank k b).semCount j = s.semCount j := rfl
@[simp] theorem State.setBank_count (k : Nat) (b : Bank) (j : Nat) : (s.setBank k b).count j = s.count j := rfl
@[simp] theorem State.setBank_part (k : Nat) (b : Bank) (j : Nat) : (s.setBank k b).part j = s.part j := rfl
@[simp] theorem State.setBank_byte (k : Nat) (b : Bank) (j : Nat) : (s.setBank k b).byte j = s.byte j := rfl
@[simp] theorem State.setBank_granule (k : Nat) (b : Bank) (j : Nat) : (s.setBank k b).granule j = s.granule j := rfl
@[simp] theorem State.setBank_bank_same (k : Nat) (b : Bank) : (s.setBank k b).bank k = b := kget_kset_same _ _ _ _
theorem State.setBank_bank_ne (k : Nat) (b : Bank) (j : Nat) (h : j ≠ k) : (s.setBank k b).bank j = s.bank j := kget_kset_ne _ _ _ h
theorem State.setBank_bank (k : Nat) (b : Bank) (j : Nat) : (s.setBank k b).bank j = if j = k then b else s.bank j := kget_kset _ _ _ _ _

/-! ### emit -/

@[simp] theorem State.emit_pending (o : Out) : (s.emit o).pending = s.pending := rfl
@[simp] theorem State.emit_fresh (o : Out) : (s.emit o).fresh = s.fresh := rfl
@[simp] theorem State.emit_ticks (o : Out) : (s.emit o).ticks = s.ticks := rfl
@[simp] theorem State.emit_clk (o : Out) : (s.emit o).clk = s.clk := rfl
@[simp] theorem State.emit_clkOff (o : Out) : (s.emit o).clkOff = s.clkOff := rfl
@[simp] theorem State.emit_ref25 (o : Out) : (s.emit o).ref25 = s.ref25 := rfl
@[simp] theorem State.emit_snap (o : Out) : (s.emit o).snap = s.snap := rfl
@[simp] theorem State.emit_snapDone (o : Out) : (s.emit o).snapDone = s.snapDone := rfl
@[simp] theorem State.emit_snapWait (o : Out) : (s.emit o).snapWait = s.snapWait := rfl
@[simp] theorem State.emit_snapBusy (o : Out) : (s.emit o).snapBusy = s.snapBusy := rfl
@[simp] theorem State.emit_threads (o : Out) : (s.emit o).threads = s.threads := rfl
@[simp] theorem State.emit_cores (o : Out) : (s.emit o).cores = s.cores := rfl
@[simp] theorem State.emit_sem (o : Out) : (s.emit o).sem = s.sem := rfl
@[simp] theorem State.emit_semQ (o : Out) : (s.emit o).semQ = s.semQ := rfl
@[simp] theorem State.emit_takeReply (o : Out) : (s.emit o).takeReply = s.takeReply := rfl
@[simp] theorem State.emit_readReply (o : Out) : (s.emit o).readReply = s.readReply := rfl
@[simp] theorem State.emit_mem (o : Out) : (s.emit o).mem = s.mem := rfl
@[simp] theorem State.emit_gran (o : Out) : (s.emit o).gran = s.gran := rfl
@[simp] theorem State.emit_capAM (o : Out) : (s.emit o).capAM = s.capAM := rfl
@[simp] theorem State.emit_stepping (o : Out) : (s.emit o).stepping = s.stepping := rfl
@[simp] theorem State.emit_memRate (o : Out) : (s.emit o).memRate = s.memRate := rfl
@[simp] theorem State.emit_regions (o : Out) : (s.emit o).regions = s.regions := rfl
@[simp] theorem State.emit_poolCfg (o : Out) : (s.emit o).poolCfg = s.poolCfg := rfl
@[simp] theorem State.emit_parts (o : Out) : (s.emit o).parts = s.parts := rfl
@[simp] theorem State.emit_prots (o : Out) : (s.emit o).prots = s.prots := rfl
@[simp] theorem State.emit_xinv (o : Out) : (s.emit o).xinv = s.xinv := rfl
@[simp] theorem State.emit_pelXlat (o : Out) : (s.emit o).pelXlat = s.pelXlat := rfl
@[simp] theorem State.emit_bkts (o : Out) : (s.emit o).bkts = s.bkts := rfl
@[simp] theorem State.emit_memErr (o : Out) : (s.emit o).memErr = s.memErr := rfl
@[simp] theorem State.emit_front (o : Out) : (s.emit o).front = s.front := rfl
@[simp] theorem State.emit_banks (o : Out) : (s.emit o).banks = s.banks := rfl
@[simp] theorem State.emit_poolLines (o : Out) : (s.emit o).poolLines = s.poolLines := rfl
@[simp] theorem State.emit_lookupQ (o : Out) : (s.emit o).lookupQ = s.lookupQ := rfl
@[simp] theorem State.emit_engines (o : Out) : (s.emit o).engines = s.engines := rfl
@[simp] theorem State.emit_ctxs (o : Out) : (s.emit o).ctxs = s.ctxs := rfl
@[simp] theorem State.emit_stepc (o : Out) : (s.emit o).stepc = s.stepc := rfl
@[simp] theorem State.emit_seqEntry (o : Out) : (s.emit o).seqEntry = s.seqEntry := rfl
@[simp] theorem State.emit_seqBase (o : Out) : (s.emit o).seqBase = s.seqBase := rfl
@[simp] theorem State.emit_trees (o : Out) : (s.emit o).trees = s.trees := rfl
@[simp] theorem State.emit_lnkTmo (o : Out) : (s.emit o).lnkTmo = s.lnkTmo := rfl
@[simp] theorem State.emit_lnkStall (o : Out) : (s.emit o).lnkStall = s.lnkStall := rfl
@[simp] theorem State.emit_lnkId (o : Out) : (s.emit o).lnkId = s.lnkId := rfl
@[simp] theorem State.emit_routes (o : Out) : (s.emit o).routes = s.routes := rfl
@[simp] theorem State.emit_exports (o : Out) : (s.emit o).exports = s.exports := rfl
@[simp] theorem State.emit_ports (o : Out) : (s.emit o).ports = s.ports := rfl
@[simp] theorem State.emit_remotes (o : Out) : (s.emit o).remotes = s.remotes := rfl
@[simp] theorem State.emit_nextXid (o : Out) : (s.emit o).nextXid = s.nextXid := rfl
@[simp] theorem State.emit_cad (o : Out) : (s.emit o).cad = s.cad := rfl
@[simp] theorem State.emit_gear (o : Out) : (s.emit o).gear = s.gear := rfl
@[simp] theorem State.emit_host (o : Out) : (s.emit o).host = s.host := rfl
@[simp] theorem State.emit_sec (o : Out) : (s.emit o).sec = s.sec := rfl
@[simp] theorem State.emit_power (o : Out) : (s.emit o).power = s.power := rfl
@[simp] theorem State.emit_events (o : Out) : (s.emit o).events = s.events := rfl
@[simp] theorem State.emit_hub (o : Out) : (s.emit o).hub = s.hub := rfl
@[simp] theorem State.emit_tap (o : Out) : (s.emit o).tap = s.tap := rfl
@[simp] theorem State.emit_thr (o : Out) (j : Nat) : (s.emit o).thr j = s.thr j := rfl
@[simp] theorem State.emit_core (o : Out) (j : Nat) : (s.emit o).core j = s.core j := rfl
@[simp] theorem State.emit_ctx (o : Out) (j : Nat) : (s.emit o).ctx j = s.ctx j := rfl
@[simp] theorem State.emit_engine (o : Out) (j : Nat) : (s.emit o).engine j = s.engine j := rfl
@[simp] theorem State.emit_tree (o : Out) (j : Nat) : (s.emit o).tree j = s.tree j := rfl
@[simp] theorem State.emit_port (o : Out) (j : Nat) : (s.emit o).port j = s.port j := rfl
@[simp] theorem State.emit_hq (o : Out) (j : Nat) : (s.emit o).hq j = s.hq j := rfl
@[simp] theorem State.emit_hubSrc (o : Out) (j : Nat) : (s.emit o).hubSrc j = s.hubSrc j := rfl
@[simp] theorem State.emit_semCount (o : Out) (j : Nat) : (s.emit o).semCount j = s.semCount j := rfl
@[simp] theorem State.emit_bank (o : Out) (j : Nat) : (s.emit o).bank j = s.bank j := rfl
@[simp] theorem State.emit_count (o : Out) (j : Nat) : (s.emit o).count j = s.count j := rfl
@[simp] theorem State.emit_part (o : Out) (j : Nat) : (s.emit o).part j = s.part j := rfl
@[simp] theorem State.emit_byte (o : Out) (j : Nat) : (s.emit o).byte j = s.byte j := rfl
@[simp] theorem State.emit_granule (o : Out) (j : Nat) : (s.emit o).granule j = s.granule j := rfl

/-! ### draw -/

@[simp] theorem State.draw_pending : s.draw.pending = s.pending := rfl
@[simp] theorem State.draw_ticks : s.draw.ticks = s.ticks := rfl
@[simp] theorem State.draw_clk : s.draw.clk = s.clk := rfl
@[simp] theorem State.draw_clkOff : s.draw.clkOff = s.clkOff := rfl
@[simp] theorem State.draw_ref25 : s.draw.ref25 = s.ref25 := rfl
@[simp] theorem State.draw_snap : s.draw.snap = s.snap := rfl
@[simp] theorem State.draw_snapDone : s.draw.snapDone = s.snapDone := rfl
@[simp] theorem State.draw_snapWait : s.draw.snapWait = s.snapWait := rfl
@[simp] theorem State.draw_snapBusy : s.draw.snapBusy = s.snapBusy := rfl
@[simp] theorem State.draw_threads : s.draw.threads = s.threads := rfl
@[simp] theorem State.draw_cores : s.draw.cores = s.cores := rfl
@[simp] theorem State.draw_sem : s.draw.sem = s.sem := rfl
@[simp] theorem State.draw_semQ : s.draw.semQ = s.semQ := rfl
@[simp] theorem State.draw_takeReply : s.draw.takeReply = s.takeReply := rfl
@[simp] theorem State.draw_readReply : s.draw.readReply = s.readReply := rfl
@[simp] theorem State.draw_mem : s.draw.mem = s.mem := rfl
@[simp] theorem State.draw_gran : s.draw.gran = s.gran := rfl
@[simp] theorem State.draw_capAM : s.draw.capAM = s.capAM := rfl
@[simp] theorem State.draw_stepping : s.draw.stepping = s.stepping := rfl
@[simp] theorem State.draw_memRate : s.draw.memRate = s.memRate := rfl
@[simp] theorem State.draw_regions : s.draw.regions = s.regions := rfl
@[simp] theorem State.draw_poolCfg : s.draw.poolCfg = s.poolCfg := rfl
@[simp] theorem State.draw_parts : s.draw.parts = s.parts := rfl
@[simp] theorem State.draw_prots : s.draw.prots = s.prots := rfl
@[simp] theorem State.draw_xinv : s.draw.xinv = s.xinv := rfl
@[simp] theorem State.draw_pelXlat : s.draw.pelXlat = s.pelXlat := rfl
@[simp] theorem State.draw_bkts : s.draw.bkts = s.bkts := rfl
@[simp] theorem State.draw_memErr : s.draw.memErr = s.memErr := rfl
@[simp] theorem State.draw_front : s.draw.front = s.front := rfl
@[simp] theorem State.draw_banks : s.draw.banks = s.banks := rfl
@[simp] theorem State.draw_poolLines : s.draw.poolLines = s.poolLines := rfl
@[simp] theorem State.draw_lookupQ : s.draw.lookupQ = s.lookupQ := rfl
@[simp] theorem State.draw_engines : s.draw.engines = s.engines := rfl
@[simp] theorem State.draw_ctxs : s.draw.ctxs = s.ctxs := rfl
@[simp] theorem State.draw_stepc : s.draw.stepc = s.stepc := rfl
@[simp] theorem State.draw_seqEntry : s.draw.seqEntry = s.seqEntry := rfl
@[simp] theorem State.draw_seqBase : s.draw.seqBase = s.seqBase := rfl
@[simp] theorem State.draw_trees : s.draw.trees = s.trees := rfl
@[simp] theorem State.draw_lnkTmo : s.draw.lnkTmo = s.lnkTmo := rfl
@[simp] theorem State.draw_lnkStall : s.draw.lnkStall = s.lnkStall := rfl
@[simp] theorem State.draw_lnkId : s.draw.lnkId = s.lnkId := rfl
@[simp] theorem State.draw_routes : s.draw.routes = s.routes := rfl
@[simp] theorem State.draw_exports : s.draw.exports = s.exports := rfl
@[simp] theorem State.draw_ports : s.draw.ports = s.ports := rfl
@[simp] theorem State.draw_remotes : s.draw.remotes = s.remotes := rfl
@[simp] theorem State.draw_nextXid : s.draw.nextXid = s.nextXid := rfl
@[simp] theorem State.draw_cad : s.draw.cad = s.cad := rfl
@[simp] theorem State.draw_gear : s.draw.gear = s.gear := rfl
@[simp] theorem State.draw_host : s.draw.host = s.host := rfl
@[simp] theorem State.draw_sec : s.draw.sec = s.sec := rfl
@[simp] theorem State.draw_power : s.draw.power = s.power := rfl
@[simp] theorem State.draw_events : s.draw.events = s.events := rfl
@[simp] theorem State.draw_hub : s.draw.hub = s.hub := rfl
@[simp] theorem State.draw_tap : s.draw.tap = s.tap := rfl
@[simp] theorem State.draw_out : s.draw.out = s.out := rfl
@[simp] theorem State.draw_thr  (j : Nat) : s.draw.thr j = s.thr j := rfl
@[simp] theorem State.draw_core  (j : Nat) : s.draw.core j = s.core j := rfl
@[simp] theorem State.draw_ctx  (j : Nat) : s.draw.ctx j = s.ctx j := rfl
@[simp] theorem State.draw_engine  (j : Nat) : s.draw.engine j = s.engine j := rfl
@[simp] theorem State.draw_tree  (j : Nat) : s.draw.tree j = s.tree j := rfl
@[simp] theorem State.draw_port  (j : Nat) : s.draw.port j = s.port j := rfl
@[simp] theorem State.draw_hq  (j : Nat) : s.draw.hq j = s.hq j := rfl
@[simp] theorem State.draw_hubSrc  (j : Nat) : s.draw.hubSrc j = s.hubSrc j := rfl
@[simp] theorem State.draw_semCount  (j : Nat) : s.draw.semCount j = s.semCount j := rfl
@[simp] theorem State.draw_bank  (j : Nat) : s.draw.bank j = s.bank j := rfl
@[simp] theorem State.draw_count  (j : Nat) : s.draw.count j = s.count j := rfl
@[simp] theorem State.draw_part  (j : Nat) : s.draw.part j = s.part j := rfl
@[simp] theorem State.draw_byte  (j : Nat) : s.draw.byte j = s.byte j := rfl
@[simp] theorem State.draw_granule  (j : Nat) : s.draw.granule j = s.granule j := rfl

/-! ### poke -/

@[simp] theorem State.poke_pending (a : Nat) (bs : List Byte) : (s.poke a bs).pending = s.pending := rfl
@[simp] theorem State.poke_fresh (a : Nat) (bs : List Byte) : (s.poke a bs).fresh = s.fresh := rfl
@[simp] theorem State.poke_ticks (a : Nat) (bs : List Byte) : (s.poke a bs).ticks = s.ticks := rfl
@[simp] theorem State.poke_clk (a : Nat) (bs : List Byte) : (s.poke a bs).clk = s.clk := rfl
@[simp] theorem State.poke_clkOff (a : Nat) (bs : List Byte) : (s.poke a bs).clkOff = s.clkOff := rfl
@[simp] theorem State.poke_ref25 (a : Nat) (bs : List Byte) : (s.poke a bs).ref25 = s.ref25 := rfl
@[simp] theorem State.poke_snap (a : Nat) (bs : List Byte) : (s.poke a bs).snap = s.snap := rfl
@[simp] theorem State.poke_snapDone (a : Nat) (bs : List Byte) : (s.poke a bs).snapDone = s.snapDone := rfl
@[simp] theorem State.poke_snapWait (a : Nat) (bs : List Byte) : (s.poke a bs).snapWait = s.snapWait := rfl
@[simp] theorem State.poke_snapBusy (a : Nat) (bs : List Byte) : (s.poke a bs).snapBusy = s.snapBusy := rfl
@[simp] theorem State.poke_threads (a : Nat) (bs : List Byte) : (s.poke a bs).threads = s.threads := rfl
@[simp] theorem State.poke_cores (a : Nat) (bs : List Byte) : (s.poke a bs).cores = s.cores := rfl
@[simp] theorem State.poke_sem (a : Nat) (bs : List Byte) : (s.poke a bs).sem = s.sem := rfl
@[simp] theorem State.poke_semQ (a : Nat) (bs : List Byte) : (s.poke a bs).semQ = s.semQ := rfl
@[simp] theorem State.poke_takeReply (a : Nat) (bs : List Byte) : (s.poke a bs).takeReply = s.takeReply := rfl
@[simp] theorem State.poke_readReply (a : Nat) (bs : List Byte) : (s.poke a bs).readReply = s.readReply := rfl
@[simp] theorem State.poke_gran (a : Nat) (bs : List Byte) : (s.poke a bs).gran = s.gran := rfl
@[simp] theorem State.poke_capAM (a : Nat) (bs : List Byte) : (s.poke a bs).capAM = s.capAM := rfl
@[simp] theorem State.poke_stepping (a : Nat) (bs : List Byte) : (s.poke a bs).stepping = s.stepping := rfl
@[simp] theorem State.poke_memRate (a : Nat) (bs : List Byte) : (s.poke a bs).memRate = s.memRate := rfl
@[simp] theorem State.poke_regions (a : Nat) (bs : List Byte) : (s.poke a bs).regions = s.regions := rfl
@[simp] theorem State.poke_poolCfg (a : Nat) (bs : List Byte) : (s.poke a bs).poolCfg = s.poolCfg := rfl
@[simp] theorem State.poke_parts (a : Nat) (bs : List Byte) : (s.poke a bs).parts = s.parts := rfl
@[simp] theorem State.poke_prots (a : Nat) (bs : List Byte) : (s.poke a bs).prots = s.prots := rfl
@[simp] theorem State.poke_xinv (a : Nat) (bs : List Byte) : (s.poke a bs).xinv = s.xinv := rfl
@[simp] theorem State.poke_pelXlat (a : Nat) (bs : List Byte) : (s.poke a bs).pelXlat = s.pelXlat := rfl
@[simp] theorem State.poke_bkts (a : Nat) (bs : List Byte) : (s.poke a bs).bkts = s.bkts := rfl
@[simp] theorem State.poke_memErr (a : Nat) (bs : List Byte) : (s.poke a bs).memErr = s.memErr := rfl
@[simp] theorem State.poke_front (a : Nat) (bs : List Byte) : (s.poke a bs).front = s.front := rfl
@[simp] theorem State.poke_banks (a : Nat) (bs : List Byte) : (s.poke a bs).banks = s.banks := rfl
@[simp] theorem State.poke_poolLines (a : Nat) (bs : List Byte) : (s.poke a bs).poolLines = s.poolLines := rfl
@[simp] theorem State.poke_lookupQ (a : Nat) (bs : List Byte) : (s.poke a bs).lookupQ = s.lookupQ := rfl
@[simp] theorem State.poke_engines (a : Nat) (bs : List Byte) : (s.poke a bs).engines = s.engines := rfl
@[simp] theorem State.poke_ctxs (a : Nat) (bs : List Byte) : (s.poke a bs).ctxs = s.ctxs := rfl
@[simp] theorem State.poke_stepc (a : Nat) (bs : List Byte) : (s.poke a bs).stepc = s.stepc := rfl
@[simp] theorem State.poke_seqEntry (a : Nat) (bs : List Byte) : (s.poke a bs).seqEntry = s.seqEntry := rfl
@[simp] theorem State.poke_seqBase (a : Nat) (bs : List Byte) : (s.poke a bs).seqBase = s.seqBase := rfl
@[simp] theorem State.poke_trees (a : Nat) (bs : List Byte) : (s.poke a bs).trees = s.trees := rfl
@[simp] theorem State.poke_lnkTmo (a : Nat) (bs : List Byte) : (s.poke a bs).lnkTmo = s.lnkTmo := rfl
@[simp] theorem State.poke_lnkStall (a : Nat) (bs : List Byte) : (s.poke a bs).lnkStall = s.lnkStall := rfl
@[simp] theorem State.poke_lnkId (a : Nat) (bs : List Byte) : (s.poke a bs).lnkId = s.lnkId := rfl
@[simp] theorem State.poke_routes (a : Nat) (bs : List Byte) : (s.poke a bs).routes = s.routes := rfl
@[simp] theorem State.poke_exports (a : Nat) (bs : List Byte) : (s.poke a bs).exports = s.exports := rfl
@[simp] theorem State.poke_ports (a : Nat) (bs : List Byte) : (s.poke a bs).ports = s.ports := rfl
@[simp] theorem State.poke_remotes (a : Nat) (bs : List Byte) : (s.poke a bs).remotes = s.remotes := rfl
@[simp] theorem State.poke_nextXid (a : Nat) (bs : List Byte) : (s.poke a bs).nextXid = s.nextXid := rfl
@[simp] theorem State.poke_cad (a : Nat) (bs : List Byte) : (s.poke a bs).cad = s.cad := rfl
@[simp] theorem State.poke_gear (a : Nat) (bs : List Byte) : (s.poke a bs).gear = s.gear := rfl
@[simp] theorem State.poke_host (a : Nat) (bs : List Byte) : (s.poke a bs).host = s.host := rfl
@[simp] theorem State.poke_sec (a : Nat) (bs : List Byte) : (s.poke a bs).sec = s.sec := rfl
@[simp] theorem State.poke_power (a : Nat) (bs : List Byte) : (s.poke a bs).power = s.power := rfl
@[simp] theorem State.poke_events (a : Nat) (bs : List Byte) : (s.poke a bs).events = s.events := rfl
@[simp] theorem State.poke_hub (a : Nat) (bs : List Byte) : (s.poke a bs).hub = s.hub := rfl
@[simp] theorem State.poke_tap (a : Nat) (bs : List Byte) : (s.poke a bs).tap = s.tap := rfl
@[simp] theorem State.poke_out (a : Nat) (bs : List Byte) : (s.poke a bs).out = s.out := rfl
@[simp] theorem State.poke_thr (a : Nat) (bs : List Byte) (j : Nat) : (s.poke a bs).thr j = s.thr j := rfl
@[simp] theorem State.poke_core (a : Nat) (bs : List Byte) (j : Nat) : (s.poke a bs).core j = s.core j := rfl
@[simp] theorem State.poke_ctx (a : Nat) (bs : List Byte) (j : Nat) : (s.poke a bs).ctx j = s.ctx j := rfl
@[simp] theorem State.poke_engine (a : Nat) (bs : List Byte) (j : Nat) : (s.poke a bs).engine j = s.engine j := rfl
@[simp] theorem State.poke_tree (a : Nat) (bs : List Byte) (j : Nat) : (s.poke a bs).tree j = s.tree j := rfl
@[simp] theorem State.poke_port (a : Nat) (bs : List Byte) (j : Nat) : (s.poke a bs).port j = s.port j := rfl
@[simp] theorem State.poke_hq (a : Nat) (bs : List Byte) (j : Nat) : (s.poke a bs).hq j = s.hq j := rfl
@[simp] theorem State.poke_hubSrc (a : Nat) (bs : List Byte) (j : Nat) : (s.poke a bs).hubSrc j = s.hubSrc j := rfl
@[simp] theorem State.poke_semCount (a : Nat) (bs : List Byte) (j : Nat) : (s.poke a bs).semCount j = s.semCount j := rfl
@[simp] theorem State.poke_bank (a : Nat) (bs : List Byte) (j : Nat) : (s.poke a bs).bank j = s.bank j := rfl
@[simp] theorem State.poke_count (a : Nat) (bs : List Byte) (j : Nat) : (s.poke a bs).count j = s.count j := rfl
@[simp] theorem State.poke_part (a : Nat) (bs : List Byte) (j : Nat) : (s.poke a bs).part j = s.part j := rfl
@[simp] theorem State.poke_granule (a : Nat) (bs : List Byte) (j : Nat) : (s.poke a bs).granule j = s.granule j := rfl

end Sys2Proof.Machine
end

