-- ==== Sys2Proof/Laws/Canonical.lean ====
section
/-! SUPPORT. The canonical form of memory, detection codes and semaphore counts: how it passes through the shapes in which the
meanings are written. -/

set_option linter.all false
namespace Sys2Proof.Machine

/-- The canonical form, of the three maps alone. -/
def Canon3 (m : KMap Byte) (g : KMap Gran) (k : KMap (BitVec 16)) : Prop := Memory.wf m = true ∧ kwf {} g = true ∧ kwf 0 k = true

theorem Canon3.of {s : State} (h : State.Canonical s) : Canon3 s.mem s.gran s.sem := h
theorem State.Canonical.set_mem {s : State} (h : State.Canonical s) {m : KMap Byte} (hm : kwf 0 m = true) : State.Canonical { s with mem := m } := ⟨hm, h.2.1, h.2.2⟩

theorem canon_mk (pending : List Instr) (fresh : Nat) (ticks : Nat) (clk : KMap Word) (clkOff : List Nat) (ref25 : Bool) (snap : KMap Word) (snapDone : Bool) (snapWait : List Nat) (snapBusy : Bool) (threads : KMap Thread) (cores : KMap Core) (sem : KMap (BitVec 16)) (semQ : List SemReq) (takeReply : List (Nat × Bool)) (readReply : List (Nat × Nat × BitVec 16)) (mem : List Host.Cell) (gran : KMap Gran) (capAM : Bool) (stepping : Byte) (memRate : Nat) (regions : KMap Region) (poolCfg : KMap (BitVec 16)) (parts : KMap Part) (prots : KMap Prot) (xinv : KMap XInv) (pelXlat : List XEnt) (bkts : KMap Bucket) (memErr : KMap Word) (front : KMap (List MemReq)) (banks : KMap Bank) (poolLines : KMap (List PLine)) (lookupQ : KMap (List MemReq)) (engines : KMap Engine) (ctxs : KMap Ctx) (stepc : StepCtl) (seqEntry : KMap Word) (seqBase : KMap Word) (trees : KMap Tree) (lnkTmo : BitVec 32) (lnkStall : BitVec 16) (lnkId : BitVec 10) (routes : KMap Route) (exports : KMap Export) (ports : KMap Port) (remotes : KMap Remote) (nextXid : Nat) (cad : Cad) (gear : Gear) (host : HostIf) (sec : Sec) (power : Power) (events : Events) (hub : Hub) (tap : Tap) (out : List Out) (h : Canon3 mem gran sem) : State.Canonical (State.mk pending fresh ticks clk clkOff ref25 snap snapDone snapWait snapBusy threads cores sem semQ takeReply readReply mem gran capAM stepping memRate regions poolCfg parts prots xinv pelXlat bkts memErr front banks poolLines lookupQ engines ctxs stepc seqEntry seqBase trees lnkTmo lnkStall lnkId routes exports ports remotes nextXid cad gear host sec power events hub tap out) := h

theorem foldl_canon {β : Type} (f : State → β → State) (l : List β) (s : State) (hs : State.Canonical s)
    (h : ∀ s b, State.Canonical s → State.Canonical (f s b)) : State.Canonical (l.foldl f s) := by
  induction l generalizing s with
  | nil => exact hs
  | cons b l ih => exact ih _ (h s b hs)

theorem foldl_canon_snd {α β : Type} (f : α × State → β → α × State) (l : List β) (s : α × State) (hs : State.Canonical s.2)
    (h : ∀ s b, State.Canonical s.2 → State.Canonical (f s b).2) : State.Canonical (l.foldl f s).2 := by
  induction l generalizing s with
  | nil => exact hs
  | cons b l ih => exact ih _ (h s b hs)

theorem foldl_canon_fst {α β : Type} (f : State × α → β → State × α) (l : List β) (s : State × α) (hs : State.Canonical s.1)
    (h : ∀ s b, State.Canonical s.1 → State.Canonical (f s b).1) : State.Canonical (l.foldl f s).1 := by
  induction l generalizing s with
  | nil => exact hs
  | cons b l ih => exact ih _ (h s b hs)

def Act.Canon : Act → Prop
  | .retire s => Machine.State.Canonical s
  | .shadow s _ => Machine.State.Canonical s
  | .branch s _ => Machine.State.Canonical s
  | .goto s _ => Machine.State.Canonical s
  | .leap s _ => Machine.State.Canonical s
  | .deliver s => Machine.State.Canonical s
  | .part s => Machine.State.Canonical s
  | .exc s _ => Machine.State.Canonical s
  | .hold s => Machine.State.Canonical s

def ResCanon : Host.Outcome State Fault Refusal → Prop
  | .next s => State.Canonical s
  | _ => True

theorem actRetire {s : State} (h : State.Canonical s) : (Act.retire s).Canon := h
theorem actShadow {s : State} {v : Word} (h : State.Canonical s) : (Act.shadow s v).Canon := h
theorem actBranch {s : State} {v : Option Word} (h : State.Canonical s) : (Act.branch s v).Canon := h
theorem actGoto {s : State} {v : Word} (h : State.Canonical s) : (Act.goto s v).Canon := h
theorem actLeap {s : State} {v : Word} (h : State.Canonical s) : (Act.leap s v).Canon := h
theorem actDeliver {s : State} (h : State.Canonical s) : (Act.deliver s).Canon := h
theorem actPart {s : State} (h : State.Canonical s) : (Act.part s).Canon := h
theorem actExc {s : State} {e : Exc} (h : State.Canonical s) : (Act.exc s e).Canon := h
theorem actHold {s : State} (h : State.Canonical s) : (Act.hold s).Canon := h
theorem resNext {s : State} (h : State.Canonical s) : ResCanon (Host.Outcome.next s) := h

theorem ite_canon {c : Prop} [Decidable c] {a b : State} (ha : State.Canonical a) (hb : State.Canonical b) : State.Canonical (if c then a else b) := by
  by_cases h : c
  · rw [if_pos h]; exact ha
  · rw [if_neg h]; exact hb
theorem ite_canon_act {c : Prop} [Decidable c] {a b : Act} (ha : a.Canon) (hb : b.Canon) : (if c then a else b).Canon := by
  by_cases h : c
  · rw [if_pos h]; exact ha
  · rw [if_neg h]; exact hb
theorem ite_canon_res {c : Prop} [Decidable c] {a b : Host.Outcome State Fault Refusal} (ha : ResCanon a) (hb : ResCanon b) : ResCanon (if c then a else b) := by
  by_cases h : c
  · rw [if_pos h]; exact ha
  · rw [if_neg h]; exact hb
theorem ite_canon_snd {α : Type} {c : Prop} [Decidable c] {a b : α × State} (ha : State.Canonical a.2) (hb : State.Canonical b.2) : State.Canonical (if c then a else b).2 := by
  by_cases h : c
  · rw [if_pos h]; exact ha
  · rw [if_neg h]; exact hb
theorem ite_canon_fst {α : Type} {c : Prop} [Decidable c] {a b : State × α} (ha : State.Canonical a.1) (hb : State.Canonical b.1) : State.Canonical (if c then a else b).1 := by
  by_cases h : c
  · rw [if_pos h]; exact ha
  · rw [if_neg h]; exact hb

theorem snd_canon_eq {α : Type} {p : α × State} {x : α} {y : State} (h : p = (x, y)) (hp : State.Canonical p.2) : State.Canonical y := by
  rw [h] at hp; exact hp
theorem fst_canon_eq {α : Type} {p : State × α} {x : α} {y : State} (h : p = (y, x)) (hp : State.Canonical p.1) : State.Canonical y := by
  rw [h] at hp; exact hp

def Got.Canon : Got → Prop
  | .wait s => Machine.State.Canonical s
  | .got _ _ _ s => Machine.State.Canonical s
def Entered.Canon : Entered → Prop
  | .into s _ _ => Machine.State.Canonical s
  | .stop s => Machine.State.Canonical s
def Taken.Canon : Taken → Prop
  | .got _ s => Machine.State.Canonical s
  | .wait s => Machine.State.Canonical s
  | .bad s _ => Machine.State.Canonical s
def ECanonM {α β : Type} : Except State (α × State × β) → Prop
  | .error s => State.Canonical s
  | .ok v => State.Canonical v.2.1
def ECanon3 {α β : Type} : Except State (α × β × State) → Prop
  | .error s => State.Canonical s
  | .ok v => State.Canonical v.2.2
def ECanonF {α : Type} : Except (State × α) State → Prop
  | .error s => State.Canonical s.1
  | .ok v => State.Canonical v
def ECanonV {α β : Type} : Except (State × α) (β × State) → Prop
  | .error s => State.Canonical s.1
  | .ok v => State.Canonical v.2
def OCanon : Option State → Prop
  | none => True
  | some s => State.Canonical s
theorem gotW {s : State} (h : State.Canonical s) : (Got.wait s).Canon := h
theorem gotG {s : State} {b p c} (h : State.Canonical s) : (Got.got b p c s).Canon := h
theorem gotW_eq {x : Got} {s : State} (e : x = .wait s) (h : x.Canon) : State.Canonical s := by subst e; exact h
theorem gotG_eq {x : Got} {s : State} {b p c} (e : x = .got b p c s) (h : x.Canon) : State.Canonical s := by subst e; exact h
theorem entI {s : State} {d k} (h : State.Canonical s) : (Entered.into s d k).Canon := h
theorem entS {s : State} (h : State.Canonical s) : (Entered.stop s).Canon := h
theorem entI_eq {x : Entered} {s : State} {d k} (e : x = .into s d k) (h : x.Canon) : State.Canonical s := by subst e; exact h
theorem entS_eq {x : Entered} {s : State} (e : x = .stop s) (h : x.Canon) : State.Canonical s := by subst e; exact h
theorem takG {s : State} {b} (h : State.Canonical s) : (Taken.got b s).Canon := h
theorem takW {s : State} (h : State.Canonical s) : (Taken.wait s).Canon := h
theorem takB {s : State} {e} (h : State.Canonical s) : (Taken.bad s e).Canon := h
theorem takG_eq {x : Taken} {s : State} {b} (e : x = .got b s) (h : x.Canon) : State.Canonical s := by subst e; exact h
theorem takW_eq {x : Taken} {s : State} (e : x = .wait s) (h : x.Canon) : State.Canonical s := by subst e; exact h
theorem takB_eq {x : Taken} {s : State} {b} (e : x = .bad s b) (h : x.Canon) : State.Canonical s := by subst e; exact h
theorem exmE {α β : Type} {s : State} (h : State.Canonical s) : ECanonM (.error s : Except State (α × State × β)) := h
theorem exmO {α β : Type} {a : α} {s : State} {b : β} (h : State.Canonical s) : ECanonM (.ok (a, s, b)) := h
theorem exmE_eq {α β : Type} {x : Except State (α × State × β)} {s : State} (e : x = .error s) (h : ECanonM x) : State.Canonical s := by subst e; exact h
theorem exmO_eq {α β : Type} {x : Except State (α × State × β)} {a : α} {s : State} {b : β} (e : x = .ok (a, s, b)) (h : ECanonM x) : State.Canonical s := by subst e; exact h
theorem ex3E {α β : Type} {s : State} (h : State.Canonical s) : ECanon3 (.error s : Except State (α × β × State)) := h
theorem ex3O {α β : Type} {a : α} {s : State} {b : β} (h : State.Canonical s) : ECanon3 (.ok (a, b, s)) := h
theorem ex3E_eq {α β : Type} {x : Except State (α × β × State)} {s : State} (e : x = .error s) (h : ECanon3 x) : State.Canonical s := by subst e; exact h
theorem ex3O_eq {α β : Type} {x : Except State (α × β × State)} {a : α} {s : State} {b : β} (e : x = .ok (a, b, s)) (h : ECanon3 x) : State.Canonical s := by subst e; exact h
theorem exfE {α : Type} {s : State} {a : α} (h : State.Canonical s) : ECanonF (.error (s, a)) := h
theorem exfO {α : Type} {s : State} (h : State.Canonical s) : ECanonF (.ok s : Except (State × α) State) := h
theorem exfE_eq {α : Type} {x : Except (State × α) State} {s : State} {a : α} (e : x = .error (s, a)) (h : ECanonF x) : State.Canonical s := by subst e; exact h
theorem exfO_eq {α : Type} {x : Except (State × α) State} {s : State} (e : x = .ok s) (h : ECanonF x) : State.Canonical s := by subst e; exact h
theorem exvE {α β : Type} {s : State} {a : α} (h : State.Canonical s) : ECanonV (.error (s, a) : Except (State × α) (β × State)) := h
theorem exvO {α β : Type} {s : State} {b : β} (h : State.Canonical s) : ECanonV (.ok (b, s) : Except (State × α) (β × State)) := h
theorem exvE_eq {α β : Type} {x : Except (State × α) (β × State)} {s : State} {a : α} (e : x = .error (s, a)) (h : ECanonV x) : State.Canonical s := by subst e; exact h
theorem exvO_eq {α β : Type} {x : Except (State × α) (β × State)} {s : State} {b : β} (e : x = .ok (b, s)) (h : ECanonV x) : State.Canonical s := by subst e; exact h
theorem optN : OCanon none := trivial
theorem optS {s : State} (h : State.Canonical s) : OCanon (some s) := h
theorem optS_eq {x : Option State} {s : State} (e : x = some s) (h : OCanon x) : State.Canonical s := by subst e; exact h
theorem ite_canon_got {c : Prop} [Decidable c] {a b : Got} (ha : (a).Canon) (hb : (b).Canon) : ((if c then a else b)).Canon := by
  by_cases h : c
  · rw [if_pos h]; exact ha
  · rw [if_neg h]; exact hb
theorem ite_canon_ent {c : Prop} [Decidable c] {a b : Entered} (ha : (a).Canon) (hb : (b).Canon) : ((if c then a else b)).Canon := by
  by_cases h : c
  · rw [if_pos h]; exact ha
  · rw [if_neg h]; exact hb
theorem ite_canon_tak {c : Prop} [Decidable c] {a b : Taken} (ha : (a).Canon) (hb : (b).Canon) : ((if c then a else b)).Canon := by
  by_cases h : c
  · rw [if_pos h]; exact ha
  · rw [if_neg h]; exact hb
theorem ite_canon_exm {α β : Type} {c : Prop} [Decidable c] {a b : Except State (α × State × β)} (ha : ECanonM (a)) (hb : ECanonM (b)) : ECanonM ((if c then a else b)) := by
  by_cases h : c
  · rw [if_pos h]; exact ha
  · rw [if_neg h]; exact hb
theorem ite_canon_ex3 {α β : Type} {c : Prop} [Decidable c] {a b : Except State (α × β × State)} (ha : ECanon3 (a)) (hb : ECanon3 (b)) : ECanon3 ((if c then a else b)) := by
  by_cases h : c
  · rw [if_pos h]; exact ha
  · rw [if_neg h]; exact hb
theorem ite_canon_exf {α : Type} {c : Prop} [Decidable c] {a b : Except (State × α) State} (ha : ECanonF (a)) (hb : ECanonF (b)) : ECanonF ((if c then a else b)) := by
  by_cases h : c
  · rw [if_pos h]; exact ha
  · rw [if_neg h]; exact hb
theorem ite_canon_exv {α β : Type} {c : Prop} [Decidable c] {a b : Except (State × α) (β × State)} (ha : ECanonV (a)) (hb : ECanonV (b)) : ECanonV ((if c then a else b)) := by
  by_cases h : c
  · rw [if_pos h]; exact ha
  · rw [if_neg h]; exact hb
theorem ite_canon_opt {c : Prop} [Decidable c] {a b : Option State} (ha : OCanon (a)) (hb : OCanon (b)) : OCanon ((if c then a else b)) := by
  by_cases h : c
  · rw [if_pos h]; exact ha
  · rw [if_neg h]; exact hb

theorem ite_canon_snd3 {α β : Type} {c : Prop} [Decidable c] {a b : α × β × State} (ha : State.Canonical a.2.2) (hb : State.Canonical b.2.2) : State.Canonical (if c then a else b).2.2 := by
  by_cases h : c
  · rw [if_pos h]; exact ha
  · rw [if_neg h]; exact hb
theorem snd3_canon_eq {α β : Type} {p : α × β × State} {x : α} {z : β} {y : State} (h : p = (x, z, y)) (hp : State.Canonical p.2.2) : State.Canonical y := by
  rw [h] at hp; exact hp

theorem foldl_canon_proj {β γ : Type} (π : γ → State) (f : γ → β → γ) (l : List β) (s : γ) (hs : State.Canonical (π s))
    (h : ∀ s b, State.Canonical (π s) → State.Canonical (π (f s b))) : State.Canonical (π (l.foldl f s)) := by
  induction l generalizing s with
  | nil => exact hs
  | cons b l ih => exact ih _ (h s b hs)

theorem foldl_canon_snd3 {α δ β : Type} (f : α × δ × State → β → α × δ × State) (l : List β) (s : α × δ × State) (hs : State.Canonical s.2.2)
    (h : ∀ s b, State.Canonical s.2.2 → State.Canonical (f s b).2.2) : State.Canonical (l.foldl f s).2.2 := foldl_canon_proj (fun s => s.2.2) f l s hs h
theorem foldl_canon_pass {β : Type} (f : Pass1 → β → Pass1) (l : List β) (s : Pass1) (hs : State.Canonical s.s)
    (h : ∀ s b, State.Canonical s.s → State.Canonical (f s b).s) : State.Canonical (l.foldl f s).s := foldl_canon_proj Pass1.s f l s hs h
theorem foldl_canon_vload {β : Type} (f : VLoad → β → VLoad) (l : List β) (s : VLoad) (hs : State.Canonical s.s)
    (h : ∀ s b, State.Canonical s.s → State.Canonical (f s b).s) : State.Canonical (l.foldl f s).s := foldl_canon_proj VLoad.s f l s hs h
theorem ite_canon_pass {c : Prop} [Decidable c] {a b : Pass1} (ha : State.Canonical a.s) (hb : State.Canonical b.s) : State.Canonical (if c then a else b).s := by
  by_cases h : c
  · rw [if_pos h]; exact ha
  · rw [if_neg h]; exact hb
theorem ite_canon_vload {c : Prop} [Decidable c] {a b : VLoad} (ha : State.Canonical a.s) (hb : State.Canonical b.s) : State.Canonical (if c then a else b).s := by
  by_cases h : c
  · rw [if_pos h]; exact ha
  · rw [if_neg h]; exact hb

end Sys2Proof.Machine
end

