-- ==== Sys2Proof/Laws/CanonicalCore.lean ====
section
/-! SUPPORT. Every operation and meaning keeps the canonical form: cores, memory accesses, issue, scalar instructions, caches and semaphores. -/

set_option linter.all false
namespace Sys2Proof.Machine

theorem State_setThr_canon (s : State) (t : Nat) (x : Thread) (h_s : State.Canonical s) : State.Canonical (State.setThr s t x) := by
  unfold State.setThr
  repeat' (first
      | with_reducible assumption | (fail_if_no_progress (with_reducible apply canon_mk; with_reducible apply Canon3.of)))

theorem State_setCore_canon (s : State) (c : Nat) (x : Core) (h_s : State.Canonical s) : State.Canonical (State.setCore s c x) := by
  unfold State.setCore
  repeat' (first
      | with_reducible assumption | (fail_if_no_progress (with_reducible apply canon_mk; with_reducible apply Canon3.of)))

theorem State_setCtx_canon (s : State) (x : Nat) (c : Ctx) (h_s : State.Canonical s) : State.Canonical (State.setCtx s x c) := by
  unfold State.setCtx
  repeat' (first
      | with_reducible assumption | (fail_if_no_progress (with_reducible apply canon_mk; with_reducible apply Canon3.of)))

theorem State_setEngine_canon (s : State) (e : Nat) (x : Engine) (h_s : State.Canonical s) : State.Canonical (State.setEngine s e x) := by
  unfold State.setEngine
  repeat' (first
      | with_reducible assumption | (fail_if_no_progress (with_reducible apply canon_mk; with_reducible apply Canon3.of)))

theorem State_setTree_canon (s : State) (t : Nat) (x : Tree) (h_s : State.Canonical s) : State.Canonical (State.setTree s t x) := by
  unfold State.setTree
  repeat' (first
      | with_reducible assumption | (fail_if_no_progress (with_reducible apply canon_mk; with_reducible apply Canon3.of)))

theorem State_setPort_canon (s : State) (p : Nat) (x : Port) (h_s : State.Canonical s) : State.Canonical (State.setPort s p x) := by
  unfold State.setPort
  repeat' (first
      | with_reducible assumption | (fail_if_no_progress (with_reducible apply canon_mk; with_reducible apply Canon3.of)))

theorem State_setHq_canon (s : State) (q : Nat) (x : HostQ) (h_s : State.Canonical s) : State.Canonical (State.setHq s q x) := by
  unfold State.setHq
  repeat' (first
      | with_reducible assumption | dsimp only
      | (fail_if_no_progress (with_reducible apply canon_mk; with_reducible apply Canon3.of)))

theorem State_setHubSrc_canon (s : State) (n : Nat) (x : HubSrc) (h_s : State.Canonical s) : State.Canonical (State.setHubSrc s n x) := by
  unfold State.setHubSrc
  repeat' (first
      | with_reducible assumption | dsimp only
      | (fail_if_no_progress (with_reducible apply canon_mk; with_reducible apply Canon3.of)))

theorem State_setSem_canon (s : State) (n : Nat) (v : BitVec 16) (h : State.Canonical s) : State.Canonical (s.setSem n v) := ⟨h.1, h.2.1, kwf_kset _ _ _ _ h.2.2⟩

theorem State_setBank_canon (s : State) (k : Nat) (b : Bank) (h_s : State.Canonical s) : State.Canonical (State.setBank s k b) := by
  unfold State.setBank
  repeat' (first
      | with_reducible assumption | (fail_if_no_progress (with_reducible apply canon_mk; with_reducible apply Canon3.of)))

theorem State_emit_canon (s : State) (o : Out) (h_s : State.Canonical s) : State.Canonical (State.emit s o) := by
  unfold State.emit
  repeat' (first
      | with_reducible assumption | (fail_if_no_progress (with_reducible apply canon_mk; with_reducible apply Canon3.of)))

theorem State_draw_canon (s : State) (h_s : State.Canonical s) : State.Canonical (State.draw s) := by
  unfold State.draw
  repeat' (first
      | with_reducible assumption | (fail_if_no_progress (with_reducible apply canon_mk; with_reducible apply Canon3.of)))

theorem State_updThr_canon (s : State) (t : Nat) (f : Thread → Thread) (h_s : State.Canonical s) : State.Canonical (State.updThr s t f) := by
  unfold State.updThr
  repeat' (first
      | with_reducible assumption | with_reducible apply State_setThr_canon)

theorem State_updCore_canon (s : State) (c : Nat) (f : Core → Core) (h_s : State.Canonical s) : State.Canonical (State.updCore s c f) := by
  unfold State.updCore
  repeat' (first
      | with_reducible assumption | with_reducible apply State_setCore_canon)

theorem State_updCtx_canon (s : State) (x : Nat) (f : Ctx → Ctx) (h_s : State.Canonical s) : State.Canonical (State.updCtx s x f) := by
  unfold State.updCtx
  repeat' (first
      | with_reducible assumption | with_reducible apply State_setCtx_canon)

theorem State_updEngine_canon (s : State) (e : Nat) (f : Engine → Engine) (h_s : State.Canonical s) : State.Canonical (State.updEngine s e f) := by
  unfold State.updEngine
  repeat' (first
      | with_reducible assumption | with_reducible apply State_setEngine_canon)

theorem State_updTree_canon (s : State) (t : Nat) (f : Tree → Tree) (h_s : State.Canonical s) : State.Canonical (State.updTree s t f) := by
  unfold State.updTree
  repeat' (first
      | with_reducible assumption | with_reducible apply State_setTree_canon)

theorem State_updPort_canon (s : State) (p : Nat) (f : Port → Port) (h_s : State.Canonical s) : State.Canonical (State.updPort s p f) := by
  unfold State.updPort
  repeat' (first
      | with_reducible assumption | with_reducible apply State_setPort_canon)

theorem State_updHq_canon (s : State) (q : Nat) (f : HostQ → HostQ) (h_s : State.Canonical s) : State.Canonical (State.updHq s q f) := by
  unfold State.updHq
  repeat' (first
      | with_reducible assumption | with_reducible apply State_setHq_canon)

theorem State_msix_canon (s : State) (v : Nat) (h_s : State.Canonical s) : State.Canonical (State.msix s v) := by
  unfold State.msix
  repeat' (first
      | with_reducible assumption | dsimp only | with_reducible refine @ite_canon _ _ _ _ ?_ ?_
      | with_reducible apply State_emit_canon
      | (fail_if_no_progress (with_reducible apply canon_mk; with_reducible apply Canon3.of)))

theorem State_raise_canon (s : State) (u : EUnit) (domain code cls loc det : Nat) (h_s : State.Canonical s) : State.Canonical (State.raise s u domain code cls loc det) := by
  unfold State.raise
  repeat' (first
      | with_reducible assumption | dsimp only | with_reducible refine @ite_canon _ _ _ _ ?_ ?_
      | (fail_if_no_progress (with_reducible apply canon_mk; with_reducible apply Canon3.of)))

theorem State_raiseCore_canon (s : State) (c code cls loc det : Nat) (h_s : State.Canonical s) : State.Canonical (State.raiseCore s c code cls loc det) := by
  unfold State.raiseCore
  repeat' (first
      | with_reducible assumption | with_reducible apply State_raise_canon)

theorem State_raiseHub_canon (s : State) (code cls loc det : Nat) (h_s : State.Canonical s) : State.Canonical (State.raiseHub s code cls loc det) := by
  unfold State.raiseHub
  repeat' (first
      | with_reducible assumption | with_reducible apply State_raise_canon)

theorem State_raiseEng_canon (s : State) (e code cls loc det : Nat) (h_s : State.Canonical s) : State.Canonical (State.raiseEng s e code cls loc det) := by
  unfold State.raiseEng
  repeat' (first
      | with_reducible assumption | with_reducible apply State_raise_canon)

theorem State_pulse_canon (s : State) (f : Nat) (h_s : State.Canonical s) : State.Canonical (State.pulse s f) := by
  unfold State.pulse
  repeat' (first
      | with_reducible assumption | dsimp only | split
      | (fail_if_no_progress (with_reducible apply canon_mk; with_reducible apply Canon3.of)))

theorem State_hubPut_canon (s : State) (n : Nat) (x : HubSrc) (h_s : State.Canonical s) : State.Canonical (State.hubPut s n x) := by
  unfold State.hubPut
  repeat' (first
      | with_reducible assumption | dsimp only | with_reducible refine @ite_canon _ _ _ _ ?_ ?_
      | with_reducible apply State_setHubSrc_canon | with_reducible apply State_msix_canon)

theorem State_hubRaise_canon (s : State) (n : Nat) (h_s : State.Canonical s) : State.Canonical (State.hubRaise s n) := by
  unfold State.hubRaise
  repeat' (first
      | with_reducible assumption | dsimp only | with_reducible refine @ite_canon _ _ _ _ ?_ ?_
      | with_reducible apply State_pulse_canon | with_reducible apply State_hubPut_canon)

theorem State_hubLine_canon (s : State) (n : Nat) (level : Bool) (h_s : State.Canonical s) : State.Canonical (State.hubLine s n level) := by
  unfold State.hubLine
  repeat' (first
      | with_reducible assumption | dsimp only | with_reducible apply State_hubPut_canon)

theorem State_haltPins_canon (s : State) (h_s : State.Canonical s) : State.Canonical (State.haltPins s) := by
  unfold State.haltPins
  repeat' (first
      | with_reducible assumption | dsimp only | with_reducible apply State_hubLine_canon
      | (fail_if_no_progress (with_reducible apply canon_mk; with_reducible apply Canon3.of)))

theorem State_bellRaise_canon (s : State) (c n : Nat) (h_s : State.Canonical s) : State.Canonical (State.bellRaise s c n) := by
  unfold State.bellRaise
  repeat' (first
      | with_reducible assumption | dsimp only | with_reducible apply State_updCore_canon)

theorem State_byReg_canon (s x : State) (h_s : State.Canonical s) (h_x : State.Canonical x) : State.Canonical (State.byReg s x) := by
  unfold State.byReg
  repeat' (first
      | with_reducible assumption | with_reducible refine @ite_canon _ _ _ _ ?_ ?_)

theorem State_byCore_canon (s : State) (c off : Nat) (x : State) (h_s : State.Canonical s) (h_x : State.Canonical x) : State.Canonical (State.byCore s c off x) := by
  unfold State.byCore
  repeat' (first
      | with_reducible assumption | with_reducible refine @ite_canon _ _ _ _ ?_ ?_
      | with_reducible apply State_raiseCore_canon)

theorem State_reportIn_canon (s : State) (m g : Nat) (tag : BitVec 7) (h_s : State.Canonical s) : State.Canonical (State.reportIn s m g tag) := by
  unfold State.reportIn
  repeat' (first
      | with_reducible assumption | dsimp only | with_reducible apply State_raise_canon | split
      | (fail_if_no_progress (with_reducible apply canon_mk; with_reducible apply Canon3.of)))

theorem State_report_canon (s : State) (g : Nat) (tag : BitVec 7) (h_s : State.Canonical s) : State.Canonical (State.report s g tag) := by
  unfold State.report
  repeat' (first
      | with_reducible assumption | with_reducible apply State_reportIn_canon)

theorem State_send_canon (s : State) (a n : Nat) (write : Bool) (x : Acs) (h_s : State.Canonical s) : State.Canonical (State.send s a n write x) := by
  unfold State.send
  repeat' (first
      | with_reducible assumption | dsimp only | with_reducible intro _ | with_reducible apply foldl_canon | split
      | (fail_if_no_progress (with_reducible apply canon_mk; with_reducible apply Canon3.of)))

theorem State_sendReq_canon (s : State) (r : MemReq) (h_s : State.Canonical s) : State.Canonical (State.sendReq s r) := by
  unfold State.sendReq
  repeat' (first
      | with_reducible assumption | dsimp only
      | (fail_if_no_progress (with_reducible apply canon_mk; with_reducible apply Canon3.of)))

theorem State_touch_canon (s : State) (a n : Nat) (x : Acs) (h_s : State.Canonical s) : State.Canonical (State.touch s a n x) := by
  unfold State.touch
  repeat' (first
      | with_reducible assumption | with_reducible intro _ | with_reducible apply State_report_canon
      | with_reducible apply State_send_canon | with_reducible apply foldl_canon | split)

theorem State_poke_canon (s : State) (a : Nat) (bs : List Byte) (h : State.Canonical s) : State.Canonical (s.poke a bs) := ⟨kwf_ksetMany _ _ _ _ h.1, h.2.1, h.2.2⟩

theorem State_sealAs_canon (s : State) (g : Nat) (whole : Bool) (x : Acs) (p : Bool) (h : State.Canonical s) : State.Canonical (s.sealAs g whole x p) := by
  unfold State.sealAs
  split
  · exact ⟨h.1, kwf_kset _ _ _ _ h.2.1, h.2.2⟩
  · have h1 := State_report_canon s g x.tag h
    exact ⟨h1.1, kwf_kset _ _ _ _ h1.2.1, h1.2.2⟩

theorem State_seal_canon (s : State) (a n g : Nat) (x : Acs) (p : Bool) (h_s : State.Canonical s) : State.Canonical (State.seal s a n g x p) := by
  unfold State.seal
  repeat' (first
      | with_reducible assumption | with_reducible apply State_sealAs_canon)

theorem State_store_canon (s : State) (a : Nat) (bs : List Byte) (x : Acs) (poison : Nat → Bool) (h_s : State.Canonical s) : State.Canonical (State.store s a bs x poison) := by
  unfold State.store
  repeat' (first
      | with_reducible assumption | dsimp only | with_reducible refine @ite_canon _ _ _ _ ?_ ?_ | with_reducible intro _
      | with_reducible apply State_send_canon | with_reducible apply State_poke_canon | with_reducible apply State_seal_canon
      | with_reducible apply foldl_canon | split)

theorem State_atsNote_canon (s : State) (bus : Nat) (h_s : State.Canonical s) : State.Canonical (State.atsNote s bus) := by
  unfold State.atsNote
  repeat' (first
      | with_reducible assumption | dsimp only | with_reducible refine @ite_canon _ _ _ _ ?_ ?_
      | with_reducible apply State_emit_canon | with_reducible apply State_draw_canon
      | (fail_if_no_progress (with_reducible apply canon_mk; with_reducible apply Canon3.of)))

theorem State_hostPost_canon (s : State) (bus : Nat) (bs : List Byte) (h_s : State.Canonical s) : State.Canonical (State.hostPost s bus bs) := by
  unfold State.hostPost
  repeat' (first
      | with_reducible assumption | dsimp only | with_reducible apply State_emit_canon
      | with_reducible apply State_atsNote_canon)

theorem State_hostStore_canon (s : State) (off : Nat) (bs : List Byte) (h_s : State.Canonical s) : State.Canonical (State.hostStore s off bs) := by
  unfold State.hostStore
  repeat' (first
      | with_reducible assumption | with_reducible refine @ite_canon _ _ _ _ ?_ ?_ | with_reducible apply State_raise_canon
      | with_reducible apply State_hostPost_canon)

theorem State_hostLoad_canon (s : State) (w : Writer) (off n : Nat) (pel : Option Nat) (h_s : State.Canonical s) : State.Canonical (State.hostLoad s w off n pel) := by
  unfold State.hostLoad
  repeat' (first
      | with_reducible assumption | dsimp only | with_reducible apply State_emit_canon
      | with_reducible apply State_atsNote_canon
      | (fail_if_no_progress (with_reducible apply canon_mk; with_reducible apply Canon3.of)))

theorem State_hostBme_canon (s : State) (off : Nat) (h_s : State.Canonical s) : State.Canonical (State.hostBme s off) := by
  unfold State.hostBme
  repeat' (first
      | with_reducible assumption | with_reducible apply State_raise_canon)

theorem State_setRing_canon (s : State) (r : Nat) (x : Ring) (h_s : State.Canonical s) : State.Canonical (State.setRing s r x) := by
  unfold State.setRing
  repeat' (first
      | with_reducible assumption | dsimp only
      | (fail_if_no_progress (with_reducible apply canon_mk; with_reducible apply Canon3.of)))

theorem State_ringPut_canon (s : State) (r : Nat) (e : Event) (h_s : State.Canonical s) : State.Canonical (State.ringPut s r e) := by
  unfold State.ringPut
  repeat' (first
      | with_reducible assumption | dsimp only | with_reducible refine @ite_canon _ _ _ _ ?_ ?_
      | with_reducible apply State_msix_canon | with_reducible apply State_store_canon
      | with_reducible apply State_hostStore_canon | with_reducible apply State_setRing_canon)

theorem State_ringLose_canon (s : State) (r : Nat) (h_s : State.Canonical s) : State.Canonical (State.ringLose s r) := by
  unfold State.ringLose
  repeat' (first
      | with_reducible assumption | dsimp only | with_reducible apply State_setRing_canon)

theorem State_ringStore_canon (s : State) (r : Nat) (e : Event) (h_s : State.Canonical s) : State.Canonical (State.ringStore s r e) := by
  unfold State.ringStore
  repeat' (first
      | with_reducible assumption | with_reducible refine @ite_canon _ _ _ _ ?_ ?_ | with_reducible apply State_ringPut_canon
      | with_reducible apply State_ringLose_canon)

theorem State_ringWrite_canon (s : State) (r : Nat) (e : Event) (h_s : State.Canonical s) : State.Canonical (State.ringWrite s r e) := by
  unfold State.ringWrite
  repeat' (first
      | with_reducible assumption | dsimp only | with_reducible refine @ite_canon _ _ _ _ ?_ ?_
      | with_reducible apply State_setRing_canon | with_reducible apply State_ringPut_canon
      | with_reducible apply State_ringStore_canon)

theorem State_latchFatal_canon (s : State) (e : Event) (h_s : State.Canonical s) : State.Canonical (State.latchFatal s e) := by
  unfold State.latchFatal
  repeat' (first
      | with_reducible assumption | dsimp only | with_reducible refine @ite_canon _ _ _ _ ?_ ?_
      | (fail_if_no_progress (with_reducible apply canon_mk; with_reducible apply Canon3.of)))

theorem State_record_canon (s : State) (e : Event) (h_s : State.Canonical s) : State.Canonical (State.record s e) := by
  unfold State.record
  repeat' (first
      | with_reducible assumption | dsimp only | with_reducible refine @ite_canon _ _ _ _ ?_ ?_
      | with_reducible apply State_ringWrite_canon | with_reducible apply State_latchFatal_canon)

theorem execEventCollection_canon (s : State) (h_s : State.Canonical s) : ResCanon (execEventCollection s) := by
  unfold execEventCollection
  repeat' (first
      | with_reducible assumption | dsimp only | with_reducible refine @ite_canon _ _ _ _ ?_ ?_
      | with_reducible apply resNext | with_reducible apply State_record_canon | split
      | (fail_if_no_progress (with_reducible apply canon_mk; with_reducible apply Canon3.of)))

theorem State_scFatal_canon (s : State) (code loc det : Nat) (h_s : State.Canonical s) : State.Canonical (State.scFatal s code loc det) := by
  unfold State.scFatal
  repeat' (first
      | with_reducible assumption | dsimp only | with_reducible refine @ite_canon _ _ _ _ ?_ ?_
      | with_reducible apply State_raise_canon | with_reducible apply State_ringWrite_canon
      | with_reducible apply State_latchFatal_canon)

theorem State_loseQueued_canon (s s1 : State) (h_s : State.Canonical s) (h_s1 : State.Canonical s1) : State.Canonical (State.loseQueued s s1) := by
  unfold State.loseQueued
  repeat' (first
      | with_reducible assumption | with_reducible refine @ite_canon _ _ _ _ ?_ ?_ | with_reducible intro _
      | with_reducible apply State_ringLose_canon | with_reducible apply foldl_canon)

theorem execEvrCfgWrite_canon (r : Fin 8) (v : Word) (s : State) (h_s : State.Canonical s) : ResCanon (execEvrCfgWrite r v s) := by
  unfold execEvrCfgWrite
  repeat' (first
      | with_reducible assumption | dsimp only | with_reducible apply resNext | with_reducible apply State_byReg_canon
      | with_reducible apply State_setRing_canon)

theorem execEvtFatal0Write_canon (v : Word) (s : State) (h_s : State.Canonical s) : ResCanon (execEvtFatal0Write v s) := by
  unfold execEvtFatal0Write
  repeat' (first
      | with_reducible assumption | dsimp only | with_reducible apply resNext | with_reducible apply State_byReg_canon
      | (fail_if_no_progress (with_reducible apply canon_mk; with_reducible apply Canon3.of)))

theorem State_snapGo_canon (s : State) (h_s : State.Canonical s) : State.Canonical (State.snapGo s) := by
  unfold State.snapGo
  repeat' (first
      | with_reducible assumption | with_reducible refine @ite_canon _ _ _ _ ?_ ?_
      | (fail_if_no_progress (with_reducible apply canon_mk; with_reducible apply Canon3.of)))

theorem execClkSnap_canon (s : State) (h_s : State.Canonical s) : ResCanon (execClkSnap s) := by
  unfold execClkSnap
  repeat' (first
      | with_reducible assumption | with_reducible apply resNext | with_reducible apply State_byReg_canon
      | with_reducible apply State_snapGo_canon)

theorem execSnapshotLatch_canon (id : BitVec 12) (s : State) (h_s : State.Canonical s) : ResCanon (execSnapshotLatch id s) := by
  unfold execSnapshotLatch
  repeat' (first
      | with_reducible assumption | dsimp only | with_reducible refine @ite_canon _ _ _ _ ?_ ?_
      | with_reducible apply resNext | (fail_if_no_progress (with_reducible apply canon_mk; with_reducible apply Canon3.of)))

theorem State_setXcache_canon (s : State) (o : XOwner) (l : List XEnt) (h_s : State.Canonical s) : State.Canonical (State.setXcache s o l) := by
  unfold State.setXcache
  repeat' (first
      | with_reducible assumption | with_reducible apply State_updCore_canon | with_reducible apply State_updEngine_canon
      | split | (fail_if_no_progress (with_reducible apply canon_mk; with_reducible apply Canon3.of)))

theorem State_xlatNote_canon (s : State) (o : XOwner) (p priv : Nat) (k : Access) (va : Nat) (x : Acs) (h_s : State.Canonical s) : State.Canonical (State.xlatNote s o p priv k va x) := by
  unfold State.xlatNote
  repeat' (first
      | with_reducible assumption | dsimp only | with_reducible intro _ | with_reducible apply State_touch_canon
      | with_reducible apply State_setXcache_canon | with_reducible apply foldl_canon | split)

theorem State_closeMove_canon (s : State) (t : Nat) (h_s : State.Canonical s) : State.Canonical (State.closeMove s t) := by
  unfold State.closeMove
  repeat' (first
      | with_reducible assumption | dsimp only | with_reducible refine @ite_canon _ _ _ _ ?_ ?_
      | with_reducible apply State_updCore_canon)

theorem State_enter_canon (s0 : State) (t : Nat) (e : Exc) (q : Pos) (h_s0 : State.Canonical s0) : State.Canonical (State.enter s0 t e q) := by
  unfold State.enter
  repeat' (first
      | with_reducible assumption | dsimp only | with_reducible refine @ite_canon _ _ _ _ ?_ ?_
      | with_reducible apply State_setThr_canon | with_reducible apply State_raiseCore_canon
      | with_reducible apply State_haltPins_canon | with_reducible apply State_closeMove_canon)

theorem State_takeExc_canon (s : State) (t : Nat) (e : Exc) (q : Pos) (h_s : State.Canonical s) : State.Canonical (State.takeExc s t e q) := by
  unfold State.takeExc
  repeat' (first
      | with_reducible assumption | with_reducible refine @ite_canon _ _ _ _ ?_ ?_ | with_reducible apply State_updThr_canon
      | with_reducible apply State_enter_canon)

theorem State_tryEnter_canon (s : State) (t : Nat) (h_s : State.Canonical s) : State.Canonical (State.tryEnter s t) := by
  unfold State.tryEnter
  repeat' (first
      | with_reducible assumption | with_reducible refine @ite_canon _ _ _ _ ?_ ?_ | with_reducible apply State_enter_canon
      | split)

theorem State_frame_canon (s : State) (p : Nat) (f : Flit) (nak : Bool) (h_s : State.Canonical s) : State.Canonical (State.frame s p f nak) := by
  unfold State.frame
  repeat' (first
      | with_reducible assumption | dsimp only | with_reducible apply State_setPort_canon
      | with_reducible apply State_emit_canon)

theorem State_drainHalf_canon (s : State) (p k : Nat) (h_s : State.Canonical s) (n__ : Nat) : State.Canonical ((State.drainHalf s p k) n__) := by
  induction n__ generalizing s p k with
  | zero =>
    unfold State.drainHalf
    repeat' (first
        | with_reducible assumption)
  | succ n__ ih =>
    unfold State.drainHalf
    repeat' (first
        | with_reducible apply ih | with_reducible assumption | with_reducible apply State_setPort_canon
        | with_reducible apply State_frame_canon | split)

theorem State_drainPort_canon (s : State) (p : Nat) (h_s : State.Canonical s) : State.Canonical (State.drainPort s p) := by
  unfold State.drainPort
  repeat' (first
      | with_reducible assumption | with_reducible intro _ | with_reducible apply State_drainHalf_canon
      | with_reducible apply foldl_canon)

theorem State_route_canon (s : State) (m : LinkMsg) (h : Nat) (h_s : State.Canonical s) : State.Canonical (State.route s m h) := by
  unfold State.route
  repeat' (first
      | with_reducible assumption | dsimp only | with_reducible apply State_updPort_canon
      | with_reducible apply State_drainPort_canon)

theorem State_request_canon (s : State) (kind : RemKind) (op addr nslot : Nat) (x : Acs) (arg : Word) (data : List Granule) (h_s : State.Canonical s) : State.Canonical (State.request s kind op addr nslot x arg data) := by
  unfold State.request
  repeat' (first
      | with_reducible assumption | dsimp only | with_reducible refine @ite_canon _ _ _ _ ?_ ?_
      | with_reducible apply State_route_canon
      | (fail_if_no_progress (with_reducible apply canon_mk; with_reducible apply Canon3.of)))

theorem State_remoteRead_canon (s : State) (kind : RemKind) (addr n : Nat) (x : Acs) (h_s : State.Canonical s) : State.Canonical (State.remoteRead s kind addr n x) := by
  unfold State.remoteRead
  repeat' (first
      | with_reducible assumption | with_reducible apply State_request_canon)

theorem State_remoteBlock_canon (s : State) (kind : RemKind) (addr : Nat) (bs : List Byte) (x : Acs) (poison : Nat → Bool) (h_s : State.Canonical s) : State.Canonical (State.remoteBlock s kind addr bs x poison) := by
  unfold State.remoteBlock
  repeat' (first
      | with_reducible assumption | dsimp only | with_reducible apply State_request_canon)

theorem State_remoteWrite_canon (s : State) (kind : RemKind) (addr : Nat) (bs : List Byte) (x : Acs) (poison : Nat → Bool) (h_s : State.Canonical s) : State.Canonical (State.remoteWrite s kind addr bs x poison) := by
  unfold State.remoteWrite
  repeat' (first
      | with_reducible assumption | dsimp only | with_reducible intro _ | with_reducible apply State_remoteBlock_canon
      | with_reducible apply foldl_canon)

theorem State_put_canon (s : State) (kind : RemKind) (pa : Nat) (bs : List Byte) (x : Acs) (poison : Nat → Bool) (h_s : State.Canonical s) : State.Canonical (State.put s kind pa bs x poison) := by
  unfold State.put
  repeat' (first
      | with_reducible assumption | dsimp only | with_reducible refine @ite_canon _ _ _ _ ?_ ?_ | with_reducible intro _
      | with_reducible apply State_raise_canon | with_reducible apply State_store_canon
      | with_reducible apply State_hostStore_canon | with_reducible apply State_remoteWrite_canon
      | with_reducible apply foldl_canon | split)

theorem State_setCentry_canon (s : State) (c : Nat) (data : Bool) (e : Nat) (x : CEntry) (h_s : State.Canonical s) : State.Canonical (State.setCentry s c data e x) := by
  unfold State.setCentry
  repeat' (first
      | with_reducible assumption | dsimp only | with_reducible apply State_updCore_canon)

theorem State_writeBack_canon (s : State) (c : Nat) (cls : Cls) (e : Nat) (h_s : State.Canonical s) : State.Canonical (State.writeBack s c cls e) := by
  unfold State.writeBack
  repeat' (first
      | with_reducible assumption | dsimp only | with_reducible refine @ite_canon _ _ _ _ ?_ ?_
      | with_reducible apply State_raiseCore_canon | with_reducible apply State_put_canon | split)

theorem State_cleanLine_canon (s : State) (c : Nat) (cls : Cls) (e : Nat) (h_s : State.Canonical s) : State.Canonical (State.cleanLine s c cls e) := by
  unfold State.cleanLine
  repeat' (first
      | with_reducible assumption | dsimp only | with_reducible refine @ite_canon _ _ _ _ ?_ ?_
      | with_reducible apply State_setCentry_canon | with_reducible apply State_writeBack_canon | split)

theorem State_cleanAll_canon (s : State) (c : Nat) (cls : Cls) (h_s : State.Canonical s) : State.Canonical (State.cleanAll s c cls) := by
  unfold State.cleanAll
  repeat' (first
      | with_reducible assumption | with_reducible intro _ | with_reducible apply State_cleanLine_canon
      | with_reducible apply foldl_canon)

theorem State_startFill_canon (s : State) (c : Nat) (data : Bool) (m : Miss) (h_s : State.Canonical s) : State.Canonical (State.startFill s c data m) := by
  unfold State.startFill
  repeat' (first
      | with_reducible assumption | dsimp only | with_reducible refine @ite_canon _ _ _ _ ?_ ?_
      | with_reducible apply State_updCore_canon | with_reducible apply State_send_canon
      | with_reducible apply State_remoteRead_canon | with_reducible apply State_writeBack_canon | split)

theorem State_want_canon (s : State) (c : Nat) (data : Bool) (m : Miss) (h_s : State.Canonical s) : State.Canonical (State.want s c data m) := by
  unfold State.want
  repeat' (first
      | with_reducible assumption | dsimp only | with_reducible refine @ite_canon _ _ _ _ ?_ ?_
      | with_reducible apply State_setCentry_canon | with_reducible apply State_startFill_canon | split)

theorem State_demand_canon (s : State) (c : Nat) (data : Bool) (m : Miss) (h_s : State.Canonical s) : State.Canonical (State.demand s c data m) := by
  unfold State.demand
  repeat' (first
      | with_reducible assumption | dsimp only | with_reducible refine @ite_canon _ _ _ _ ?_ ?_
      | with_reducible apply State_want_canon)

theorem State_lookup_canon (s : State) (c : Nat) (data : Bool) (la w0 w1 : Nat) (h_s : State.Canonical s) : State.Canonical (State.lookup s c data la w0 w1).2 := by
  unfold State.lookup
  repeat' (first
      | with_reducible assumption | dsimp only | with_reducible refine @ite_canon _ _ _ _ ?_ ?_
      | with_reducible refine @ite_canon_snd _ _ _ _ _ ?_ ?_ | with_reducible apply State_raiseCore_canon
      | with_reducible apply State_setCentry_canon | split)

theorem State_settle_canon (s : State) (t : Nat) (h_s : State.Canonical s) : State.Canonical (State.settle s t) := by
  unfold State.settle
  repeat' (first
      | with_reducible assumption | with_reducible apply State_updThr_canon | with_reducible apply State_tryEnter_canon)

theorem State_fillThread_canon (s : State) (t la : Nat) (d : BitVec 2048) (stores : List LineStore) (poison : List Bool) (h_s : State.Canonical s) : State.Canonical (State.fillThread s t la d stores poison) := by
  unfold State.fillThread
  repeat' (first
      | with_reducible assumption | dsimp only | with_reducible apply State_setThr_canon
      | with_reducible apply State_takeExc_canon | with_reducible apply State_settle_canon | split)

theorem State_fillFetch_canon (s : State) (t : Nat) (pc : Word) (poison : List Bool) (h_s : State.Canonical s) : State.Canonical (State.fillFetch s t pc poison) := by
  unfold State.fillFetch
  repeat' (first
      | with_reducible assumption | dsimp only | with_reducible refine @ite_canon _ _ _ _ ?_ ?_
      | with_reducible apply State_setThr_canon | with_reducible apply State_takeExc_canon)

theorem State_retryMisses_canon (s : State) (c : Nat) (data : Bool) (h_s : State.Canonical s) : State.Canonical (State.retryMisses s c data) := by
  unfold State.retryMisses
  repeat' (first
      | with_reducible assumption | dsimp only | with_reducible intro _ | with_reducible apply State_updCore_canon
      | with_reducible apply State_want_canon | with_reducible apply foldl_canon)

theorem State_fill_canon (s : State) (c : Nat) (data : Bool) (e : Nat) (err : CacheErr) (h_s : State.Canonical s) : State.Canonical (State.fill s c data e err) := by
  unfold State.fill
  repeat' (first
      | with_reducible assumption | dsimp only | with_reducible refine @ite_canon _ _ _ _ ?_ ?_ | with_reducible intro _
      | with_reducible apply State_touch_canon | with_reducible apply State_put_canon
      | with_reducible apply State_setCentry_canon | with_reducible apply State_fillThread_canon
      | with_reducible apply State_fillFetch_canon | with_reducible apply State_retryMisses_canon
      | with_reducible apply foldl_canon | split)

theorem State_scalarAnswer_canon (s : State) (t : Nat) (p : Pend) (off size : Nat) (sx : Bool) (a : Answer) (h_s : State.Canonical s) : State.Canonical (State.scalarAnswer s t p off size sx a) := by
  unfold State.scalarAnswer
  repeat' (first
      | with_reducible assumption | dsimp only | with_reducible refine @ite_canon _ _ _ _ ?_ ?_
      | with_reducible apply State_setThr_canon | with_reducible apply State_takeExc_canon
      | with_reducible apply State_settle_canon)

theorem State_vectorAnswer_canon (s : State) (t : Nat) (p : Pend) (f : FarPart) (a : Answer) (h_s : State.Canonical s) : State.Canonical (State.vectorAnswer s t p f a) := by
  unfold State.vectorAnswer
  repeat' (first
      | with_reducible assumption | dsimp only | with_reducible apply State_setThr_canon
      | with_reducible apply State_settle_canon)

theorem State_threadAnswer_canon (s : State) (t : Nat) (host : Bool) (tag addr : Nat) (a : Answer) (h_s : State.Canonical s) : State.Canonical (State.threadAnswer s t host tag addr a) := by
  unfold State.threadAnswer
  repeat' (first
      | with_reducible assumption | dsimp only | with_reducible apply State_setThr_canon
      | with_reducible apply State_scalarAnswer_canon | with_reducible apply State_vectorAnswer_canon | split)

theorem State_pelAnswer_canon (s : State) (t addr : Nat) (a : Answer) (h_s : State.Canonical s) : State.Canonical (State.pelAnswer s t addr a) := by
  unfold State.pelAnswer
  repeat' (first
      | with_reducible assumption | with_reducible apply State_updTree_canon)

theorem State_poisonLoads_canon (s : State) (t g : Nat) (h_s : State.Canonical s) : State.Canonical (State.poisonLoads s t g) := by
  unfold State.poisonLoads
  repeat' (first
      | with_reducible assumption | dsimp only | with_reducible refine @ite_canon _ _ _ _ ?_ ?_
      | with_reducible apply State_setThr_canon | with_reducible apply State_takeExc_canon | split)

theorem State_fetchFar_canon (s : State) (t addr o : Nat) (send : State → State) (h_s : State.Canonical s) (h_send : ∀ s, State.Canonical s → State.Canonical (send s)) : State.Canonical (State.fetchFar s t addr o send).2 := by
  unfold State.fetchFar
  repeat' (first
      | with_reducible assumption | dsimp only | with_reducible refine @ite_canon_snd _ _ _ _ _ ?_ ?_
      | with_reducible apply State_updThr_canon | with_reducible apply h_send | split)

theorem State_fetchPast_canon (s : State) (t : Nat) (leaf : Word) (pa : Nat) (h_s : State.Canonical s) : State.Canonical (State.fetchPast s t leaf pa).2 := by
  unfold State.fetchPast
  repeat' (first
      | with_reducible assumption | dsimp only | with_reducible refine @ite_canon_snd _ _ _ _ _ ?_ ?_
      | with_reducible intro _ | with_reducible apply State_touch_canon | with_reducible apply State_hostLoad_canon
      | with_reducible apply State_hostBme_canon | with_reducible apply State_remoteRead_canon
      | with_reducible apply State_fetchFar_canon | split)

theorem State_fetch_canon (s : State) (t : Nat) (h_s : State.Canonical s) : State.Canonical (State.fetch s t).2 := by
  unfold State.fetch
  repeat' (first
      | with_reducible assumption | dsimp only | with_reducible refine @ite_canon_snd _ _ _ _ _ ?_ ?_
      | with_reducible apply State_updThr_canon | with_reducible apply State_xlatNote_canon
      | with_reducible apply State_demand_canon | with_reducible apply State_lookup_canon
      | with_reducible apply State_fetchPast_canon | split)

theorem State_deliver_canon (s : State) (t : Nat) (h_s : State.Canonical s) : State.Canonical (State.deliver s t) := by
  unfold State.deliver
  repeat' (first
      | with_reducible assumption | dsimp only | with_reducible refine @ite_canon _ _ _ _ ?_ ?_
      | with_reducible apply State_takeExc_canon)

theorem State_finish_canon (t : Nat) (q : Pos) (a : Act) (h : a.Canon) : State.Canonical (State.finish t q a) := by
  cases a with
  | retire s => exact State_updThr_canon _ _ _ h
  | shadow s v => exact State_updThr_canon _ _ _ h
  | branch s v => exact State_updThr_canon _ _ _ h
  | goto s v => exact State_updThr_canon _ _ _ h
  | leap s v => exact State_updThr_canon _ _ _ h
  | deliver s => exact State_deliver_canon _ _ (State_updThr_canon _ _ _ h)
  | part s => exact State_updThr_canon _ _ _ h
  | exc s e => exact State_takeExc_canon _ _ _ _ h
  | hold s => exact h

theorem State_issueWith_canon (s : State) (t : Nat) (cond : BitVec 4) (legal branchLike : Bool) (skip body : State → Act) (h_s : State.Canonical s) (h_skip : ∀ s, State.Canonical s → (skip s).Canon) (h_body : ∀ s, State.Canonical s → (body s).Canon) : State.Canonical (State.issueWith s t cond legal branchLike skip body) := by
  unfold State.issueWith
  repeat' (first
      | with_reducible assumption | dsimp only | with_reducible refine @ite_canon _ _ _ _ ?_ ?_
      | with_reducible apply State_takeExc_canon | with_reducible apply State_fetch_canon
      | with_reducible apply State_finish_canon | with_reducible apply h_skip | with_reducible apply h_body | split)

theorem State_issue_canon (s : State) (t : Nat) (cond : BitVec 4) (legal : Bool) (body : State → Act) (h_s : State.Canonical s) (h_body : ∀ s, State.Canonical s → (body s).Canon) : State.Canonical (State.issue s t cond legal body) := by
  unfold State.issue
  repeat' (first
      | with_reducible assumption | with_reducible intro _ | with_reducible apply actRetire
      | with_reducible apply State_issueWith_canon)

theorem State_issueThr_canon (s : State) (t : Nat) (cond : BitVec 4) (legal : Bool) (f : Thread → Thread) (h_s : State.Canonical s) : State.Canonical (State.issueThr s t cond legal f) := by
  unfold State.issueThr
  repeat' (first
      | with_reducible assumption | with_reducible intro _ | with_reducible apply actRetire
      | with_reducible apply State_updThr_canon | with_reducible apply State_issue_canon)

theorem State_dataXlat_canon (s : State) (t : Nat) (k : Access) (va : Word) (h_s : State.Canonical s) : State.Canonical (State.dataXlat s t k va).2 := by
  unfold State.dataXlat
  repeat' (first
      | with_reducible assumption | dsimp only | with_reducible apply State_updThr_canon
      | with_reducible apply State_xlatNote_canon | split)

theorem State_aluReg_canon (s : State) (op : Alu) (t : Nat) (cond : BitVec 4) (f : Body) (h_s : State.Canonical s) : State.Canonical (State.aluReg s op t cond f) := by
  unfold State.aluReg
  repeat' (first
      | with_reducible assumption | with_reducible apply State_issueThr_canon)

theorem State_aluImm_canon (s : State) (op : Alu) (t : Nat) (cond : BitVec 4) (f : Body) (h_s : State.Canonical s) : State.Canonical (State.aluImm s op t cond f) := by
  unfold State.aluImm
  repeat' (first
      | with_reducible assumption | with_reducible apply State_issueThr_canon)

theorem execAdd_canon (t : ThreadId) (cond : BitVec 4) (f : BitVec 52) (s : State) (h_s : State.Canonical s) : ResCanon (execAdd t cond f s) := by
  unfold execAdd
  repeat' (first
      | with_reducible assumption | with_reducible apply resNext | with_reducible apply State_aluReg_canon)

theorem execSub_canon (t : ThreadId) (cond : BitVec 4) (f : BitVec 52) (s : State) (h_s : State.Canonical s) : ResCanon (execSub t cond f s) := by
  unfold execSub
  repeat' (first
      | with_reducible assumption | with_reducible apply resNext | with_reducible apply State_aluReg_canon)

theorem execAnd_canon (t : ThreadId) (cond : BitVec 4) (f : BitVec 52) (s : State) (h_s : State.Canonical s) : ResCanon (execAnd t cond f s) := by
  unfold execAnd
  repeat' (first
      | with_reducible assumption | with_reducible apply resNext | with_reducible apply State_aluReg_canon)

theorem execOr_canon (t : ThreadId) (cond : BitVec 4) (f : BitVec 52) (s : State) (h_s : State.Canonical s) : ResCanon (execOr t cond f s) := by
  unfold execOr
  repeat' (first
      | with_reducible assumption | with_reducible apply resNext | with_reducible apply State_aluReg_canon)

theorem execXor_canon (t : ThreadId) (cond : BitVec 4) (f : BitVec 52) (s : State) (h_s : State.Canonical s) : ResCanon (execXor t cond f s) := by
  unfold execXor
  repeat' (first
      | with_reducible assumption | with_reducible apply resNext | with_reducible apply State_aluReg_canon)

theorem execAndn_canon (t : ThreadId) (cond : BitVec 4) (f : BitVec 52) (s : State) (h_s : State.Canonical s) : ResCanon (execAndn t cond f s) := by
  unfold execAndn
  repeat' (first
      | with_reducible assumption | with_reducible apply resNext | with_reducible apply State_aluReg_canon)

theorem execSll_canon (t : ThreadId) (cond : BitVec 4) (f : BitVec 52) (s : State) (h_s : State.Canonical s) : ResCanon (execSll t cond f s) := by
  unfold execSll
  repeat' (first
      | with_reducible assumption | with_reducible apply resNext | with_reducible apply State_aluReg_canon)

theorem execSrl_canon (t : ThreadId) (cond : BitVec 4) (f : BitVec 52) (s : State) (h_s : State.Canonical s) : ResCanon (execSrl t cond f s) := by
  unfold execSrl
  repeat' (first
      | with_reducible assumption | with_reducible apply resNext | with_reducible apply State_aluReg_canon)

theorem execSra_canon (t : ThreadId) (cond : BitVec 4) (f : BitVec 52) (s : State) (h_s : State.Canonical s) : ResCanon (execSra t cond f s) := by
  unfold execSra
  repeat' (first
      | with_reducible assumption | with_reducible apply resNext | with_reducible apply State_aluReg_canon)

theorem execRor_canon (t : ThreadId) (cond : BitVec 4) (f : BitVec 52) (s : State) (h_s : State.Canonical s) : ResCanon (execRor t cond f s) := by
  unfold execRor
  repeat' (first
      | with_reducible assumption | with_reducible apply resNext | with_reducible apply State_aluReg_canon)

theorem execMin_canon (t : ThreadId) (cond : BitVec 4) (f : BitVec 52) (s : State) (h_s : State.Canonical s) : ResCanon (execMin t cond f s) := by
  unfold execMin
  repeat' (first
      | with_reducible assumption | with_reducible apply resNext | with_reducible apply State_aluReg_canon)

theorem execMax_canon (t : ThreadId) (cond : BitVec 4) (f : BitVec 52) (s : State) (h_s : State.Canonical s) : ResCanon (execMax t cond f s) := by
  unfold execMax
  repeat' (first
      | with_reducible assumption | with_reducible apply resNext | with_reducible apply State_aluReg_canon)

theorem execMinu_canon (t : ThreadId) (cond : BitVec 4) (f : BitVec 52) (s : State) (h_s : State.Canonical s) : ResCanon (execMinu t cond f s) := by
  unfold execMinu
  repeat' (first
      | with_reducible assumption | with_reducible apply resNext | with_reducible apply State_aluReg_canon)

theorem execMaxu_canon (t : ThreadId) (cond : BitVec 4) (f : BitVec 52) (s : State) (h_s : State.Canonical s) : ResCanon (execMaxu t cond f s) := by
  unfold execMaxu
  repeat' (first
      | with_reducible assumption | with_reducible apply resNext | with_reducible apply State_aluReg_canon)

theorem execAddi_canon (t : ThreadId) (cond : BitVec 4) (f : BitVec 52) (s : State) (h_s : State.Canonical s) : ResCanon (execAddi t cond f s) := by
  unfold execAddi
  repeat' (first
      | with_reducible assumption | with_reducible apply resNext | with_reducible apply State_aluImm_canon)

theorem execSubi_canon (t : ThreadId) (cond : BitVec 4) (f : BitVec 52) (s : State) (h_s : State.Canonical s) : ResCanon (execSubi t cond f s) := by
  unfold execSubi
  repeat' (first
      | with_reducible assumption | with_reducible apply resNext | with_reducible apply State_aluImm_canon)

theorem execAndi_canon (t : ThreadId) (cond : BitVec 4) (f : BitVec 52) (s : State) (h_s : State.Canonical s) : ResCanon (execAndi t cond f s) := by
  unfold execAndi
  repeat' (first
      | with_reducible assumption | with_reducible apply resNext | with_reducible apply State_aluImm_canon)

theorem execOri_canon (t : ThreadId) (cond : BitVec 4) (f : BitVec 52) (s : State) (h_s : State.Canonical s) : ResCanon (execOri t cond f s) := by
  unfold execOri
  repeat' (first
      | with_reducible assumption | with_reducible apply resNext | with_reducible apply State_aluImm_canon)

theorem execXori_canon (t : ThreadId) (cond : BitVec 4) (f : BitVec 52) (s : State) (h_s : State.Canonical s) : ResCanon (execXori t cond f s) := by
  unfold execXori
  repeat' (first
      | with_reducible assumption | with_reducible apply resNext | with_reducible apply State_aluImm_canon)

theorem execAndni_canon (t : ThreadId) (cond : BitVec 4) (f : BitVec 52) (s : State) (h_s : State.Canonical s) : ResCanon (execAndni t cond f s) := by
  unfold execAndni
  repeat' (first
      | with_reducible assumption | with_reducible apply resNext | with_reducible apply State_aluImm_canon)

theorem execSlli_canon (t : ThreadId) (cond : BitVec 4) (f : BitVec 52) (s : State) (h_s : State.Canonical s) : ResCanon (execSlli t cond f s) := by
  unfold execSlli
  repeat' (first
      | with_reducible assumption | with_reducible apply resNext | with_reducible apply State_aluImm_canon)

theorem execSrli_canon (t : ThreadId) (cond : BitVec 4) (f : BitVec 52) (s : State) (h_s : State.Canonical s) : ResCanon (execSrli t cond f s) := by
  unfold execSrli
  repeat' (first
      | with_reducible assumption | with_reducible apply resNext | with_reducible apply State_aluImm_canon)

theorem execSrai_canon (t : ThreadId) (cond : BitVec 4) (f : BitVec 52) (s : State) (h_s : State.Canonical s) : ResCanon (execSrai t cond f s) := by
  unfold execSrai
  repeat' (first
      | with_reducible assumption | with_reducible apply resNext | with_reducible apply State_aluImm_canon)

theorem execRori_canon (t : ThreadId) (cond : BitVec 4) (f : BitVec 52) (s : State) (h_s : State.Canonical s) : ResCanon (execRori t cond f s) := by
  unfold execRori
  repeat' (first
      | with_reducible assumption | with_reducible apply resNext | with_reducible apply State_aluImm_canon)

theorem execMini_canon (t : ThreadId) (cond : BitVec 4) (f : BitVec 52) (s : State) (h_s : State.Canonical s) : ResCanon (execMini t cond f s) := by
  unfold execMini
  repeat' (first
      | with_reducible assumption | with_reducible apply resNext | with_reducible apply State_aluImm_canon)

theorem execMaxi_canon (t : ThreadId) (cond : BitVec 4) (f : BitVec 52) (s : State) (h_s : State.Canonical s) : ResCanon (execMaxi t cond f s) := by
  unfold execMaxi
  repeat' (first
      | with_reducible assumption | with_reducible apply resNext | with_reducible apply State_aluImm_canon)

theorem execMinui_canon (t : ThreadId) (cond : BitVec 4) (f : BitVec 52) (s : State) (h_s : State.Canonical s) : ResCanon (execMinui t cond f s) := by
  unfold execMinui
  repeat' (first
      | with_reducible assumption | with_reducible apply resNext | with_reducible apply State_aluImm_canon)

theorem execMaxui_canon (t : ThreadId) (cond : BitVec 4) (f : BitVec 52) (s : State) (h_s : State.Canonical s) : ResCanon (execMaxui t cond f s) := by
  unfold execMaxui
  repeat' (first
      | with_reducible assumption | with_reducible apply resNext | with_reducible apply State_aluImm_canon)

theorem execCmp_canon (t : ThreadId) (cond : BitVec 4) (f : BitVec 52) (s : State) (h_s : State.Canonical s) : ResCanon (execCmp t cond f s) := by
  unfold execCmp
  repeat' (first
      | with_reducible assumption | with_reducible apply resNext | with_reducible apply State_issueThr_canon)

theorem execCmpi_canon (t : ThreadId) (cond : BitVec 4) (f : BitVec 52) (s : State) (h_s : State.Canonical s) : ResCanon (execCmpi t cond f s) := by
  unfold execCmpi
  repeat' (first
      | with_reducible assumption | with_reducible apply resNext | with_reducible apply State_issueThr_canon)

theorem execPopc_canon (t : ThreadId) (cond : BitVec 4) (f : BitVec 52) (s : State) (h_s : State.Canonical s) : ResCanon (execPopc t cond f s) := by
  unfold execPopc
  repeat' (first
      | with_reducible assumption | with_reducible apply resNext | with_reducible apply State_issueThr_canon)

theorem execMovi_canon (t : ThreadId) (cond : BitVec 4) (f : BitVec 52) (s : State) (h_s : State.Canonical s) : ResCanon (execMovi t cond f s) := by
  unfold execMovi
  repeat' (first
      | with_reducible assumption | with_reducible apply resNext | with_reducible apply State_issueThr_canon)

theorem execMovhi_canon (t : ThreadId) (cond : BitVec 4) (f : BitVec 52) (s : State) (h_s : State.Canonical s) : ResCanon (execMovhi t cond f s) := by
  unfold execMovhi
  repeat' (first
      | with_reducible assumption | with_reducible apply resNext | with_reducible apply State_issueThr_canon)

theorem execMul_canon (t : ThreadId) (cond : BitVec 4) (f : BitVec 52) (s : State) (h_s : State.Canonical s) : ResCanon (execMul t cond f s) := by
  unfold execMul
  repeat' (first
      | with_reducible assumption | with_reducible apply resNext | with_reducible apply State_issueThr_canon)

theorem execMulh_canon (t : ThreadId) (cond : BitVec 4) (f : BitVec 52) (s : State) (h_s : State.Canonical s) : ResCanon (execMulh t cond f s) := by
  unfold execMulh
  repeat' (first
      | with_reducible assumption | with_reducible apply resNext | with_reducible apply State_issueThr_canon)

theorem execMfs_canon (t : ThreadId) (cond : BitVec 4) (f : BitVec 52) (s : State) (h_s : State.Canonical s) : ResCanon (execMfs t cond f s) := by
  unfold execMfs
  repeat' (first
      | with_reducible assumption | dsimp only | with_reducible refine @ite_canon_act _ _ _ _ ?_ ?_ | with_reducible intro _
      | with_reducible apply actRetire | with_reducible apply actExc | with_reducible apply resNext
      | with_reducible apply State_setThr_canon | with_reducible apply State_issue_canon)

theorem execMts_canon (t : ThreadId) (cond : BitVec 4) (f : BitVec 52) (s : State) (h_s : State.Canonical s) : ResCanon (execMts t cond f s) := by
  unfold execMts
  repeat' (first
      | with_reducible assumption | dsimp only | with_reducible refine @ite_canon_act _ _ _ _ ?_ ?_ | with_reducible intro _
      | with_reducible apply actRetire | with_reducible apply actExc | with_reducible apply actShadow
      | with_reducible apply resNext | with_reducible apply State_setThr_canon | with_reducible apply State_issue_canon)

theorem State_issueBranch_canon (s : State) (t : Nat) (cond : BitVec 4) (legal : Bool) (body : State → Act) (h_s : State.Canonical s) (h_body : ∀ s, State.Canonical s → (body s).Canon) : State.Canonical (State.issueBranch s t cond legal body) := by
  unfold State.issueBranch
  repeat' (first
      | with_reducible assumption | with_reducible intro _ | with_reducible apply actBranch
      | with_reducible apply State_issueWith_canon)

theorem execB_canon (t : ThreadId) (cond : BitVec 4) (f : BitVec 52) (s : State) (h_s : State.Canonical s) : ResCanon (execB t cond f s) := by
  unfold execB
  repeat' (first
      | with_reducible assumption | with_reducible intro _ | with_reducible apply actBranch | with_reducible apply resNext
      | with_reducible apply State_issueBranch_canon)

theorem execBl_canon (t : ThreadId) (cond : BitVec 4) (f : BitVec 52) (s : State) (h_s : State.Canonical s) : ResCanon (execBl t cond f s) := by
  unfold execBl
  repeat' (first
      | with_reducible assumption | dsimp only | with_reducible intro _ | with_reducible apply actBranch
      | with_reducible apply resNext | with_reducible apply State_setThr_canon | with_reducible apply State_issueBranch_canon)

theorem execJr_canon (t : ThreadId) (cond : BitVec 4) (f : BitVec 52) (s : State) (h_s : State.Canonical s) : ResCanon (execJr t cond f s) := by
  unfold execJr
  repeat' (first
      | with_reducible assumption | dsimp only | with_reducible refine @ite_canon_act _ _ _ _ ?_ ?_ | with_reducible intro _
      | with_reducible apply actExc | with_reducible apply actBranch | with_reducible apply resNext
      | with_reducible apply State_issueBranch_canon)

theorem execJlr_canon (t : ThreadId) (cond : BitVec 4) (f : BitVec 52) (s : State) (h_s : State.Canonical s) : ResCanon (execJlr t cond f s) := by
  unfold execJlr
  repeat' (first
      | with_reducible assumption | dsimp only | with_reducible refine @ite_canon_act _ _ _ _ ?_ ?_ | with_reducible intro _
      | with_reducible apply actExc | with_reducible apply actBranch | with_reducible apply resNext
      | with_reducible apply State_setThr_canon | with_reducible apply State_issueBranch_canon)

theorem execRpt_canon (t : ThreadId) (cond : BitVec 4) (f : BitVec 52) (s : State) (h_s : State.Canonical s) : ResCanon (execRpt t cond f s) := by
  unfold execRpt
  repeat' (first
      | with_reducible assumption | dsimp only | with_reducible refine @ite_canon_act _ _ _ _ ?_ ?_ | with_reducible intro _
      | with_reducible apply actRetire | with_reducible apply actGoto | with_reducible apply resNext
      | with_reducible apply State_setThr_canon | with_reducible apply State_issueWith_canon)

theorem execSyscall_canon (t : ThreadId) (cond : BitVec 4) (f : BitVec 52) (s : State) (h_s : State.Canonical s) : ResCanon (execSyscall t cond f s) := by
  unfold execSyscall
  repeat' (first
      | with_reducible assumption | dsimp only | with_reducible refine @ite_canon_act _ _ _ _ ?_ ?_ | with_reducible intro _
      | with_reducible apply actRetire | with_reducible apply actExc | with_reducible apply actLeap
      | with_reducible apply resNext | with_reducible apply State_setThr_canon | with_reducible apply State_issueWith_canon)

theorem State_returnFrom_canon (s : State) (t : Nat) (h_s : State.Canonical s) : (State.returnFrom s t).Canon := by
  unfold State.returnFrom
  repeat' (first
      | with_reducible assumption | dsimp only | with_reducible refine @ite_canon_act _ _ _ _ ?_ ?_
      | with_reducible apply actExc | with_reducible apply actLeap | with_reducible apply State_setThr_canon)

theorem execSysret_canon (t : ThreadId) (cond : BitVec 4) (f : BitVec 52) (s : State) (h_s : State.Canonical s) : ResCanon (execSysret t cond f s) := by
  unfold execSysret
  repeat' (first
      | with_reducible assumption | with_reducible refine @ite_canon_act _ _ _ _ ?_ ?_ | with_reducible intro _
      | with_reducible apply actRetire | with_reducible apply actExc | with_reducible apply resNext
      | with_reducible apply State_issueWith_canon | with_reducible apply State_returnFrom_canon)

theorem execXret_canon (t : ThreadId) (cond : BitVec 4) (f : BitVec 52) (s : State) (h_s : State.Canonical s) : ResCanon (execXret t cond f s) := by
  unfold execXret
  repeat' (first
      | with_reducible assumption | with_reducible intro _ | with_reducible apply actRetire | with_reducible apply resNext
      | with_reducible apply State_issueWith_canon | with_reducible apply State_returnFrom_canon)

theorem execBrk_canon (t : ThreadId) (cond : BitVec 4) (f : BitVec 52) (s : State) (h_s : State.Canonical s) : ResCanon (execBrk t cond f s) := by
  unfold execBrk
  repeat' (first
      | with_reducible assumption | with_reducible intro _ | with_reducible apply actExc | with_reducible apply resNext
      | with_reducible apply State_issue_canon)

theorem State_semSend_canon (s : State) (r : SemReq) (h_s : State.Canonical s) : State.Canonical (State.semSend s r) := by
  unfold State.semSend
  repeat' (first
      | with_reducible assumption | (fail_if_no_progress (with_reducible apply canon_mk; with_reducible apply Canon3.of)))

theorem State_signal_canon (s : State) (who sem v : Nat) (behind : List Nat) (h_s : State.Canonical s) : State.Canonical (State.signal s who sem v behind) := by
  unfold State.signal
  repeat' (first
      | with_reducible assumption | with_reducible apply State_semSend_canon)

theorem State_sendTake_canon (s : State) (t : Nat) (w : WaitRec) (h_s : State.Canonical s) : State.Canonical (State.sendTake s t w) := by
  unfold State.sendTake
  repeat' (first
      | with_reducible assumption | with_reducible apply State_updThr_canon | with_reducible apply State_semSend_canon)

theorem execWait_canon (t : ThreadId) (cond : BitVec 4) (f : BitVec 52) (s : State) (h_s : State.Canonical s) : ResCanon (execWait t cond f s) := by
  unfold execWait
  repeat' (first
      | with_reducible assumption | dsimp only | with_reducible refine @ite_canon_act _ _ _ _ ?_ ?_ | with_reducible intro _
      | with_reducible apply actRetire | with_reducible apply actHold | with_reducible apply resNext
      | with_reducible apply State_updThr_canon | with_reducible apply State_issue_canon
      | with_reducible apply State_sendTake_canon)

theorem State_waitDone_canon (s : State) (t : Nat) (b : Bool) (h_s : State.Canonical s) : State.Canonical (State.waitDone s t b) := by
  unfold State.waitDone
  repeat' (first
      | with_reducible assumption | with_reducible apply State_updThr_canon)

theorem execWaitConditionVisible_canon (t : ThreadId) (s : State) (h_s : State.Canonical s) : ResCanon (execWaitConditionVisible t s) := by
  unfold execWaitConditionVisible
  repeat' (first
      | with_reducible assumption | with_reducible refine @ite_canon _ _ _ _ ?_ ?_ | with_reducible apply resNext
      | with_reducible apply State_sendTake_canon | split)

theorem execWaitTakeReply_canon (t : ThreadId) (s : State) (h_s : State.Canonical s) : ResCanon (execWaitTakeReply t s) := by
  unfold execWaitTakeReply
  repeat' (first
      | with_reducible assumption | dsimp only | with_reducible refine @ite_canon _ _ _ _ ?_ ?_
      | with_reducible apply resNext | with_reducible apply State_updThr_canon | with_reducible apply State_tryEnter_canon
      | with_reducible apply State_waitDone_canon | split
      | (fail_if_no_progress (with_reducible apply canon_mk; with_reducible apply Canon3.of)))

theorem execWaitTimeout_canon (t : ThreadId) (s : State) (h_s : State.Canonical s) : ResCanon (execWaitTimeout t s) := by
  unfold execWaitTimeout
  repeat' (first
      | with_reducible assumption | with_reducible refine @ite_canon _ _ _ _ ?_ ?_ | with_reducible apply resNext
      | with_reducible apply State_updThr_canon | with_reducible apply State_waitDone_canon | split)

theorem State_hqSeek_canon (s : State) (q : Nat) (h_s : State.Canonical s) : State.Canonical (State.hqSeek s q) := by
  unfold State.hqSeek
  repeat' (first
      | with_reducible assumption | with_reducible refine @ite_canon _ _ _ _ ?_ ?_ | with_reducible apply State_semSend_canon
      | split)

theorem State_hqSeekAll_canon (s : State) (h_s : State.Canonical s) : State.Canonical (State.hqSeekAll s) := by
  unfold State.hqSeekAll
  repeat' (first
      | with_reducible assumption | with_reducible intro _ | with_reducible apply State_hqSeek_canon
      | with_reducible apply foldl_canon)

theorem execSig_canon (t : ThreadId) (cond : BitVec 4) (f : BitVec 52) (s : State) (h_s : State.Canonical s) : ResCanon (execSig t cond f s) := by
  unfold execSig
  repeat' (first
      | with_reducible assumption | dsimp only | with_reducible refine @ite_canon_act _ _ _ _ ?_ ?_ | with_reducible intro _
      | with_reducible apply actRetire | with_reducible apply actHold | with_reducible apply resNext
      | with_reducible apply State_cleanAll_canon | with_reducible apply State_issue_canon
      | with_reducible apply State_signal_canon)

theorem execSemrd_canon (t : ThreadId) (cond : BitVec 4) (f : BitVec 52) (s : State) (h_s : State.Canonical s) : ResCanon (execSemrd t cond f s) := by
  unfold execSemrd
  repeat' (first
      | with_reducible assumption | with_reducible intro _ | with_reducible apply actRetire | with_reducible apply resNext
      | with_reducible apply State_updThr_canon | with_reducible apply State_issue_canon
      | with_reducible apply State_semSend_canon)

theorem execSemset_canon (t : ThreadId) (cond : BitVec 4) (f : BitVec 52) (s : State) (h_s : State.Canonical s) : ResCanon (execSemset t cond f s) := by
  unfold execSemset
  repeat' (first
      | with_reducible assumption | with_reducible refine @ite_canon_act _ _ _ _ ?_ ?_ | with_reducible intro _
      | with_reducible apply actRetire | with_reducible apply actExc | with_reducible apply resNext
      | with_reducible apply State_setSem_canon | with_reducible apply State_issue_canon
      | with_reducible apply State_hqSeekAll_canon)

theorem State_addSignals_canon (s : State) (sem : Nat) (l : List SemReq) (h_s : State.Canonical s) : State.Canonical (State.addSignals s sem l) := by
  unfold State.addSignals
  repeat' (first
      | with_reducible assumption | dsimp only | with_reducible refine @ite_canon _ _ _ _ ?_ ?_
      | with_reducible apply State_setSem_canon | with_reducible apply State_raise_canon)

theorem execSemReadApplied_canon (sem : BitVec 14) (n : Nat) (s : State) (h_s : State.Canonical s) : ResCanon (execSemReadApplied sem n s) := by
  unfold execSemReadApplied
  repeat' (first
      | with_reducible assumption | dsimp only | with_reducible apply resNext
      | (fail_if_no_progress (with_reducible apply canon_mk; with_reducible apply Canon3.of)))

theorem execFence_canon (t : ThreadId) (cond : BitVec 4) (f : BitVec 52) (s : State) (h_s : State.Canonical s) : ResCanon (execFence t cond f s) := by
  unfold execFence
  repeat' (first
      | with_reducible assumption | dsimp only | with_reducible refine @ite_canon_act _ _ _ _ ?_ ?_ | with_reducible intro _
      | with_reducible apply actHold | with_reducible apply actDeliver | with_reducible apply resNext
      | with_reducible apply State_cleanAll_canon | with_reducible apply State_issue_canon)

theorem execPrf_canon (t : ThreadId) (cond : BitVec 4) (f : BitVec 52) (s : State) (h_s : State.Canonical s) : ResCanon (execPrf t cond f s) := by
  unfold execPrf
  repeat' (first
      | with_reducible assumption | dsimp only | with_reducible refine @ite_canon_act _ _ _ _ ?_ ?_ | with_reducible intro _
      | with_reducible apply actRetire | with_reducible apply resNext | with_reducible apply State_xlatNote_canon
      | with_reducible apply State_want_canon | with_reducible apply State_issue_canon | split)

theorem State_cmo_canon (s : State) (t : Nat) (cond : BitVec 4) (f : Body) (k : Nat) (data priv : Bool) (op : State → Nat → State) (h_s : State.Canonical s) (h_op : ∀ s n, State.Canonical s → State.Canonical (op s n)) : State.Canonical (State.cmo s t cond f k data priv op) := by
  unfold State.cmo
  repeat' (first
      | with_reducible assumption | dsimp only | with_reducible refine @ite_canon _ _ _ _ ?_ ?_
      | with_reducible refine @ite_canon_act _ _ _ _ ?_ ?_ | with_reducible intro _ | with_reducible apply actRetire
      | with_reducible apply actExc | with_reducible apply State_issue_canon | with_reducible apply State_dataXlat_canon
      | with_reducible apply h_op | split)

theorem State_flushLine_canon (s : State) (c : Nat) (cls : Cls) (e : Nat) (h_s : State.Canonical s) : State.Canonical (State.flushLine s c cls e) := by
  unfold State.flushLine
  repeat' (first
      | with_reducible assumption | with_reducible refine @ite_canon _ _ _ _ ?_ ?_
      | with_reducible apply State_setCentry_canon | with_reducible apply State_cleanLine_canon)

theorem execDcwb_canon (t : ThreadId) (cond : BitVec 4) (f : BitVec 52) (s : State) (h_s : State.Canonical s) : ResCanon (execDcwb t cond f s) := by
  unfold execDcwb
  repeat' (first
      | with_reducible assumption | with_reducible intro _ | with_reducible apply resNext
      | with_reducible apply State_cleanLine_canon | with_reducible apply State_cmo_canon)

theorem execDcwbi_canon (t : ThreadId) (cond : BitVec 4) (f : BitVec 52) (s : State) (h_s : State.Canonical s) : ResCanon (execDcwbi t cond f s) := by
  unfold execDcwbi
  repeat' (first
      | with_reducible assumption | with_reducible intro _ | with_reducible apply resNext
      | with_reducible apply State_cmo_canon | with_reducible apply State_flushLine_canon)

theorem execDcinv_canon (t : ThreadId) (cond : BitVec 4) (f : BitVec 52) (s : State) (h_s : State.Canonical s) : ResCanon (execDcinv t cond f s) := by
  unfold execDcinv
  repeat' (first
      | with_reducible assumption | with_reducible intro _ | with_reducible apply resNext
      | with_reducible apply State_setCentry_canon | with_reducible apply State_cmo_canon)

theorem execIcinv_canon (t : ThreadId) (cond : BitVec 4) (f : BitVec 52) (s : State) (h_s : State.Canonical s) : ResCanon (execIcinv t cond f s) := by
  unfold execIcinv
  repeat' (first
      | with_reducible assumption | with_reducible intro _ | with_reducible apply resNext
      | with_reducible apply State_setCentry_canon | with_reducible apply State_cmo_canon)

theorem State_cmoAll_canon (s : State) (t : Nat) (cond : BitVec 4) (f : Body) (k : Nat) (op : State → State) (h_s : State.Canonical s) (h_op : ∀ s, State.Canonical s → State.Canonical (op s)) : State.Canonical (State.cmoAll s t cond f k op) := by
  unfold State.cmoAll
  repeat' (first
      | with_reducible assumption | with_reducible refine @ite_canon _ _ _ _ ?_ ?_
      | with_reducible refine @ite_canon_act _ _ _ _ ?_ ?_ | with_reducible intro _ | with_reducible apply actRetire
      | with_reducible apply actExc | with_reducible apply State_issue_canon | with_reducible apply h_op)

theorem execIcinvall_canon (t : ThreadId) (cond : BitVec 4) (f : BitVec 52) (s : State) (h_s : State.Canonical s) : ResCanon (execIcinvall t cond f s) := by
  unfold execIcinvall
  repeat' (first
      | with_reducible assumption | with_reducible intro _ | with_reducible apply resNext
      | with_reducible apply State_updCore_canon | with_reducible apply State_cmoAll_canon)

theorem execDcwbiall_canon (t : ThreadId) (cond : BitVec 4) (f : BitVec 52) (s : State) (h_s : State.Canonical s) : ResCanon (execDcwbiall t cond f s) := by
  unfold execDcwbiall
  repeat' (first
      | with_reducible assumption | with_reducible intro _ | with_reducible apply resNext
      | with_reducible apply State_updCore_canon | with_reducible apply State_cleanAll_canon
      | with_reducible apply State_cmoAll_canon)

theorem execCacheFill_canon (c : CoreId) (data : Bool) (e : Fin 48) (err : CacheErr) (s : State) (h_s : State.Canonical s) : ResCanon (execCacheFill c data e err s) := by
  unfold execCacheFill
  repeat' (first
      | with_reducible assumption | with_reducible apply resNext | with_reducible apply State_fill_canon)

theorem State_setFlags_canon (s : State) (t : Nat) (fl : BitVec 7) (h_s : State.Canonical s) : State.Canonical (State.setFlags s t fl) := by
  unfold State.setFlags
  repeat' (first
      | with_reducible assumption | with_reducible apply State_updThr_canon)

theorem State_precise_canon (s : State) (t : Nat) (fl : BitVec 7) (pc : Word) (h_s : State.Canonical s) : State.Canonical (State.precise s t fl pc) := by
  unfold State.precise
  repeat' (first
      | with_reducible assumption | dsimp only | with_reducible refine @ite_canon _ _ _ _ ?_ ?_
      | with_reducible apply State_takeExc_canon)

theorem State_raiseFlags_canon (s : State) (t : Nat) (fl : BitVec 7) (pc : Word) (h_s : State.Canonical s) : State.Canonical (State.raiseFlags s t fl pc) := by
  unfold State.raiseFlags
  repeat' (first
      | with_reducible assumption | with_reducible apply State_setFlags_canon | with_reducible apply State_precise_canon)

theorem execLoadDataReturns_canon (t : ThreadId) (s : State) (h_s : State.Canonical s) : ResCanon (execLoadDataReturns t s) := by
  unfold execLoadDataReturns
  repeat' (first
      | with_reducible assumption | dsimp only | with_reducible apply resNext | with_reducible apply State_setThr_canon
      | with_reducible apply State_settle_canon | with_reducible apply State_setFlags_canon
      | with_reducible apply State_precise_canon | split
      | (fail_if_no_progress (with_reducible apply canon_mk; with_reducible apply Canon3.of)))

end Sys2Proof.Machine
end

