-- ==== Sys2Proof/Laws/CanonicalUnits.lean ====
section
/-! SUPPORT. Every operation and meaning keeps the canonical form: vectors in registers, tiles, arrays, threads, saves, waits, the cadence port, the memory system and Stream Engines. -/

set_option linter.all false
namespace Sys2Proof.Machine

theorem State_issueVec_canon (s : State) (t : Nat) (cond : BitVec 4) (legal : Bool) (work : Thread → List RegWrite × Flg) (h_s : State.Canonical s) : State.Canonical (State.issueVec s t cond legal work) := by
  unfold State.issueVec
  repeat' (first
      | with_reducible assumption | with_reducible apply State_issueThr_canon)

theorem State_vec2_canon (s : State) (t : Nat) (cond : BitVec 4) (f : Body) (legal fnUsed : Bool) (op : Nat → Nat → Nat × Flg) (h_s : State.Canonical s) : State.Canonical (State.vec2 s t cond f legal fnUsed op) := by
  unfold State.vec2
  repeat' (first
      | with_reducible assumption | with_reducible apply State_issueVec_canon)

theorem State_vec1_canon (s : State) (t : Nat) (cond : BitVec 4) (f : Body) (legal : Bool) (op : Nat → Nat × Flg) (h_s : State.Canonical s) : State.Canonical (State.vec1 s t cond f legal op) := by
  unfold State.vec1
  repeat' (first
      | with_reducible assumption | with_reducible apply State_issueVec_canon)

theorem execVadd_canon (t : ThreadId) (cond : BitVec 4) (f : BitVec 52) (s : State) (h_s : State.Canonical s) : ResCanon (execVadd t cond f s) := by
  unfold execVadd
  repeat' (first
      | with_reducible assumption | with_reducible apply resNext | with_reducible apply State_vec2_canon)

theorem execVsub_canon (t : ThreadId) (cond : BitVec 4) (f : BitVec 52) (s : State) (h_s : State.Canonical s) : ResCanon (execVsub t cond f s) := by
  unfold execVsub
  repeat' (first
      | with_reducible assumption | with_reducible apply resNext | with_reducible apply State_vec2_canon)

theorem execVmul_canon (t : ThreadId) (cond : BitVec 4) (f : BitVec 52) (s : State) (h_s : State.Canonical s) : ResCanon (execVmul t cond f s) := by
  unfold execVmul
  repeat' (first
      | with_reducible assumption | with_reducible apply resNext | with_reducible apply State_vec2_canon)

theorem State_vec3_canon (s : State) (t : Nat) (cond : BitVec 4) (f : Body) (neg : Bool) (h_s : State.Canonical s) : State.Canonical (State.vec3 s t cond f neg) := by
  unfold State.vec3
  repeat' (first
      | with_reducible assumption | with_reducible apply State_issueVec_canon)

theorem execVfma_canon (t : ThreadId) (cond : BitVec 4) (f : BitVec 52) (s : State) (h_s : State.Canonical s) : ResCanon (execVfma t cond f s) := by
  unfold execVfma
  repeat' (first
      | with_reducible assumption | with_reducible apply resNext | with_reducible apply State_vec3_canon)

theorem execVfms_canon (t : ThreadId) (cond : BitVec 4) (f : BitVec 52) (s : State) (h_s : State.Canonical s) : ResCanon (execVfms t cond f s) := by
  unfold execVfms
  repeat' (first
      | with_reducible assumption | with_reducible apply resNext | with_reducible apply State_vec3_canon)

theorem execVmin_canon (t : ThreadId) (cond : BitVec 4) (f : BitVec 52) (s : State) (h_s : State.Canonical s) : ResCanon (execVmin t cond f s) := by
  unfold execVmin
  repeat' (first
      | with_reducible assumption | with_reducible apply resNext | with_reducible apply State_vec2_canon)

theorem execVmax_canon (t : ThreadId) (cond : BitVec 4) (f : BitVec 52) (s : State) (h_s : State.Canonical s) : ResCanon (execVmax t cond f s) := by
  unfold execVmax
  repeat' (first
      | with_reducible assumption | with_reducible apply resNext | with_reducible apply State_vec2_canon)

theorem execVabs_canon (t : ThreadId) (cond : BitVec 4) (f : BitVec 52) (s : State) (h_s : State.Canonical s) : ResCanon (execVabs t cond f s) := by
  unfold execVabs
  repeat' (first
      | with_reducible assumption | with_reducible apply resNext | with_reducible apply State_vec1_canon)

theorem execVand_canon (t : ThreadId) (cond : BitVec 4) (f : BitVec 52) (s : State) (h_s : State.Canonical s) : ResCanon (execVand t cond f s) := by
  unfold execVand
  repeat' (first
      | with_reducible assumption | with_reducible apply resNext | with_reducible apply State_vec2_canon)

theorem execVor_canon (t : ThreadId) (cond : BitVec 4) (f : BitVec 52) (s : State) (h_s : State.Canonical s) : ResCanon (execVor t cond f s) := by
  unfold execVor
  repeat' (first
      | with_reducible assumption | with_reducible apply resNext | with_reducible apply State_vec2_canon)

theorem execVxor_canon (t : ThreadId) (cond : BitVec 4) (f : BitVec 52) (s : State) (h_s : State.Canonical s) : ResCanon (execVxor t cond f s) := by
  unfold execVxor
  repeat' (first
      | with_reducible assumption | with_reducible apply resNext | with_reducible apply State_vec2_canon)

theorem execVshl_canon (t : ThreadId) (cond : BitVec 4) (f : BitVec 52) (s : State) (h_s : State.Canonical s) : ResCanon (execVshl t cond f s) := by
  unfold execVshl
  repeat' (first
      | with_reducible assumption | with_reducible apply resNext | with_reducible apply State_vec2_canon)

theorem execVshr_canon (t : ThreadId) (cond : BitVec 4) (f : BitVec 52) (s : State) (h_s : State.Canonical s) : ResCanon (execVshr t cond f s) := by
  unfold execVshr
  repeat' (first
      | with_reducible assumption | with_reducible apply resNext | with_reducible apply State_vec2_canon)

theorem execVrcp_canon (t : ThreadId) (cond : BitVec 4) (f : BitVec 52) (s : State) (h_s : State.Canonical s) : ResCanon (execVrcp t cond f s) := by
  unfold execVrcp
  repeat' (first
      | with_reducible assumption | with_reducible apply resNext | with_reducible apply State_vec1_canon)

theorem execVrsq_canon (t : ThreadId) (cond : BitVec 4) (f : BitVec 52) (s : State) (h_s : State.Canonical s) : ResCanon (execVrsq t cond f s) := by
  unfold execVrsq
  repeat' (first
      | with_reducible assumption | with_reducible apply resNext | with_reducible apply State_vec1_canon)

theorem execVexp2_canon (t : ThreadId) (cond : BitVec 4) (f : BitVec 52) (s : State) (h_s : State.Canonical s) : ResCanon (execVexp2 t cond f s) := by
  unfold execVexp2
  repeat' (first
      | with_reducible assumption | with_reducible apply resNext | with_reducible apply State_vec1_canon)

theorem execVcmp_canon (t : ThreadId) (cond : BitVec 4) (f : BitVec 52) (s : State) (h_s : State.Canonical s) : ResCanon (execVcmp t cond f s) := by
  unfold execVcmp
  repeat' (first
      | with_reducible assumption | with_reducible apply resNext | with_reducible apply State_issueVec_canon)

theorem execVsel_canon (t : ThreadId) (cond : BitVec 4) (f : BitVec 52) (s : State) (h_s : State.Canonical s) : ResCanon (execVsel t cond f s) := by
  unfold execVsel
  repeat' (first
      | with_reducible assumption | with_reducible apply resNext | with_reducible apply State_issueVec_canon)

theorem execVbcast_canon (t : ThreadId) (cond : BitVec 4) (f : BitVec 52) (s : State) (h_s : State.Canonical s) : ResCanon (execVbcast t cond f s) := by
  unfold execVbcast
  repeat' (first
      | with_reducible assumption | with_reducible apply resNext | with_reducible apply State_issueVec_canon)

theorem execVext_canon (t : ThreadId) (cond : BitVec 4) (f : BitVec 52) (s : State) (h_s : State.Canonical s) : ResCanon (execVext t cond f s) := by
  unfold execVext
  repeat' (first
      | with_reducible assumption | dsimp only | with_reducible refine @ite_canon_act _ _ _ _ ?_ ?_ | with_reducible intro _
      | with_reducible apply actRetire | with_reducible apply actExc | with_reducible apply resNext
      | with_reducible apply State_setThr_canon | with_reducible apply State_draw_canon
      | with_reducible apply State_issue_canon)

theorem execVins_canon (t : ThreadId) (cond : BitVec 4) (f : BitVec 52) (s : State) (h_s : State.Canonical s) : ResCanon (execVins t cond f s) := by
  unfold execVins
  repeat' (first
      | with_reducible assumption | with_reducible apply resNext | with_reducible apply State_issueVec_canon)

theorem execVperm_canon (t : ThreadId) (cond : BitVec 4) (f : BitVec 52) (s : State) (h_s : State.Canonical s) : ResCanon (execVperm t cond f s) := by
  unfold execVperm
  repeat' (first
      | with_reducible assumption | with_reducible apply resNext | with_reducible apply State_issueVec_canon)

theorem execVslide_canon (t : ThreadId) (cond : BitVec 4) (f : BitVec 52) (s : State) (h_s : State.Canonical s) : ResCanon (execVslide t cond f s) := by
  unfold execVslide
  repeat' (first
      | with_reducible assumption | with_reducible apply resNext | with_reducible apply State_issueVec_canon)

theorem State_vecRed_canon (s : State) (t : Nat) (cond : BitVec 4) (f : Body) (val : List (Option Nat) → Nat × Flg) (h_s : State.Canonical s) : State.Canonical (State.vecRed s t cond f val) := by
  unfold State.vecRed
  repeat' (first
      | with_reducible assumption | with_reducible apply State_issueVec_canon)

theorem execVrsum_canon (t : ThreadId) (cond : BitVec 4) (f : BitVec 52) (s : State) (h_s : State.Canonical s) : ResCanon (execVrsum t cond f s) := by
  unfold execVrsum
  repeat' (first
      | with_reducible assumption | with_reducible apply resNext | with_reducible apply State_vecRed_canon)

theorem execVrmax_canon (t : ThreadId) (cond : BitVec 4) (f : BitVec 52) (s : State) (h_s : State.Canonical s) : ResCanon (execVrmax t cond f s) := by
  unfold execVrmax
  repeat' (first
      | with_reducible assumption | with_reducible apply resNext | with_reducible apply State_vecRed_canon)

theorem execVrmin_canon (t : ThreadId) (cond : BitVec 4) (f : BitVec 52) (s : State) (h_s : State.Canonical s) : ResCanon (execVrmin t cond f s) := by
  unfold execVrmin
  repeat' (first
      | with_reducible assumption | with_reducible apply resNext | with_reducible apply State_vecRed_canon)

theorem State_predOp_canon (s : State) (t : Nat) (cond : BitVec 4) (f : Body) (op : BitVec 256 → BitVec 256 → BitVec 256) (h_s : State.Canonical s) : State.Canonical (State.predOp s t cond f op) := by
  unfold State.predOp
  repeat' (first
      | with_reducible assumption | dsimp only | with_reducible apply State_issueVec_canon)

theorem execPand_canon (t : ThreadId) (cond : BitVec 4) (f : BitVec 52) (s : State) (h_s : State.Canonical s) : ResCanon (execPand t cond f s) := by
  unfold execPand
  repeat' (first
      | with_reducible assumption | with_reducible apply resNext | with_reducible apply State_predOp_canon)

theorem execPor_canon (t : ThreadId) (cond : BitVec 4) (f : BitVec 52) (s : State) (h_s : State.Canonical s) : ResCanon (execPor t cond f s) := by
  unfold execPor
  repeat' (first
      | with_reducible assumption | with_reducible apply resNext | with_reducible apply State_predOp_canon)

theorem execPxor_canon (t : ThreadId) (cond : BitVec 4) (f : BitVec 52) (s : State) (h_s : State.Canonical s) : ResCanon (execPxor t cond f s) := by
  unfold execPxor
  repeat' (first
      | with_reducible assumption | with_reducible apply resNext | with_reducible apply State_predOp_canon)

theorem execPcnt_canon (t : ThreadId) (cond : BitVec 4) (f : BitVec 52) (s : State) (h_s : State.Canonical s) : ResCanon (execPcnt t cond f s) := by
  unfold execPcnt
  repeat' (first
      | with_reducible assumption | with_reducible apply resNext | with_reducible apply State_issueVec_canon)

theorem execVcvt_canon (t : ThreadId) (cond : BitVec 4) (f : BitVec 52) (s : State) (h_s : State.Canonical s) : ResCanon (execVcvt t cond f s) := by
  unfold execVcvt
  repeat' (first
      | with_reducible assumption | with_reducible apply resNext | with_reducible apply State_issueVec_canon)

theorem execVqmx_canon (t : ThreadId) (cond : BitVec 4) (f : BitVec 52) (s : State) (h_s : State.Canonical s) : ResCanon (execVqmx t cond f s) := by
  unfold execVqmx
  repeat' (first
      | with_reducible assumption | with_reducible apply resNext | with_reducible apply State_issueVec_canon)

theorem execVdqmx_canon (t : ThreadId) (cond : BitVec 4) (f : BitVec 52) (s : State) (h_s : State.Canonical s) : ResCanon (execVdqmx t cond f s) := by
  unfold execVdqmx
  repeat' (first
      | with_reducible assumption | with_reducible apply resNext | with_reducible apply State_issueVec_canon)

theorem execVblkz_canon (t : ThreadId) (cond : BitVec 4) (f : BitVec 52) (s : State) (h_s : State.Canonical s) : ResCanon (execVblkz t cond f s) := by
  unfold execVblkz
  repeat' (first
      | with_reducible assumption | with_reducible apply resNext | with_reducible apply State_issueVec_canon)

theorem State_setTile_canon (s : State) (c j : Nat) (x : Tile) (h_s : State.Canonical s) : State.Canonical (State.setTile s c j x) := by
  unfold State.setTile
  repeat' (first
      | with_reducible assumption | with_reducible apply State_updCore_canon)

theorem State_setAcc_canon (s : State) (c a : Nat) (x : Acc) (h_s : State.Canonical s) : State.Canonical (State.setAcc s c a x) := by
  unfold State.setAcc
  repeat' (first
      | with_reducible assumption | with_reducible apply State_updCore_canon)

theorem State_setArr_canon (s : State) (c a : Nat) (x : Arr) (h_s : State.Canonical s) : State.Canonical (State.setArr s c a x) := by
  unfold State.setArr
  repeat' (first
      | with_reducible assumption | with_reducible apply State_updCore_canon)

theorem State_unlatch_canon (s : State) (c j : Nat) (h_s : State.Canonical s) : State.Canonical (State.unlatch s c j) := by
  unfold State.unlatch
  repeat' (first
      | with_reducible assumption | dsimp only | with_reducible intro _ | with_reducible apply State_setArr_canon
      | with_reducible apply foldl_canon)

theorem State_tileTo_canon (s : State) (c j st : Nat) (h_s : State.Canonical s) : State.Canonical (State.tileTo s c j st) := by
  unfold State.tileTo
  repeat' (first
      | with_reducible assumption | dsimp only | with_reducible refine @ite_canon _ _ _ _ ?_ ?_
      | with_reducible apply State_setTile_canon | with_reducible apply State_unlatch_canon)

theorem State_tileOpen_canon (s : State) (c j st : Nat) (h_s : State.Canonical s) : State.Canonical (State.tileOpen s c j st) := by
  unfold State.tileOpen
  repeat' (first
      | with_reducible assumption | dsimp only | with_reducible refine @ite_canon _ _ _ _ ?_ ?_
      | with_reducible apply State_setTile_canon | with_reducible apply State_tileTo_canon)

theorem State_tileRows_canon (s : State) (c j : Nat) (rows : List (Nat × Row)) (h_s : State.Canonical s) : State.Canonical (State.tileRows s c j rows) := by
  unfold State.tileRows
  repeat' (first
      | with_reducible assumption | dsimp only | with_reducible apply State_setTile_canon)

theorem State_wakeBank_canon (s : State) (c j : Nat) (h_s : State.Canonical s) : State.Canonical (State.wakeBank s c j) := by
  unfold State.wakeBank
  repeat' (first
      | with_reducible assumption | with_reducible apply State_updCore_canon)

theorem execBankGate_canon (c : CoreId) (b : Fin 4) (s : State) (h_s : State.Canonical s) : ResCanon (execBankGate c b s) := by
  unfold execBankGate
  repeat' (first
      | with_reducible assumption | dsimp only | with_reducible refine @ite_canon _ _ _ _ ?_ ?_
      | with_reducible apply resNext | with_reducible apply State_setCore_canon)

theorem execBankWake_canon (c : CoreId) (b : Fin 4) (s : State) (h_s : State.Canonical s) : ResCanon (execBankWake c b s) := by
  unfold execBankWake
  repeat' (first
      | with_reducible assumption | dsimp only | with_reducible refine @ite_canon _ _ _ _ ?_ ?_
      | with_reducible apply resNext | with_reducible apply State_setCore_canon)

theorem State_ownNear_canon (s : State) (t : Nat) (k : Access) (va : Word) (h_s : State.Canonical s) : State.Canonical (State.ownNear s t k va).2 := by
  unfold State.ownNear
  repeat' (first
      | with_reducible assumption | dsimp only | with_reducible refine @ite_canon_snd _ _ _ _ _ ?_ ?_
      | with_reducible apply State_dataXlat_canon | split)

theorem State_moveStep_canon (s : State) (t : Nat) (f : Body) (load : Bool) (leaf : Word) (a : Nat) (rs : List Nat) (h_s : State.Canonical s) : State.Canonical (State.moveStep s t f load leaf a rs) := by
  unfold State.moveStep
  repeat' (first
      | with_reducible assumption | dsimp only | with_reducible refine @ite_canon _ _ _ _ ?_ ?_ | with_reducible intro _
      | with_reducible apply State_updCore_canon | with_reducible apply State_touch_canon
      | with_reducible apply State_store_canon | with_reducible apply foldl_canon)

theorem State_moveOn_canon (s : State) (t : Nat) (f : Body) (load : Bool) (h_s : State.Canonical s) : (State.moveOn s t f load).Canon := by
  unfold State.moveOn
  repeat' (first
      | with_reducible assumption | dsimp only | with_reducible refine @ite_canon_act _ _ _ _ ?_ ?_
      | with_reducible apply actRetire | with_reducible apply actExc | with_reducible apply actPart
      | with_reducible apply State_updThr_canon | with_reducible apply State_closeMove_canon
      | with_reducible apply State_ownNear_canon | with_reducible apply State_moveStep_canon | split
      | with_reducible refine snd_canon_eq (by with_reducible assumption) ?_)

theorem State_moveBegin_canon (s : State) (t : Nat) (f : Body) (load : Bool) (p : Nat) (h_s : State.Canonical s) : State.Canonical (State.moveBegin s t f load p) := by
  unfold State.moveBegin
  repeat' (first
      | with_reducible assumption | dsimp only | with_reducible refine @ite_canon _ _ _ _ ?_ ?_
      | with_reducible apply State_updCore_canon | with_reducible apply State_tileTo_canon
      | with_reducible apply State_tileOpen_canon)

theorem State_tileMove_canon (s : State) (t : Nat) (f : Body) (load : Bool) (h_s : State.Canonical s) : (State.tileMove s t f load).Canon := by
  unfold State.tileMove
  repeat' (first
      | with_reducible assumption | dsimp only | with_reducible refine @ite_canon_act _ _ _ _ ?_ ?_
      | with_reducible apply actHold | with_reducible apply actExc | with_reducible apply State_wakeBank_canon
      | with_reducible apply State_ownNear_canon | with_reducible apply State_moveOn_canon
      | with_reducible apply State_moveBegin_canon | split
      | with_reducible refine snd_canon_eq (by with_reducible assumption) ?_)

theorem execTload_canon (t : ThreadId) (cond : BitVec 4) (f : BitVec 52) (s : State) (h_s : State.Canonical s) : ResCanon (execTload t cond f s) := by
  unfold execTload
  repeat' (first
      | with_reducible assumption | with_reducible intro _ | with_reducible apply resNext
      | with_reducible apply State_issue_canon | with_reducible apply State_tileMove_canon)

theorem execTstore_canon (t : ThreadId) (cond : BitVec 4) (f : BitVec 52) (s : State) (h_s : State.Canonical s) : ResCanon (execTstore t cond f s) := by
  unfold execTstore
  repeat' (first
      | with_reducible assumption | with_reducible intro _ | with_reducible apply resNext
      | with_reducible apply State_issue_canon | with_reducible apply State_tileMove_canon)

theorem execTileMoveCompletes_canon (c : CoreId) (j : Fin 32) (s : State) (h_s : State.Canonical s) : ResCanon (execTileMoveCompletes c j s) := by
  unfold execTileMoveCompletes
  repeat' (first
      | with_reducible assumption | with_reducible apply resNext | with_reducible apply State_updCore_canon
      | with_reducible apply State_tileTo_canon | with_reducible apply State_tileRows_canon | split)

theorem State_tilePut_canon (s : State) (t j kind : Nat) (rows : List (Nat × Row)) (h_s : State.Canonical s) : State.Canonical (State.tilePut s t j kind rows) := by
  unfold State.tilePut
  repeat' (first
      | with_reducible assumption | with_reducible apply State_updCore_canon | with_reducible apply State_tileOpen_canon)

theorem State_tzero_canon (s : State) (t : Nat) (f : Body) (h_s : State.Canonical s) : (State.tzero s t f).Canon := by
  unfold State.tzero
  repeat' (first
      | with_reducible assumption | dsimp only | with_reducible refine @ite_canon_act _ _ _ _ ?_ ?_
      | with_reducible apply actRetire | with_reducible apply actHold | with_reducible apply actExc
      | with_reducible apply State_setTile_canon | with_reducible apply State_wakeBank_canon
      | with_reducible apply State_tilePut_canon)

theorem execTzero_canon (t : ThreadId) (cond : BitVec 4) (f : BitVec 52) (s : State) (h_s : State.Canonical s) : ResCanon (execTzero t cond f s) := by
  unfold execTzero
  repeat' (first
      | with_reducible assumption | with_reducible intro _ | with_reducible apply resNext
      | with_reducible apply State_issue_canon | with_reducible apply State_tzero_canon)

theorem State_tileRelease_canon (s : State) (c j : Nat) (h_s : State.Canonical s) : State.Canonical (State.tileRelease s c j) := by
  unfold State.tileRelease
  repeat' (first
      | with_reducible assumption | with_reducible apply State_setTile_canon | with_reducible apply State_unlatch_canon)

theorem State_trel_canon (s : State) (t : Nat) (f : Body) (h_s : State.Canonical s) : (State.trel s t f).Canon := by
  unfold State.trel
  repeat' (first
      | with_reducible assumption | dsimp only | with_reducible refine @ite_canon_act _ _ _ _ ?_ ?_
      | with_reducible apply actRetire | with_reducible apply actHold | with_reducible apply actExc
      | with_reducible apply State_tileRelease_canon)

theorem execTrel_canon (t : ThreadId) (cond : BitVec 4) (f : BitVec 52) (s : State) (h_s : State.Canonical s) : ResCanon (execTrel t cond f s) := by
  unfold execTrel
  repeat' (first
      | with_reducible assumption | with_reducible intro _ | with_reducible apply resNext
      | with_reducible apply State_issue_canon | with_reducible apply State_trel_canon)

theorem execTsync_canon (t : ThreadId) (cond : BitVec 4) (f : BitVec 52) (s : State) (h_s : State.Canonical s) : ResCanon (execTsync t cond f s) := by
  unfold execTsync
  repeat' (first
      | with_reducible assumption | with_reducible refine @ite_canon_act _ _ _ _ ?_ ?_ | with_reducible intro _
      | with_reducible apply actHold | with_reducible apply actDeliver | with_reducible apply resNext
      | with_reducible apply State_issue_canon)

theorem State_tcfgAct_canon (s : State) (t : Nat) (f : Body) (fl : Nat) (h_s : State.Canonical s) : (State.tcfgAct s t f fl).Canon := by
  unfold State.tcfgAct
  repeat' (first
      | with_reducible assumption | dsimp only | with_reducible refine @ite_canon_act _ _ _ _ ?_ ?_
      | with_reducible apply actRetire | with_reducible apply actHold | with_reducible apply actExc
      | with_reducible apply State_updThr_canon | with_reducible apply State_setTile_canon
      | with_reducible apply State_setAcc_canon | with_reducible apply State_unlatch_canon
      | with_reducible apply State_wakeBank_canon | split)

theorem State_tcfg_canon (s : State) (t : Nat) (cond : BitVec 4) (f : Body) (fl : Nat) (h_s : State.Canonical s) : State.Canonical (State.tcfg s t cond f fl) := by
  unfold State.tcfg
  repeat' (first
      | with_reducible assumption | with_reducible refine @ite_canon _ _ _ _ ?_ ?_ | with_reducible intro _
      | with_reducible apply State_issue_canon | with_reducible apply State_tcfgAct_canon)

theorem execTcfgRead_canon (t : ThreadId) (cond : BitVec 4) (f : BitVec 52) (s : State) (h_s : State.Canonical s) : ResCanon (execTcfgRead t cond f s) := by
  unfold execTcfgRead
  repeat' (first
      | with_reducible assumption | with_reducible apply resNext | with_reducible apply State_tcfg_canon)

theorem execTcfgAttr_canon (t : ThreadId) (cond : BitVec 4) (f : BitVec 52) (s : State) (h_s : State.Canonical s) : ResCanon (execTcfgAttr t cond f s) := by
  unfold execTcfgAttr
  repeat' (first
      | with_reducible assumption | with_reducible apply resNext | with_reducible apply State_tcfg_canon)

theorem execTcfgOwner_canon (t : ThreadId) (cond : BitVec 4) (f : BitVec 52) (s : State) (h_s : State.Canonical s) : ResCanon (execTcfgOwner t cond f s) := by
  unfold execTcfgOwner
  repeat' (first
      | with_reducible assumption | with_reducible apply resNext | with_reducible apply State_tcfg_canon)

theorem execTcfgOwnerAttr_canon (t : ThreadId) (cond : BitVec 4) (f : BitVec 52) (s : State) (h_s : State.Canonical s) : ResCanon (execTcfgOwnerAttr t cond f s) := by
  unfold execTcfgOwnerAttr
  repeat' (first
      | with_reducible assumption | with_reducible apply resNext | with_reducible apply State_tcfg_canon)

theorem State_vtrd_canon (s : State) (t : Nat) (f : Body) (h_s : State.Canonical s) : (State.vtrd s t f).Canon := by
  unfold State.vtrd
  repeat' (first
      | with_reducible assumption | dsimp only | with_reducible refine @ite_canon_act _ _ _ _ ?_ ?_
      | with_reducible apply actRetire | with_reducible apply actHold | with_reducible apply actExc
      | with_reducible apply State_updThr_canon | with_reducible apply State_updCore_canon
      | with_reducible apply State_tileTo_canon)

theorem execVtrd_canon (t : ThreadId) (cond : BitVec 4) (f : BitVec 52) (s : State) (h_s : State.Canonical s) : ResCanon (execVtrd t cond f s) := by
  unfold execVtrd
  repeat' (first
      | with_reducible assumption | with_reducible intro _ | with_reducible apply resNext
      | with_reducible apply State_issue_canon | with_reducible apply State_vtrd_canon)

theorem State_vtwr_canon (s : State) (t : Nat) (f : Body) (h_s : State.Canonical s) : (State.vtwr s t f).Canon := by
  unfold State.vtwr
  repeat' (first
      | with_reducible assumption | dsimp only | with_reducible refine @ite_canon_act _ _ _ _ ?_ ?_
      | with_reducible apply actRetire | with_reducible apply actHold | with_reducible apply actExc
      | with_reducible apply State_wakeBank_canon | with_reducible apply State_tilePut_canon)

theorem execVtwr_canon (t : ThreadId) (cond : BitVec 4) (f : BitVec 52) (s : State) (h_s : State.Canonical s) : ResCanon (execVtwr t cond f s) := by
  unfold execVtwr
  repeat' (first
      | with_reducible assumption | with_reducible intro _ | with_reducible apply resNext
      | with_reducible apply State_issue_canon | with_reducible apply State_vtwr_canon)

theorem State_wakeDest_canon (s : State) (c : Nat) (o : ArrOp) (h_s : State.Canonical s) : State.Canonical (State.wakeDest s c o) := by
  unfold State.wakeDest
  repeat' (first
      | with_reducible assumption | with_reducible refine @ite_canon _ _ _ _ ?_ ?_
      | with_reducible apply State_wakeBank_canon | split)

theorem State_arrIssue_canon (s : State) (t : Nat) (bad : Bool) (tiles : List Nat) (op : ArrOp) (h_s : State.Canonical s) : (State.arrIssue s t bad tiles op).Canon := by
  unfold State.arrIssue
  repeat' (first
      | with_reducible assumption | dsimp only | with_reducible refine @ite_canon_act _ _ _ _ ?_ ?_
      | with_reducible apply actRetire | with_reducible apply actHold | with_reducible apply actExc
      | with_reducible apply State_setArr_canon | with_reducible apply State_wakeDest_canon | split)

theorem State_tmmaAct_canon (s : State) (t : Nat) (f : Body) (h_s : State.Canonical s) : (State.tmmaAct s t f).Canon := by
  unfold State.tmmaAct
  repeat' (first
      | with_reducible assumption | dsimp only | with_reducible apply State_arrIssue_canon)

theorem execTmma_canon (t : ThreadId) (cond : BitVec 4) (f : BitVec 52) (s : State) (h_s : State.Canonical s) : ResCanon (execTmma t cond f s) := by
  unfold execTmma
  repeat' (first
      | with_reducible assumption | with_reducible intro _ | with_reducible apply resNext
      | with_reducible apply State_issue_canon | with_reducible apply State_tmmaAct_canon)

theorem State_tldaccAct_canon (s : State) (t : Nat) (f : Body) (h_s : State.Canonical s) : (State.tldaccAct s t f).Canon := by
  unfold State.tldaccAct
  repeat' (first
      | with_reducible assumption | with_reducible apply State_arrIssue_canon)

theorem State_tdrainAct_canon (s : State) (t : Nat) (f : Body) (h_s : State.Canonical s) : (State.tdrainAct s t f).Canon := by
  unfold State.tdrainAct
  repeat' (first
      | with_reducible assumption | with_reducible apply State_arrIssue_canon)

theorem execTldacc_canon (t : ThreadId) (cond : BitVec 4) (f : BitVec 52) (s : State) (h_s : State.Canonical s) : ResCanon (execTldacc t cond f s) := by
  unfold execTldacc
  repeat' (first
      | with_reducible assumption | with_reducible intro _ | with_reducible apply resNext
      | with_reducible apply State_issue_canon | with_reducible apply State_tldaccAct_canon)

theorem execTdrain_canon (t : ThreadId) (cond : BitVec 4) (f : BitVec 52) (s : State) (h_s : State.Canonical s) : ResCanon (execTdrain t cond f s) := by
  unfold execTdrain
  repeat' (first
      | with_reducible assumption | with_reducible intro _ | with_reducible apply resNext
      | with_reducible apply State_issue_canon | with_reducible apply State_tdrainAct_canon)

theorem State_tewAct_canon (s : State) (t : Nat) (f : Body) (op : Nat) (h_s : State.Canonical s) : (State.tewAct s t f op).Canon := by
  unfold State.tewAct
  repeat' (first
      | with_reducible assumption | with_reducible apply State_arrIssue_canon)

theorem State_tew_canon (s : State) (t : Nat) (cond : BitVec 4) (f : Body) (op : Nat) (h_s : State.Canonical s) : State.Canonical (State.tew s t cond f op) := by
  unfold State.tew
  repeat' (first
      | with_reducible assumption | with_reducible refine @ite_canon _ _ _ _ ?_ ?_ | with_reducible intro _
      | with_reducible apply State_issue_canon | with_reducible apply State_tewAct_canon)

theorem execTewAdd_canon (t : ThreadId) (cond : BitVec 4) (f : BitVec 52) (s : State) (h_s : State.Canonical s) : ResCanon (execTewAdd t cond f s) := by
  unfold execTewAdd
  repeat' (first
      | with_reducible assumption | with_reducible apply resNext | with_reducible apply State_tew_canon)

theorem execTewMul_canon (t : ThreadId) (cond : BitVec 4) (f : BitVec 52) (s : State) (h_s : State.Canonical s) : ResCanon (execTewMul t cond f s) := by
  unfold execTewMul
  repeat' (first
      | with_reducible assumption | with_reducible apply resNext | with_reducible apply State_tew_canon)

theorem execTewMax_canon (t : ThreadId) (cond : BitVec 4) (f : BitVec 52) (s : State) (h_s : State.Canonical s) : ResCanon (execTewMax t cond f s) := by
  unfold execTewMax
  repeat' (first
      | with_reducible assumption | with_reducible apply resNext | with_reducible apply State_tew_canon)

theorem execTewScale_canon (t : ThreadId) (cond : BitVec 4) (f : BitVec 52) (s : State) (h_s : State.Canonical s) : ResCanon (execTewScale t cond f s) := by
  unfold execTewScale
  repeat' (first
      | with_reducible assumption | with_reducible apply resNext | with_reducible apply State_tew_canon)

theorem State_arrFlag_canon (s : State) (c a bits : Nat) (h_s : State.Canonical s) : State.Canonical (State.arrFlag s c a bits) := by
  unfold State.arrFlag
  repeat' (first
      | with_reducible assumption | with_reducible apply State_updCore_canon)

theorem State_arrFound_canon (s : State) (c a : Nat) (u : ArrFind) (h : State.Canonical s) : State.Canonical (s.arrFound c a u) := by
  cases u <;> (unfold State.arrFound; exact State_raiseCore_canon _ _ _ _ _ _ (State_arrFlag_canon _ _ _ _ h))

theorem State_arrCount_canon (s : State) (c a k n : Nat) (h_s : State.Canonical s) : State.Canonical (State.arrCount s c a k n) := by
  unfold State.arrCount
  repeat' (first
      | with_reducible assumption | with_reducible apply State_updCore_canon)

theorem State_arrForm_canon (s : State) (c a : Nat) (o : ArrOp) (ups : List ArrUpset) (h_s : State.Canonical s) : State.Canonical (State.arrForm s c a o ups).2 := by
  unfold State.arrForm
  repeat' (first
      | with_reducible assumption | dsimp only | with_reducible apply State_setAcc_canon
      | with_reducible apply State_arrCount_canon | split)

theorem execArrayOperationBegins_canon (c : CoreId) (a : Fin 2) (upsets : List ArrUpset) (s : State) (h_s : State.Canonical s) : ResCanon (execArrayOperationBegins c a upsets s) := by
  unfold execArrayOperationBegins
  repeat' (first
      | with_reducible assumption | dsimp only | with_reducible refine @ite_canon _ _ _ _ ?_ ?_ | with_reducible intro _
      | with_reducible apply resNext | with_reducible apply State_updCore_canon | with_reducible apply State_setArr_canon
      | with_reducible apply State_tileTo_canon | with_reducible apply State_tileOpen_canon
      | with_reducible apply State_wakeDest_canon | with_reducible apply State_arrFound_canon
      | with_reducible apply State_arrForm_canon | with_reducible apply foldl_canon | split)

theorem State_arrLast_canon (s : State) (c a : Nat) (h_s : State.Canonical s) : State.Canonical (State.arrLast s c a) := by
  unfold State.arrLast
  repeat' (first
      | with_reducible assumption | dsimp only | with_reducible intro _ | with_reducible apply State_setAcc_canon
      | with_reducible apply State_setArr_canon | with_reducible apply State_tileTo_canon | with_reducible apply foldl_canon
      | split)

theorem State_arrSide_canon (s : State) (c a : Nat) (o : ArrOp) (h_s : State.Canonical s) : State.Canonical (State.arrSide s c a o) := by
  unfold State.arrSide
  repeat' (first
      | with_reducible assumption | dsimp only | with_reducible intro _ | with_reducible apply State_setArr_canon
      | with_reducible apply State_tileTo_canon | with_reducible apply foldl_canon)

theorem State_arrTick_canon (s : State) (c a : Nat) (h_s : State.Canonical s) : State.Canonical (State.arrTick s c a) := by
  unfold State.arrTick
  repeat' (first
      | with_reducible assumption | dsimp only | with_reducible refine @ite_canon _ _ _ _ ?_ ?_
      | with_reducible apply State_arrLast_canon | with_reducible apply State_arrSide_canon | split)

theorem execArrayOperationCompletes_canon (c : CoreId) (a : Fin 2) (s : State) (h_s : State.Canonical s) : ResCanon (execArrayOperationCompletes c a s) := by
  unfold execArrayOperationCompletes
  repeat' (first
      | with_reducible assumption | dsimp only | with_reducible refine @ite_canon _ _ _ _ ?_ ?_ | with_reducible intro _
      | with_reducible apply resNext | with_reducible apply State_raiseFlags_canon | with_reducible apply State_setArr_canon
      | with_reducible apply State_tileTo_canon | with_reducible apply State_tileRows_canon
      | with_reducible apply State_arrFlag_canon | with_reducible apply State_arrLast_canon
      | with_reducible apply foldl_canon | split)

theorem State_runThread_canon (s : State) (t : Nat) (h_s : State.Canonical s) : State.Canonical (State.runThread s t) := by
  unfold State.runThread
  repeat' (first
      | with_reducible assumption | dsimp only | with_reducible refine @ite_canon _ _ _ _ ?_ ?_
      | with_reducible apply State_setThr_canon | with_reducible apply State_raiseCore_canon | split)

theorem State_haltThread_canon (s : State) (t : Nat) (h_s : State.Canonical s) : State.Canonical (State.haltThread s t) := by
  unfold State.haltThread
  repeat' (first
      | with_reducible assumption | with_reducible refine @ite_canon _ _ _ _ ?_ ?_ | with_reducible apply State_updThr_canon)

theorem State_clearThread_canon (s : State) (t : Nat) (h_s : State.Canonical s) : State.Canonical (State.clearThread s t) := by
  unfold State.clearThread
  repeat' (first
      | with_reducible assumption | with_reducible refine @ite_canon _ _ _ _ ?_ ?_ | with_reducible apply State_updThr_canon
      | with_reducible apply State_haltPins_canon)

theorem State_thrCtl_canon (s : State) (t : Nat) (v : Word) (h_s : State.Canonical s) : State.Canonical (State.thrCtl s t v) := by
  unfold State.thrCtl
  repeat' (first
      | with_reducible assumption | dsimp only | with_reducible refine @ite_canon _ _ _ _ ?_ ?_
      | with_reducible apply State_raiseCore_canon | with_reducible apply State_runThread_canon
      | with_reducible apply State_haltThread_canon | with_reducible apply State_clearThread_canon)

theorem execThrCtlRun_canon (t : ThreadId) (s : State) (h_s : State.Canonical s) : ResCanon (execThrCtlRun t s) := by
  unfold execThrCtlRun
  repeat' (first
      | with_reducible assumption | with_reducible apply resNext | with_reducible apply State_byReg_canon
      | with_reducible apply State_byCore_canon | with_reducible apply State_thrCtl_canon)

theorem execThrCtlHalt_canon (t : ThreadId) (s : State) (h_s : State.Canonical s) : ResCanon (execThrCtlHalt t s) := by
  unfold execThrCtlHalt
  repeat' (first
      | with_reducible assumption | with_reducible apply resNext | with_reducible apply State_byReg_canon
      | with_reducible apply State_byCore_canon | with_reducible apply State_thrCtl_canon)

theorem execThrCtlClear_canon (t : ThreadId) (s : State) (h_s : State.Canonical s) : ResCanon (execThrCtlClear t s) := by
  unfold execThrCtlClear
  repeat' (first
      | with_reducible assumption | with_reducible apply resNext | with_reducible apply State_byReg_canon
      | with_reducible apply State_byCore_canon | with_reducible apply State_thrCtl_canon)

theorem execThreadHaltAtBoundary_canon (t : ThreadId) (s : State) (h_s : State.Canonical s) : ResCanon (execThreadHaltAtBoundary t s) := by
  unfold execThreadHaltAtBoundary
  repeat' (first
      | with_reducible assumption | dsimp only | with_reducible refine @ite_canon _ _ _ _ ?_ ?_
      | with_reducible apply resNext | with_reducible apply State_updThr_canon | with_reducible apply State_closeMove_canon)

theorem State_setTimer_canon (s : State) (c k : Nat) (x : Timer) (h_s : State.Canonical s) : State.Canonical (State.setTimer s c k x) := by
  unfold State.setTimer
  repeat' (first
      | with_reducible assumption | with_reducible apply State_updCore_canon)

theorem execTimerExpiry_canon (c : CoreId) (k : Fin 4) (s : State) (h_s : State.Canonical s) : ResCanon (execTimerExpiry c k s) := by
  unfold execTimerExpiry
  repeat' (first
      | with_reducible assumption | dsimp only | with_reducible refine @ite_canon _ _ _ _ ?_ ?_
      | with_reducible apply resNext | with_reducible apply State_bellRaise_canon | with_reducible apply State_setTimer_canon)

theorem execTmrCountWrite_canon (c : CoreId) (k : Fin 4) (v : Word) (s : State) (h_s : State.Canonical s) : ResCanon (execTmrCountWrite c k v s) := by
  unfold execTmrCountWrite
  repeat' (first
      | with_reducible assumption | dsimp only | with_reducible apply resNext | with_reducible apply State_byReg_canon
      | with_reducible apply State_byCore_canon | with_reducible apply State_setTimer_canon)

theorem execTmrCtlWrite_canon (c : CoreId) (k : Fin 4) (v : Word) (s : State) (h_s : State.Canonical s) : ResCanon (execTmrCtlWrite c k v s) := by
  unfold execTmrCtlWrite
  repeat' (first
      | with_reducible assumption | dsimp only | with_reducible refine @ite_canon _ _ _ _ ?_ ?_
      | with_reducible apply resNext | with_reducible apply State_bellRaise_canon | with_reducible apply State_byReg_canon
      | with_reducible apply State_byCore_canon | with_reducible apply State_setTimer_canon)

theorem execBellLatch_canon (c : CoreId) (s : State) (h_s : State.Canonical s) : ResCanon (execBellLatch c s) := by
  unfold execBellLatch
  repeat' (first
      | with_reducible assumption | dsimp only | with_reducible refine @ite_canon _ _ _ _ ?_ ?_
      | with_reducible apply resNext | with_reducible apply State_updCore_canon | split)

theorem State_bellDeliver_canon (s : State) (c n src : Nat) (h_s : State.Canonical s) : State.Canonical (State.bellDeliver s c n src) := by
  unfold State.bellDeliver
  repeat' (first
      | with_reducible assumption | dsimp only | with_reducible refine @ite_canon _ _ _ _ ?_ ?_
      | with_reducible apply State_updCore_canon
      | (fail_if_no_progress (with_reducible apply canon_mk; with_reducible apply Canon3.of)))

theorem execInterruptEntry_canon (c : CoreId) (s : State) (h_s : State.Canonical s) : ResCanon (execInterruptEntry c s) := by
  unfold execInterruptEntry
  repeat' (first
      | with_reducible assumption | dsimp only | with_reducible refine @ite_canon _ _ _ _ ?_ ?_
      | with_reducible apply resNext | with_reducible apply State_updThr_canon | with_reducible apply State_updCore_canon
      | with_reducible apply State_closeMove_canon | with_reducible apply State_bellDeliver_canon | split)

theorem execBellSet_canon (c : CoreId) (v : Word) (s : State) (h_s : State.Canonical s) : ResCanon (execBellSet c v s) := by
  unfold execBellSet
  repeat' (first
      | with_reducible assumption | dsimp only | with_reducible apply resNext | with_reducible apply State_updCore_canon
      | with_reducible apply State_byReg_canon | with_reducible apply State_byCore_canon)

theorem execHubBellSet_canon (v : Word) (s : State) (h_s : State.Canonical s) : ResCanon (execHubBellSet v s) := by
  unfold execHubBellSet
  repeat' (first
      | with_reducible assumption | with_reducible refine @ite_canon _ _ _ _ ?_ ?_ | with_reducible intro _
      | with_reducible apply resNext | with_reducible apply State_hubRaise_canon | with_reducible apply State_byReg_canon
      | with_reducible apply foldl_canon)

theorem execHubBellCfgWrite_canon (n : Fin 256) (v : Word) (s : State) (h_s : State.Canonical s) : ResCanon (execHubBellCfgWrite n v s) := by
  unfold execHubBellCfgWrite
  repeat' (first
      | with_reducible assumption | dsimp only | with_reducible apply resNext | with_reducible apply State_hubPut_canon
      | with_reducible apply State_byReg_canon)

theorem execHubBellAck_canon (n : Fin 256) (s : State) (h_s : State.Canonical s) : ResCanon (execHubBellAck n s) := by
  unfold execHubBellAck
  repeat' (first
      | with_reducible assumption | dsimp only | with_reducible apply resNext | with_reducible apply State_hubPut_canon
      | split | (fail_if_no_progress (with_reducible apply canon_mk; with_reducible apply Canon3.of)))

theorem execHubInputChange_canon (c : CoreId) (j : Fin 16) (s : State) (h_s : State.Canonical s) : ResCanon (execHubInputChange c j s) := by
  unfold execHubInputChange
  repeat' (first
      | with_reducible assumption | dsimp only | with_reducible apply resNext | with_reducible apply State_updCore_canon)

theorem execEvtInEdge_canon (k : Fin 4) (level : Bool) (s : State) (h_s : State.Canonical s) : ResCanon (execEvtInEdge k level s) := by
  unfold execEvtInEdge
  repeat' (first
      | with_reducible assumption | dsimp only | with_reducible refine @ite_canon _ _ _ _ ?_ ?_
      | with_reducible apply resNext | with_reducible apply State_hubRaise_canon
      | (fail_if_no_progress (with_reducible apply canon_mk; with_reducible apply Canon3.of)))

theorem execEvtOutPulseEnd_canon (pin : Fin 2) (s : State) (h_s : State.Canonical s) : ResCanon (execEvtOutPulseEnd pin s) := by
  unfold execEvtOutPulseEnd
  repeat' (first
      | with_reducible assumption | dsimp only | with_reducible apply resNext
      | (fail_if_no_progress (with_reducible apply canon_mk; with_reducible apply Canon3.of)))

theorem State_areaXlat_canon (s : State) (t : Nat) (k : Access) (va : Word) (h_s : State.Canonical s) (n__ : Nat) : State.Canonical ((State.areaXlat s t k va) n__).2 := by
  induction n__ generalizing s t k va with
  | zero =>
    unfold State.areaXlat
    repeat' (first
        | with_reducible assumption)
  | succ n__ ih =>
    unfold State.areaXlat
    repeat' (first
        | with_reducible apply ih | with_reducible assumption | dsimp only | with_reducible refine @ite_canon _ _ _ _ ?_ ?_
        | with_reducible apply State_ownNear_canon | split)

theorem State_saveAll_canon (s : State) (t : Nat) (lines : List (Nat × Word)) (l : List SGran) (h_s : State.Canonical s) : State.Canonical (State.saveAll s t lines l) := by
  unfold State.saveAll
  repeat' (first
      | with_reducible assumption | dsimp only | with_reducible intro _ | with_reducible apply State_store_canon
      | with_reducible apply foldl_canon)

theorem State_accStalls_canon (s : State) (c : Nat) (accs : List Nat) (h_s : State.Canonical s) : State.Canonical (State.accStalls s c accs) := by
  unfold State.accStalls
  repeat' (first
      | with_reducible assumption | with_reducible intro _ | with_reducible apply State_arrCount_canon
      | with_reducible apply foldl_canon)

theorem State_csaveAct_canon (s : State) (t : Nat) (f : Body) (h_s : State.Canonical s) : (State.csaveAct s t f).Canon := by
  unfold State.csaveAct
  repeat' (first
      | with_reducible assumption | dsimp only | with_reducible refine @ite_canon_act _ _ _ _ ?_ ?_
      | with_reducible apply actRetire | with_reducible apply actHold | with_reducible apply actExc
      | with_reducible apply State_areaXlat_canon | with_reducible apply State_saveAll_canon
      | with_reducible apply State_accStalls_canon | split)

theorem execCsave_canon (t : ThreadId) (cond : BitVec 4) (f : BitVec 52) (s : State) (h_s : State.Canonical s) : ResCanon (execCsave t cond f s) := by
  unfold execCsave
  repeat' (first
      | with_reducible assumption | with_reducible intro _ | with_reducible apply resNext
      | with_reducible apply State_issue_canon | with_reducible apply State_csaveAct_canon)

theorem State_touchArea_canon (s : State) (t : Nat) (lines : List (Nat × Word)) (n : Nat) (h_s : State.Canonical s) : State.Canonical (State.touchArea s t lines n) := by
  unfold State.touchArea
  repeat' (first
      | with_reducible assumption | dsimp only | with_reducible intro _ | with_reducible apply State_touch_canon
      | with_reducible apply foldl_canon)

theorem State_loadTile_canon (s : State) (t u : Nat) (lines : List (Nat × Word)) (j i : Nat) (h_s : State.Canonical s) : State.Canonical (State.loadTile s t u lines j i) := by
  unfold State.loadTile
  repeat' (first
      | with_reducible assumption | dsimp only | with_reducible apply State_setTile_canon
      | with_reducible apply State_unlatch_canon)

theorem State_loadAll_canon (s : State) (t u : Nat) (lines : List (Nat × Word)) (tiles accs : List Nat) (h_s : State.Canonical s) : State.Canonical (State.loadAll s t u lines tiles accs) := by
  unfold State.loadAll
  repeat' (first
      | with_reducible assumption | dsimp only | with_reducible intro _ | with_reducible apply State_updThr_canon
      | with_reducible apply State_setAcc_canon | with_reducible apply State_accStalls_canon
      | with_reducible apply State_loadTile_canon | with_reducible apply foldl_canon)

theorem State_cloadInto_canon (s : State) (t u : Nat) (lines : List (Nat × Word)) (tiles accs : List Nat) (h_s : State.Canonical s) : (State.cloadInto s t u lines tiles accs).Canon := by
  unfold State.cloadInto
  repeat' (first
      | with_reducible assumption | dsimp only | with_reducible refine @ite_canon_act _ _ _ _ ?_ ?_
      | with_reducible apply actRetire | with_reducible apply actHold | with_reducible apply actExc
      | with_reducible apply State_wakeBank_canon | with_reducible apply State_touchArea_canon
      | with_reducible apply State_loadAll_canon | split)

theorem State_cloadFrom_canon (s : State) (t u : Nat) (va : Word) (base : List (Nat × Word)) (h_s : State.Canonical s) : (State.cloadFrom s t u va base).Canon := by
  unfold State.cloadFrom
  repeat' (first
      | with_reducible assumption | dsimp only | with_reducible refine @ite_canon_act _ _ _ _ ?_ ?_
      | with_reducible apply actExc | with_reducible apply State_areaXlat_canon | with_reducible apply State_touchArea_canon
      | with_reducible apply State_cloadInto_canon | split)

theorem State_badFormat_canon (s : State) (t : Nat) (va : Word) (h_s : State.Canonical s) : OCanon (State.badFormat s t va) := by
  unfold State.badFormat
  repeat' (first
      | with_reducible assumption | with_reducible refine @ite_canon_opt _ _ _ _ ?_ ?_ | with_reducible apply optN
      | with_reducible apply optS | with_reducible apply State_ownNear_canon | with_reducible apply State_touchArea_canon
      | split | with_reducible refine snd_canon_eq (by with_reducible assumption) ?_)

theorem State_cloadTo_canon (s : State) (t u : Nat) (va : Word) (h_s : State.Canonical s) : (State.cloadTo s t u va).Canon := by
  unfold State.cloadTo
  repeat' (first
      | with_reducible assumption | dsimp only | with_reducible apply actExc | with_reducible apply State_areaXlat_canon
      | with_reducible apply State_cloadFrom_canon | with_reducible apply State_badFormat_canon | split
      | with_reducible refine optS_eq (by with_reducible assumption) ?_)

theorem State_cloadAct_canon (s : State) (t : Nat) (f : Body) (h_s : State.Canonical s) : (State.cloadAct s t f).Canon := by
  unfold State.cloadAct
  repeat' (first
      | with_reducible assumption | with_reducible apply actExc | with_reducible apply State_cloadTo_canon | split)

theorem execCload_canon (t : ThreadId) (cond : BitVec 4) (f : BitVec 52) (s : State) (h_s : State.Canonical s) : ResCanon (execCload t cond f s) := by
  unfold execCload
  repeat' (first
      | with_reducible assumption | with_reducible intro _ | with_reducible apply resNext
      | with_reducible apply State_issue_canon | with_reducible apply State_cloadAct_canon)

theorem State_setCad_canon (s : State) (k : Cad) (h_s : State.Canonical s) : State.Canonical (State.setCad s k) := by
  unfold State.setCad
  repeat' (first
      | with_reducible assumption | (fail_if_no_progress (with_reducible apply canon_mk; with_reducible apply Canon3.of)))

theorem State_setPool_canon (s : State) (p : Nat) (x : Pool) (h_s : State.Canonical s) : State.Canonical (State.setPool s p x) := by
  unfold State.setPool
  repeat' (first
      | with_reducible assumption | dsimp only | with_reducible apply State_setCad_canon)

theorem State_cadCount_canon (s : State) (k : Nat) (h_s : State.Canonical s) : State.Canonical (State.cadCount s k) := by
  unfold State.cadCount
  repeat' (first
      | with_reducible assumption | dsimp only | with_reducible apply State_setCad_canon)

theorem State_cadEvent_canon (s : State) (code cls loc det : Nat) (h_s : State.Canonical s) : State.Canonical (State.cadEvent s code cls loc det) := by
  unfold State.cadEvent
  repeat' (first
      | with_reducible assumption | with_reducible apply State_raise_canon)

theorem State_genlock_canon (s : State) (g : Genlock) (h_s : State.Canonical s) : State.Canonical (State.genlock s g) := by
  unfold State.genlock
  repeat' (first
      | with_reducible assumption | dsimp only | with_reducible apply State_hubLine_canon
      | with_reducible apply State_setCad_canon)

theorem State_frameBegins_canon (s : State) (h_s : State.Canonical s) : State.Canonical (State.frameBegins s) := by
  unfold State.frameBegins
  repeat' (first
      | with_reducible assumption | dsimp only | with_reducible refine @ite_canon _ _ _ _ ?_ ?_
      | with_reducible apply State_pulse_canon | with_reducible apply State_genlock_canon
      | (fail_if_no_progress (with_reducible apply canon_mk; with_reducible apply Canon3.of)))

theorem State_lockAt_canon (s : State) (e : Nat) (h_s : State.Canonical s) : State.Canonical (State.lockAt s e) := by
  unfold State.lockAt
  repeat' (first
      | with_reducible assumption | dsimp only | with_reducible apply State_setCad_canon
      | with_reducible apply State_genlock_canon | with_reducible apply State_frameBegins_canon)

theorem State_flywheel_canon (s : State) (f : BitVec 32) (off : Int) (h_s : State.Canonical s) : State.Canonical (State.flywheel s f off) := by
  unfold State.flywheel
  repeat' (first
      | with_reducible assumption | with_reducible apply State_cadEvent_canon | with_reducible apply State_genlock_canon)

theorem execCadSyncEdge_canon (s : State) (h_s : State.Canonical s) : ResCanon (execCadSyncEdge s) := by
  unfold execCadSyncEdge
  repeat' (first
      | with_reducible assumption | dsimp only | with_reducible refine @ite_canon _ _ _ _ ?_ ?_
      | with_reducible apply resNext | with_reducible apply State_setCad_canon | with_reducible apply State_lockAt_canon
      | with_reducible apply State_flywheel_canon | split)

theorem execSyncMissing_canon (s : State) (h_s : State.Canonical s) : ResCanon (execSyncMissing s) := by
  unfold execSyncMissing
  repeat' (first
      | with_reducible assumption | dsimp only | with_reducible refine @ite_canon _ _ _ _ ?_ ?_
      | with_reducible apply resNext | with_reducible apply State_flywheel_canon)

theorem execCadRefclkLoss_canon (s : State) (h_s : State.Canonical s) : ResCanon (execCadRefclkLoss s) := by
  unfold execCadRefclkLoss
  repeat' (first
      | with_reducible assumption | dsimp only | with_reducible apply resNext | with_reducible apply State_setCad_canon
      | with_reducible apply State_cadEvent_canon | with_reducible apply State_genlock_canon | split
      | (fail_if_no_progress (with_reducible apply canon_mk; with_reducible apply Canon3.of)))

theorem execVclkPllLock_canon (s : State) (h_s : State.Canonical s) : ResCanon (execVclkPllLock s) := by
  unfold execVclkPllLock
  repeat' (first
      | with_reducible assumption | dsimp only | with_reducible refine @ite_canon _ _ _ _ ?_ ?_
      | with_reducible refine @ite_canon_res _ _ _ _ ?_ ?_ | with_reducible apply resNext
      | with_reducible apply State_setCad_canon | split
      | (fail_if_no_progress (with_reducible apply canon_mk; with_reducible apply Canon3.of)))

theorem execFrameStart_canon (s : State) (h_s : State.Canonical s) : ResCanon (execFrameStart s) := by
  unfold execFrameStart
  repeat' (first
      | with_reducible assumption | dsimp only | with_reducible refine @ite_canon _ _ _ _ ?_ ?_
      | with_reducible apply resNext | with_reducible apply State_setCad_canon | with_reducible apply State_frameBegins_canon)

theorem execCadCtlRelock_canon (s : State) (h_s : State.Canonical s) : ResCanon (execCadCtlRelock s) := by
  unfold execCadCtlRelock
  repeat' (first
      | with_reducible assumption | dsimp only | with_reducible apply resNext | with_reducible apply State_byReg_canon
      | with_reducible apply State_setCad_canon)

theorem execCadCtlRetrain_canon (s : State) (h_s : State.Canonical s) : ResCanon (execCadCtlRetrain s) := by
  unfold execCadCtlRetrain
  repeat' (first
      | with_reducible assumption | dsimp only | with_reducible apply resNext | with_reducible apply State_byReg_canon
      | with_reducible apply State_setCad_canon)

theorem execCadenceRetrainDone_canon (s : State) (h_s : State.Canonical s) : ResCanon (execCadenceRetrainDone s) := by
  unfold execCadenceRetrainDone
  repeat' (first
      | with_reducible assumption | dsimp only | with_reducible refine @ite_canon _ _ _ _ ?_ ?_
      | with_reducible apply resNext | with_reducible apply State_setCad_canon)

theorem execCadenceLaneLossOfLock_canon (lanes : BitVec 4) (s : State) (h_s : State.Canonical s) : ResCanon (execCadenceLaneLossOfLock lanes s) := by
  unfold execCadenceLaneLossOfLock
  repeat' (first
      | with_reducible assumption | dsimp only | with_reducible refine @ite_canon _ _ _ _ ?_ ?_
      | with_reducible apply resNext | with_reducible apply State_setCad_canon | with_reducible apply State_cadEvent_canon)

theorem State_commitRefused_canon (s : State) (c sl : Nat) (f : BitVec 32) (h_s : State.Canonical s) : State.Canonical (State.commitRefused s c sl f) := by
  unfold State.commitRefused
  repeat' (first
      | with_reducible assumption | with_reducible apply State_cadCount_canon | with_reducible apply State_cadEvent_canon)

theorem State_commitSlice_canon (s : State) (v : Word) (h_s : State.Canonical s) : State.Canonical (State.commitSlice s v) := by
  unfold State.commitSlice
  repeat' (first
      | with_reducible assumption | dsimp only | with_reducible refine @ite_canon _ _ _ _ ?_ ?_
      | with_reducible apply State_touch_canon | with_reducible apply State_setCad_canon
      | with_reducible apply State_cadCount_canon | with_reducible apply State_commitRefused_canon)

theorem execCadCommit_canon (_w : Writer) (v : Word) (s : State) (h_s : State.Canonical s) : ResCanon (execCadCommit _w v s) := by
  unfold execCadCommit
  repeat' (first
      | with_reducible assumption | with_reducible apply resNext | with_reducible apply State_byReg_canon
      | with_reducible apply State_commitSlice_canon)

theorem execSliceComplete_canon (ch : Fin 4) (err : Bool) (s : State) (h_s : State.Canonical s) : ResCanon (execSliceComplete ch err s) := by
  unfold execSliceComplete
  repeat' (first
      | with_reducible assumption | dsimp only | with_reducible apply resNext | with_reducible apply State_setCad_canon)

theorem State_cadFlits_canon (s : State) (n : Nat) (l : List (Bool × List Byte)) (h : State.Canonical s) : State.Canonical (s.cadFlits n l) := by
  induction n generalizing s l with
  | zero => unfold State.cadFlits; exact h
  | succ n ih =>
    cases l with
    | nil => unfold State.cadFlits; exact h
    | cons b l =>
      unfold State.cadFlits
      dsimp only
      exact ih _ _ (State_emit_canon _ _ (State_setCad_canon _ _ h))

theorem State_cadSend_canon (s : State) (hdr body : List Byte) (h_s : State.Canonical s) : State.Canonical (State.cadSend s hdr body) := by
  unfold State.cadSend
  repeat' (first
      | with_reducible assumption | dsimp only | with_reducible apply State_cadFlits_canon)

theorem State_decideChan_canon (s : State) (f : BitVec 32) (sl c : Nat) (h_s : State.Canonical s) : State.Canonical (State.decideChan s f sl c) := by
  unfold State.decideChan
  repeat' (first
      | with_reducible assumption | dsimp only | with_reducible refine @ite_canon _ _ _ _ ?_ ?_
      | with_reducible apply State_pulse_canon | with_reducible apply State_hubRaise_canon
      | with_reducible apply State_setCad_canon | with_reducible apply State_cadCount_canon
      | with_reducible apply State_cadEvent_canon | with_reducible apply State_cadSend_canon)

theorem execCheckInstant_canon (frame : BitVec 32) (slice : BitVec 16) (s : State) (h_s : State.Canonical s) : ResCanon (execCheckInstant frame slice s) := by
  unfold execCheckInstant
  repeat' (first
      | with_reducible assumption | dsimp only | with_reducible refine @ite_canon _ _ _ _ ?_ ?_ | with_reducible intro _
      | with_reducible apply resNext | with_reducible apply State_setCad_canon | with_reducible apply State_decideChan_canon
      | with_reducible apply foldl_canon)

theorem execCadSubmit_canon (v : Word) (s : State) (h_s : State.Canonical s) : ResCanon (execCadSubmit v s) := by
  unfold execCadSubmit
  repeat' (first
      | with_reducible assumption | dsimp only | with_reducible refine @ite_canon _ _ _ _ ?_ ?_
      | with_reducible apply resNext | with_reducible apply State_byReg_canon | with_reducible apply State_setCad_canon
      | with_reducible apply State_cadEvent_canon)

theorem execAdmissionDecision_canon (s : State) (h_s : State.Canonical s) : ResCanon (execAdmissionDecision s) := by
  unfold execAdmissionDecision
  repeat' (first
      | with_reducible assumption | dsimp only | with_reducible refine @ite_canon _ _ _ _ ?_ ?_
      | with_reducible apply resNext | with_reducible apply State_touch_canon | with_reducible apply State_store_canon
      | with_reducible apply State_signal_canon | with_reducible apply State_setCad_canon
      | with_reducible apply State_setPool_canon | with_reducible apply State_cadCount_canon | split)

theorem execJobStart_canon (p : Fin 16) (s : State) (h_s : State.Canonical s) : ResCanon (execJobStart p s) := by
  unfold execJobStart
  repeat' (first
      | with_reducible assumption | dsimp only | with_reducible refine @ite_canon _ _ _ _ ?_ ?_
      | with_reducible apply resNext | with_reducible apply State_signal_canon | with_reducible apply State_setCad_canon
      | with_reducible apply State_setPool_canon | split)

theorem State_toGroup_canon (s : State) (r : MemReq) (h_s : State.Canonical s) : State.Canonical (State.toGroup s r) := by
  unfold State.toGroup
  repeat' (first
      | with_reducible assumption | dsimp only
      | (fail_if_no_progress (with_reducible apply canon_mk; with_reducible apply Canon3.of)))

theorem State_checkReq_canon (s : State) (m : Nat) (r : MemReq) (h_s : State.Canonical s) : State.Canonical (State.checkReq s m r) := by
  unfold State.checkReq
  repeat' (first
      | with_reducible assumption | dsimp only | with_reducible refine @ite_canon _ _ _ _ ?_ ?_ | with_reducible intro _
      | with_reducible apply State_reportIn_canon | with_reducible apply foldl_canon)

theorem State_setLines_canon (s : State) (k : Nat) (l : List PLine) (h_s : State.Canonical s) : State.Canonical (State.setLines s k l) := by
  unfold State.setLines
  repeat' (first
      | with_reducible assumption | (fail_if_no_progress (with_reducible apply canon_mk; with_reducible apply Canon3.of)))

theorem State_lookupSet_canon (s : State) (k : Nat) (r : MemReq) (h_s : State.Canonical s) : State.Canonical (State.lookupSet s k r) := by
  unfold State.lookupSet
  repeat' (first
      | with_reducible assumption | dsimp only | with_reducible refine @ite_canon _ _ _ _ ?_ ?_
      | with_reducible apply State_toGroup_canon | with_reducible apply State_checkReq_canon
      | with_reducible apply State_setLines_canon | split)

theorem State_setBkt_canon (s : State) (g : Nat) (c : Cls) (b : Bucket) (h_s : State.Canonical s) : State.Canonical (State.setBkt s g c b) := by
  unfold State.setBkt
  repeat' (first
      | with_reducible assumption | (fail_if_no_progress (with_reducible apply canon_mk; with_reducible apply Canon3.of)))

theorem State_admitOne_canon (s : State) (g : Nat) (c : Cls) (h_s : State.Canonical s) : OCanon (State.admitOne s g c) := by
  unfold State.admitOne
  repeat' (first
      | with_reducible assumption | dsimp only | with_reducible apply optN | with_reducible apply optS
      | with_reducible apply State_setBank_canon | split
      | (fail_if_no_progress (with_reducible apply canon_mk; with_reducible apply Canon3.of)))

theorem State_visit_canon (s : State) (g : Nat) (pay : Bool) (n : Nat) (h_s : State.Canonical s) : State.Canonical (State.visit s g pay n).1 := by
  unfold State.visit
  repeat' (first
      | with_reducible assumption | dsimp only | with_reducible refine @ite_canon _ _ _ _ ?_ ?_
      | with_reducible refine @ite_canon_fst _ _ _ _ _ ?_ ?_ | with_reducible intro _
      | with_reducible apply State_setBkt_canon | with_reducible apply State_admitOne_canon
      | with_reducible apply foldl_canon_fst | split | with_reducible refine optS_eq (by with_reducible assumption) ?_)

theorem execMemoryAdmission_canon (g : Fin 16) (s : State) (h_s : State.Canonical s) : ResCanon (execMemoryAdmission g s) := by
  unfold execMemoryAdmission
  repeat' (first
      | with_reducible assumption | dsimp only | with_reducible intro _ | with_reducible apply resNext
      | with_reducible apply State_visit_canon | with_reducible apply foldl_canon_fst)

theorem State_fillBuckets_canon (s : State) (g : Nat) (h_s : State.Canonical s) : State.Canonical (State.fillBuckets s g) := by
  unfold State.fillBuckets
  repeat' (first
      | with_reducible assumption | dsimp only | with_reducible intro _ | with_reducible apply State_setBkt_canon
      | with_reducible apply foldl_canon)

theorem State_upset_canon (s : State) (g : Nat) (syn : BitVec 24) (h : State.Canonical s) : State.Canonical (s.upset g syn) := by
  unfold State.upset
  split
  · exact h
  · exact ⟨h.1, kwf_kset _ _ _ _ h.2.1, h.2.2⟩

theorem State_burst_canon (s : State) (g : Nat) (syn : BitVec 24) (h_s : State.Canonical s) : State.Canonical (State.burst s g syn) := by
  unfold State.burst
  repeat' (first
      | with_reducible assumption | dsimp only | with_reducible refine @ite_canon _ _ _ _ ?_ ?_ | with_reducible intro _
      | with_reducible apply State_poisonLoads_canon | with_reducible apply State_upset_canon
      | with_reducible apply foldl_canon)

theorem execBankServe_canon (ch : Fin 96) (bank : Fin 16) (syn : BitVec 48) (s : State) (h_s : State.Canonical s) : ResCanon (execBankServe ch bank syn s) := by
  unfold execBankServe
  repeat' (first
      | with_reducible assumption | dsimp only | with_reducible refine @ite_canon _ _ _ _ ?_ ?_
      | with_reducible apply resNext | with_reducible apply State_setBank_canon | with_reducible apply State_checkReq_canon
      | with_reducible apply State_burst_canon | split)

theorem execRefresh_canon (ch : Fin 96) (s : State) (h_s : State.Canonical s) : ResCanon (execRefresh ch s) := by
  unfold execRefresh
  repeat' (first
      | with_reducible assumption | dsimp only | with_reducible refine @ite_canon _ _ _ _ ?_ ?_ | with_reducible intro _
      | with_reducible apply resNext | with_reducible apply State_setBank_canon | with_reducible apply foldl_canon)

theorem State_invalidate_canon (s : State) (u : Nat) (x : XInv) (h_s : State.Canonical s) : State.Canonical (State.invalidate s u x) := by
  unfold State.invalidate
  repeat' (first
      | with_reducible assumption | dsimp only | with_reducible refine @ite_canon _ _ _ _ ?_ ?_ | with_reducible intro _
      | with_reducible apply State_updCore_canon | with_reducible apply State_updEngine_canon
      | with_reducible apply foldl_canon
      | (fail_if_no_progress (with_reducible apply canon_mk; with_reducible apply Canon3.of)))

theorem State_setXinv_canon (s : State) (u : Nat) (x : XInv) (h_s : State.Canonical s) : State.Canonical (State.setXinv s u x) := by
  unfold State.setXinv
  repeat' (first
      | with_reducible assumption | (fail_if_no_progress (with_reducible apply canon_mk; with_reducible apply Canon3.of)))

theorem execXlatInv_canon (u : Fin 5) (v : Word) (s : State) (h_s : State.Canonical s) : ResCanon (execXlatInv u v s) := by
  unfold execXlatInv
  repeat' (first
      | with_reducible assumption | dsimp only | with_reducible refine @ite_canon _ _ _ _ ?_ ?_
      | with_reducible apply resNext | with_reducible apply State_byReg_canon | with_reducible apply State_invalidate_canon
      | with_reducible apply State_setXinv_canon)

theorem execXlatInvComplete_canon (u : Fin 5) (s : State) (h_s : State.Canonical s) : ResCanon (execXlatInvComplete u s) := by
  unfold execXlatInvComplete
  repeat' (first
      | with_reducible assumption | dsimp only | with_reducible refine @ite_canon _ _ _ _ ?_ ?_
      | with_reducible apply resNext | with_reducible apply State_invalidate_canon | with_reducible apply State_setXinv_canon)

theorem execLpddr6TrainingDone_canon (failed : Option (Fin 96)) (s : State) (h_s : State.Canonical s) : ResCanon (execLpddr6TrainingDone failed s) := by
  unfold execLpddr6TrainingDone
  repeat' (first
      | with_reducible assumption | dsimp only | with_reducible refine @ite_canon _ _ _ _ ?_ ?_
      | with_reducible apply resNext | with_reducible apply State_raise_canon | split
      | (fail_if_no_progress (with_reducible apply canon_mk; with_reducible apply Canon3.of)))

theorem execPackageOverTemperature_canon (pkg : Fin 24) (temp : Nat) (s : State) (h_s : State.Canonical s) : ResCanon (execPackageOverTemperature pkg temp s) := by
  unfold execPackageOverTemperature
  repeat' (first
      | with_reducible assumption | dsimp only | with_reducible refine @ite_canon _ _ _ _ ?_ ?_
      | with_reducible apply resNext | with_reducible apply State_raise_canon | with_reducible apply State_scFatal_canon
      | (fail_if_no_progress (with_reducible apply canon_mk; with_reducible apply Canon3.of)))

theorem State_seEvent_canon (s : State) (x seq code cls det : Nat) (h_s : State.Canonical s) : State.Canonical (State.seEvent s x seq code cls det) := by
  unfold State.seEvent
  repeat' (first
      | with_reducible assumption | with_reducible apply State_raiseEng_canon)

theorem State_farGet_canon (s : State) (x pa n : Nat) (h : Fetching) (acs : Acs) (h_s : State.Canonical s) : (State.farGet s x pa n h acs).Canon := by
  unfold State.farGet
  repeat' (first
      | with_reducible assumption | dsimp only | with_reducible refine @ite_canon _ _ _ _ ?_ ?_
      | with_reducible refine @ite_canon_got _ _ _ _ ?_ ?_ | with_reducible apply gotW | with_reducible apply gotG
      | with_reducible apply State_updCtx_canon | with_reducible apply State_hostLoad_canon
      | with_reducible apply State_hostBme_canon | with_reducible apply State_remoteRead_canon | split)

theorem State_ctxNote_canon (s : State) (x : Nat) (k : Access) (va : Nat) (h_s : State.Canonical s) : State.Canonical (State.ctxNote s x k va) := by
  unfold State.ctxNote
  repeat' (first
      | with_reducible assumption | with_reducible apply State_xlatNote_canon)

theorem State_fetchVa_canon (s : State) (x va n : Nat) (h : Fetching) (h_s : State.Canonical s) : (State.fetchVa s x va n h).Canon := by
  unfold State.fetchVa
  repeat' (first
      | with_reducible assumption | dsimp only | with_reducible refine @ite_canon _ _ _ _ ?_ ?_
      | with_reducible refine @ite_canon_got _ _ _ _ ?_ ?_ | with_reducible apply gotG
      | with_reducible apply State_touch_canon | with_reducible apply State_farGet_canon
      | with_reducible apply State_ctxNote_canon | split)

theorem State_side_canon (s : State) (x va n : Nat) (h_s : State.Canonical s) : ECanon3 (State.side s x va n) := by
  unfold State.side
  repeat' (first
      | with_reducible assumption | dsimp only | with_reducible refine @ite_canon_ex3 _ _ _ _ _ _ ?_ ?_
      | with_reducible apply ex3E | with_reducible apply ex3O | with_reducible apply State_fetchVa_canon | split
      | with_reducible refine gotW_eq (by with_reducible assumption) ?_
      | with_reducible refine gotG_eq (by with_reducible assumption) ?_)

theorem State_farDrop_canon (s : State) (x : Nat) (h_s : State.Canonical s) : State.Canonical (State.farDrop s x) := by
  unfold State.farDrop
  repeat' (first
      | with_reducible assumption | with_reducible refine @ite_canon _ _ _ _ ?_ ?_ | with_reducible apply State_updCtx_canon)

theorem State_putVa_canon (s : State) (x va : Nat) (bs : List Byte) (h_s : State.Canonical s) : State.Canonical (State.putVa s x va bs) := by
  unfold State.putVa
  repeat' (first
      | with_reducible assumption | dsimp only | with_reducible refine @ite_canon _ _ _ _ ?_ ?_
      | with_reducible apply State_put_canon | with_reducible apply State_ctxNote_canon | split)

theorem State_seRecord_canon (s : State) (x : Nat) (d : DescRun) (status heldOut heldIn lastSeq : Nat) (h_s : State.Canonical s) : State.Canonical (State.seRecord s x d status heldOut heldIn lastSeq) := by
  unfold State.seRecord
  repeat' (first
      | with_reducible assumption | dsimp only | with_reducible refine @ite_canon _ _ _ _ ?_ ?_ | with_reducible intro _
      | with_reducible apply State_draw_canon | with_reducible apply State_updCtx_canon
      | with_reducible apply State_hubRaise_canon | with_reducible apply State_bellRaise_canon
      | with_reducible apply State_seEvent_canon | with_reducible apply State_putVa_canon | with_reducible apply foldl_canon)

theorem State_setRun_canon (s : State) (x i : Nat) (d : DescRun) (h_s : State.Canonical s) : State.Canonical (State.setRun s x i d) := by
  unfold State.setRun
  repeat' (first
      | with_reducible assumption | with_reducible apply State_updCtx_canon)

theorem State_leaveSrc_canon (s : State) (d : DescRun) (h_s : State.Canonical s) : State.Canonical (State.leaveSrc s d) := by
  unfold State.leaveSrc
  repeat' (first
      | with_reducible assumption | with_reducible refine @ite_canon _ _ _ _ ?_ ?_ | with_reducible apply State_tileTo_canon)

theorem State_leaveDst_canon (s : State) (d : DescRun) (h_s : State.Canonical s) : State.Canonical (State.leaveDst s d) := by
  unfold State.leaveDst
  repeat' (first
      | with_reducible assumption | with_reducible refine @ite_canon _ _ _ _ ?_ ?_ | with_reducible apply State_tileTo_canon)

theorem State_unitDone_canon (s : State) (x : Nat) (d : DescRun) (h_s : State.Canonical s) : State.Canonical (State.unitDone s x d).1 := by
  unfold State.unitDone
  repeat' (first
      | with_reducible assumption | dsimp only | with_reducible refine @ite_canon _ _ _ _ ?_ ?_
      | with_reducible refine @ite_canon_fst _ _ _ _ _ ?_ ?_ | with_reducible apply State_updEngine_canon
      | with_reducible apply State_pulse_canon | with_reducible apply State_hubRaise_canon
      | with_reducible apply State_seEvent_canon)

theorem State_seSignals_canon (s : State) (x : Nat) (d : DescRun) (h_s : State.Canonical s) (n__ : Nat) : State.Canonical ((State.seSignals s x d) n__).1 := by
  induction n__ generalizing s x d with
  | zero =>
    unfold State.seSignals
    repeat' (first
        | with_reducible assumption)
  | succ n__ ih =>
    unfold State.seSignals
    repeat' (first
        | with_reducible apply ih | with_reducible assumption | dsimp only | with_reducible refine @ite_canon _ _ _ _ ?_ ?_
        | with_reducible refine @ite_canon_fst _ _ _ _ _ ?_ ?_ | with_reducible apply State_signal_canon
        | with_reducible apply State_unitDone_canon)

theorem State_closeUnits_canon (s : State) (x : Nat) (d : DescRun) (h_s : State.Canonical s) (n__ : Nat) : State.Canonical ((State.closeUnits s x d) n__).1 := by
  induction n__ generalizing s x d with
  | zero =>
    unfold State.closeUnits
    repeat' (first
        | with_reducible assumption)
  | succ n__ ih =>
    unfold State.closeUnits
    repeat' (first
        | with_reducible apply ih | with_reducible assumption | dsimp only
        | with_reducible refine @ite_canon_fst _ _ _ _ _ ?_ ?_ | with_reducible apply State_unitDone_canon)

theorem State_signalRuns_canon (s : State) (x i : Nat) (l : List DescRun) (h : State.Canonical s) : State.Canonical (s.signalRuns x i l) := by
  induction l generalizing s i with
  | nil => unfold State.signalRuns; exact h
  | cons d l ih =>
    unfold State.signalRuns
    have h1 := State_setRun_canon _ x i (s.seSignals x d (2 * d.units)).2 (State_seSignals_canon s x d h (2 * d.units))
    split
    · exact h
    · dsimp only
      split
      · exact ih _ _ h1
      · exact h1

theorem State_planIndexed_canon (s : State) (x : Nat) (d : DescRun) (r : Nat) (h_s : State.Canonical s) : ECanonM (State.planIndexed s x d r) := by
  unfold State.planIndexed
  repeat' (first
      | with_reducible assumption | dsimp only | with_reducible refine @ite_canon_exm _ _ _ _ _ _ ?_ ?_
      | with_reducible apply exmE | with_reducible apply exmO | with_reducible apply State_side_canon | split
      | with_reducible refine ex3E_eq (by with_reducible assumption) ?_
      | with_reducible refine ex3O_eq (by with_reducible assumption) ?_)

theorem State_planMasked_canon (s : State) (x : Nat) (d : DescRun) (r : Nat) (h_s : State.Canonical s) : ECanonM (State.planMasked s x d r) := by
  unfold State.planMasked
  repeat' (first
      | with_reducible assumption | dsimp only | with_reducible refine @ite_canon_exm _ _ _ _ _ _ ?_ ?_
      | with_reducible apply exmE | with_reducible apply exmO | with_reducible apply State_side_canon
      | with_reducible apply State_planIndexed_canon | split
      | with_reducible refine exmE_eq (by with_reducible assumption) ?_
      | with_reducible refine exmO_eq (by with_reducible assumption) ?_
      | with_reducible refine ex3E_eq (by with_reducible assumption) ?_
      | with_reducible refine ex3O_eq (by with_reducible assumption) ?_)

theorem State_planDispatch_canon (s : State) (x : Nat) (d : DescRun) (r : Nat) (h_s : State.Canonical s) : ECanonM (State.planDispatch s x d r) := by
  unfold State.planDispatch
  repeat' (first
      | with_reducible assumption | dsimp only | with_reducible refine @ite_canon_exm _ _ _ _ _ _ ?_ ?_
      | with_reducible apply exmE | with_reducible apply exmO | with_reducible apply State_side_canon | split
      | with_reducible refine ex3E_eq (by with_reducible assumption) ?_
      | with_reducible refine ex3O_eq (by with_reducible assumption) ?_)

theorem State_planCombine_canon (s : State) (x : Nat) (d : DescRun) (r : Nat) (h_s : State.Canonical s) : ECanonM (State.planCombine s x d r) := by
  unfold State.planCombine
  repeat' (first
      | with_reducible assumption | dsimp only | with_reducible refine @ite_canon_exm _ _ _ _ _ _ ?_ ?_
      | with_reducible apply exmE | with_reducible apply exmO | with_reducible apply State_side_canon | split
      | with_reducible refine ex3E_eq (by with_reducible assumption) ?_
      | with_reducible refine ex3O_eq (by with_reducible assumption) ?_)

theorem State_planRow_fresh_canon (s : State) (x : Nat) (d : DescRun) (r : Nat) (h : State.Canonical s) : ECanonM (State.planRow.fresh s x d r) := by
  have hp : ECanonM (match d.op with
      | 3 => s.planDispatch x d r
      | 4 => s.planCombine x d r
      | _ => s.planMasked x d r) := by
    split
    · exact State_planDispatch_canon _ _ _ _ h
    · exact State_planCombine_canon _ _ _ _ h
    · exact State_planMasked_canon _ _ _ _ h
  unfold State.planRow.fresh
  dsimp only
  split
  · rename_i e he
    exact exmE_eq he hp
  · rename_i p s1 d1 he
    exact State_farDrop_canon _ _ (exmO_eq he hp)

theorem State_planRow_canon (s : State) (x : Nat) (d : DescRun) (r : Nat) (h : State.Canonical s) : ECanonM (s.planRow x d r) := by
  unfold State.planRow
  split
  · split
    · exact h
    · exact State_planRow_fresh_canon _ _ _ _ h
  · exact State_planRow_fresh_canon _ _ _ _ h

theorem State_freeBytes_canon (s : State) (n : Nat) (h_s : State.Canonical s) : State.Canonical (State.freeBytes s n).2 := by
  unfold State.freeBytes
  repeat' (first
      | with_reducible assumption | dsimp only
      | (fail_if_no_progress (with_reducible apply canon_mk; with_reducible apply Canon3.of)))

theorem State_dropAhead_canon (s : State) (x i : Nat) (d : DescRun) (leave : State → State) (h_s : State.Canonical s) (h_leave : ∀ s, State.Canonical s → State.Canonical (leave s)) : State.Canonical (State.dropAhead s x i d leave) := by
  unfold State.dropAhead
  repeat' (first
      | with_reducible assumption | with_reducible refine @ite_canon _ _ _ _ ?_ ?_ | with_reducible apply State_setRun_canon
      | with_reducible apply h_leave)

theorem State_noteMask_canon (s : State) (x : Nat) (d : DescRun) (r : Nat) (p : RowPlan) (h_s : State.Canonical s) : State.Canonical (State.noteMask s x d r p).1 := by
  unfold State.noteMask
  repeat' (first
      | with_reducible assumption | dsimp only | with_reducible apply State_seEvent_canon | split)

set_option maxHeartbeats 2000000 in
theorem State_readElem_canon (s : State) (x i : Nat) (d : DescRun) (key : Option ReqKey) (h_s : State.Canonical s) : (State.readElem s x i d key).Canon := by
  unfold State.readElem
  repeat' (first
      | with_reducible assumption | dsimp only | with_reducible refine @ite_canon _ _ _ _ ?_ ?_
      | with_reducible refine @ite_canon_ent _ _ _ _ ?_ ?_ | with_reducible intro _ | with_reducible apply entI
      | with_reducible apply entS | with_reducible apply State_tileTo_canon | with_reducible apply State_ctxNote_canon
      | with_reducible apply State_fetchVa_canon | with_reducible apply State_setRun_canon
      | with_reducible apply State_planRow_canon | with_reducible apply State_freeBytes_canon
      | with_reducible apply State_dropAhead_canon | with_reducible apply State_noteMask_canon | split
      | with_reducible refine gotW_eq (by with_reducible assumption) ?_
      | with_reducible refine gotG_eq (by with_reducible assumption) ?_
      | with_reducible refine exmE_eq (by with_reducible assumption) ?_
      | with_reducible refine exmO_eq (by with_reducible assumption) ?_)

theorem State_readLoop_canon (s : State) (x i : Nat) (d : DescRun) (key : Option ReqKey) (got : Bool) (h_s : State.Canonical s) (n__ : Nat) : State.Canonical ((State.readLoop s x i d key got) n__).1 := by
  induction n__ generalizing s x i d key got with
  | zero =>
    unfold State.readLoop
    repeat' (first
        | with_reducible assumption)
  | succ n__ ih =>
    unfold State.readLoop
    repeat' (first
        | with_reducible apply ih | with_reducible assumption | dsimp only
        | with_reducible refine @ite_canon_fst _ _ _ _ _ ?_ ?_ | with_reducible apply State_readElem_canon | split
        | with_reducible refine entI_eq (by with_reducible assumption) ?_
        | with_reducible refine entS_eq (by with_reducible assumption) ?_)

theorem State_takeReq_canon (s : State) (x : Nat) (key : Option ReqKey) (h_s : State.Canonical s) : State.Canonical (State.takeReq s x key) := by
  unfold State.takeReq
  repeat' (first
      | with_reducible assumption | with_reducible refine @ite_canon _ _ _ _ ?_ ?_ | with_reducible apply State_touch_canon
      | split)

theorem State_readNext_fst_canon (s : State) (x : Nat) (h : State.Canonical s) (s1 : State) (b : List BankSlot) (e : (s.readNext x).1 = some (s1, b)) : State.Canonical s1 := by
  unfold State.readNext at e
  split at e
  · simp at e
  · dsimp only at e
    split at e
    · simp at e
    · have e1 := congrArg (fun o => (o.map Prod.fst).getD s) e
      dsimp only [Option.map, Option.getD] at e1
      rw [← e1]
      refine State_farDrop_canon _ _ (State_setRun_canon _ _ _ _ (State_takeReq_canon _ _ _ ?_))
      refine ite_canon (State_leaveSrc_canon _ _ ?_) ?_ <;> exact State_readLoop_canon _ _ _ _ _ _ h _

theorem State_readNext_canon (s : State) (x : Nat) (h : State.Canonical s) : State.Canonical (s.readNext x).2 := by
  unfold State.readNext
  split
  · exact h
  · dsimp only
    split
    · exact State_readLoop_canon _ _ _ _ _ _ h _
    · exact h

theorem State_passFar_canon (s : State) (x : Nat) (h_s : State.Canonical s) : State.Canonical (State.passFar s x) := by
  unfold State.passFar
  repeat' (first
      | with_reducible assumption | with_reducible apply State_updCtx_canon)

theorem State_cancelled_canon (s : State) (x : Nat) (h_s : State.Canonical s) : State.Canonical (State.cancelled s x) := by
  unfold State.cancelled
  repeat' (first
      | with_reducible assumption | dsimp only | with_reducible refine @ite_canon _ _ _ _ ?_ ?_ | with_reducible intro _
      | with_reducible apply State_updCtx_canon | with_reducible apply State_seRecord_canon
      | with_reducible apply State_leaveSrc_canon | with_reducible apply State_leaveDst_canon
      | with_reducible apply foldl_canon | split)

theorem State_seSettle_canon (s : State) (x : Nat) (h_s : State.Canonical s) (n__ : Nat) : State.Canonical ((State.seSettle s x) n__) := by
  induction n__ generalizing s x with
  | zero =>
    unfold State.seSettle
    repeat' (first
        | with_reducible assumption)
  | succ n__ ih =>
    unfold State.seSettle
    repeat' (first
        | with_reducible apply ih | with_reducible assumption | dsimp only | with_reducible refine @ite_canon _ _ _ _ ?_ ?_
        | with_reducible apply State_updCtx_canon | with_reducible apply State_seRecord_canon
        | with_reducible apply State_setRun_canon | with_reducible apply State_closeUnits_canon
        | with_reducible apply State_signalRuns_canon | with_reducible apply State_cancelled_canon | split)

theorem State_seDone_canon (s : State) (x : Nat) (h_s : State.Canonical s) : State.Canonical (State.seDone s x) := by
  unfold State.seDone
  repeat' (first
      | with_reducible assumption | with_reducible apply State_seSettle_canon)

theorem State_seGo_canon (s : State) (x : Nat) (h_s : State.Canonical s) : State.Canonical (State.seGo s x) := by
  unfold State.seGo
  repeat' (first
      | with_reducible assumption | dsimp only | with_reducible refine @ite_canon _ _ _ _ ?_ ?_
      | with_reducible apply State_setCtx_canon | with_reducible apply State_seEvent_canon)

theorem execSeGo_canon (x : CtxId) (s : State) (h_s : State.Canonical s) : ResCanon (execSeGo x s) := by
  unfold execSeGo
  repeat' (first
      | with_reducible assumption | with_reducible apply resNext | with_reducible apply State_byReg_canon
      | with_reducible apply State_seGo_canon)

theorem State_descRead_canon (s : State) (x op : Nat) (h_s : State.Canonical s) : State.Canonical (State.descRead s x op) := by
  unfold State.descRead
  repeat' (first
      | with_reducible assumption | dsimp only | with_reducible refine @ite_canon _ _ _ _ ?_ ?_
      | with_reducible apply State_updCtx_canon | with_reducible apply State_seEvent_canon
      | with_reducible apply State_fetchVa_canon | with_reducible apply State_seDone_canon | split
      | with_reducible refine gotW_eq (by with_reducible assumption) ?_
      | with_reducible refine gotG_eq (by with_reducible assumption) ?_)

theorem execSeCopy_canon (x : CtxId) (s : State) (h_s : State.Canonical s) : ResCanon (execSeCopy x s) := by
  unfold execSeCopy
  repeat' (first
      | with_reducible assumption | with_reducible apply resNext | with_reducible apply State_descRead_canon)

theorem execSeGather_canon (x : CtxId) (s : State) (h_s : State.Canonical s) : ResCanon (execSeGather x s) := by
  unfold execSeGather
  repeat' (first
      | with_reducible assumption | with_reducible apply resNext | with_reducible apply State_descRead_canon)

theorem execSeScatter_canon (x : CtxId) (s : State) (h_s : State.Canonical s) : ResCanon (execSeScatter x s) := by
  unfold execSeScatter
  repeat' (first
      | with_reducible assumption | with_reducible apply resNext | with_reducible apply State_descRead_canon)

theorem execSeDispatch_canon (x : CtxId) (s : State) (h_s : State.Canonical s) : ResCanon (execSeDispatch x s) := by
  unfold execSeDispatch
  repeat' (first
      | with_reducible assumption | with_reducible apply resNext | with_reducible apply State_descRead_canon)

theorem execSeCombine_canon (x : CtxId) (s : State) (h_s : State.Canonical s) : ResCanon (execSeCombine x s) := by
  unfold execSeCombine
  repeat' (first
      | with_reducible assumption | with_reducible apply resNext | with_reducible apply State_descRead_canon)

theorem execSeTakeGranted_canon (x : CtxId) (out : Bool) (s : State) (h_s : State.Canonical s) : ResCanon (execSeTakeGranted x out s) := by
  unfold execSeTakeGranted
  repeat' (first
      | with_reducible assumption | dsimp only | with_reducible refine @ite_canon _ _ _ _ ?_ ?_
      | with_reducible apply resNext | with_reducible apply State_setSem_canon | with_reducible apply State_setRun_canon
      | split)

theorem execSeReadReturn_canon (x : CtxId) (s : State) (h : State.Canonical s) : ResCanon (execSeReadReturn x s) := by
  unfold execSeReadReturn
  dsimp only
  refine resNext (ite_canon (ite_canon h ?_) (ite_canon h ?_))
  · exact State_seDone_canon _ _ (State_updEngine_canon _ _ _ (State_updCtx_canon _ _ _ h))
  · have h2 := State_readNext_canon s x.val h
    split
    · rename_i s1 he
      rw [he] at h2; exact h2
    · rename_i s1 b s2 he
      exact State_seDone_canon _ _ (State_readNext_fst_canon s x.val h s1 b (by rw [he]))

theorem State_storeBlock_canon (s : State) (base : Nat) (l : List (Int × List Byte × Bool)) (acs : Acs) (h_s : State.Canonical s) : State.Canonical (State.storeBlock s base l acs) := by
  unfold State.storeBlock
  repeat' (first
      | with_reducible assumption | dsimp only | with_reducible refine @ite_canon _ _ _ _ ?_ ?_ | with_reducible intro _
      | with_reducible apply State_sendReq_canon | with_reducible apply State_poke_canon
      | with_reducible apply State_sealAs_canon | with_reducible apply foldl_canon | split)

theorem State_storeTile_canon (s : State) (ref : Nat) (l : List (Int × List Byte × Bool)) (h_s : State.Canonical s) : State.Canonical (State.storeTile s ref l) := by
  unfold State.storeTile
  repeat' (first
      | with_reducible assumption | dsimp only | with_reducible apply State_setTile_canon)

theorem State_remoteElems_canon (s : State) (x pa : Nat) (l : List (Int × List Byte × Bool)) (acs : Acs) (h_s : State.Canonical s) : State.Canonical (State.remoteElems s x pa l acs) := by
  unfold State.remoteElems
  repeat' (first
      | with_reducible assumption | dsimp only | with_reducible apply State_request_canon)

theorem State_leaveElem_canon (s : State) (x : Nat) (d : DescRun) (el : Elem) (w : WriteEnd) (h_s : State.Canonical s) : State.Canonical (State.leaveElem s x d el w).1 := by
  unfold State.leaveElem
  repeat' (first
      | with_reducible assumption | dsimp only | with_reducible refine @ite_canon _ _ _ _ ?_ ?_
      | with_reducible refine @ite_canon_fst _ _ _ _ _ ?_ ?_ | with_reducible apply State_seEvent_canon)

theorem State_leaveBatch_canon (s : State) (x i : Nat) (d : DescRun) (n : Nat) (w : WriteEnd) (h_s : State.Canonical s) : State.Canonical (State.leaveBatch s x i d n w) := by
  unfold State.leaveBatch
  repeat' (first
      | with_reducible assumption | dsimp only | with_reducible refine @ite_canon _ _ _ _ ?_ ?_ | with_reducible intro _
      | with_reducible apply State_updCtx_canon | with_reducible apply State_setRun_canon
      | with_reducible apply State_leaveDst_canon | with_reducible apply State_seDone_canon
      | with_reducible apply State_leaveElem_canon | with_reducible apply foldl_canon_fst)

theorem State_groupMaps_canon (s : State) (x : Nat) (l : List Elem) (h_s : State.Canonical s) : State.Canonical (State.groupMaps s x l) := by
  unfold State.groupMaps
  repeat' (first
      | with_reducible assumption | with_reducible intro _ | with_reducible apply State_putVa_canon
      | with_reducible apply foldl_canon | split)

theorem State_writeBatch_canon (s : State) (x i : Nat) (d : DescRun) (b : Batch) (h_s : State.Canonical s) : State.Canonical (State.writeBatch s x i d b) := by
  unfold State.writeBatch
  repeat' (first
      | with_reducible assumption | dsimp only | with_reducible refine @ite_canon _ _ _ _ ?_ ?_ | with_reducible intro _
      | with_reducible apply State_updCtx_canon | with_reducible apply State_hostStore_canon
      | with_reducible apply State_tileOpen_canon | with_reducible apply State_wakeBank_canon
      | with_reducible apply State_commitSlice_canon | with_reducible apply State_ctxNote_canon
      | with_reducible apply State_storeBlock_canon | with_reducible apply State_storeTile_canon
      | with_reducible apply State_remoteElems_canon | with_reducible apply State_leaveBatch_canon
      | with_reducible apply State_groupMaps_canon | with_reducible apply foldl_canon | split)

theorem execSeWriteAccepted_canon (x : CtxId) (s : State) (h_s : State.Canonical s) : ResCanon (execSeWriteAccepted x s) := by
  unfold execSeWriteAccepted
  repeat' (first
      | with_reducible assumption | dsimp only | with_reducible refine @ite_canon _ _ _ _ ?_ ?_
      | with_reducible apply resNext | with_reducible apply State_updCtx_canon | with_reducible apply State_putVa_canon
      | with_reducible apply State_setRun_canon | with_reducible apply State_seDone_canon
      | with_reducible apply State_leaveBatch_canon | with_reducible apply State_writeBatch_canon | split)

theorem State_seCancel_canon (s : State) (x : Nat) (h_s : State.Canonical s) : State.Canonical (State.seCancel s x) := by
  unfold State.seCancel
  repeat' (first
      | with_reducible assumption | dsimp only | with_reducible refine @ite_canon _ _ _ _ ?_ ?_
      | with_reducible apply State_setCtx_canon | with_reducible apply State_seDone_canon)

theorem execSeCancel_canon (x : CtxId) (s : State) (h_s : State.Canonical s) : ResCanon (execSeCancel x s) := by
  unfold execSeCancel
  repeat' (first
      | with_reducible assumption | with_reducible apply resNext | with_reducible apply State_byReg_canon
      | with_reducible apply State_seCancel_canon)

theorem State_excludeCtxs_canon (s : State) (c : Cls) (h_s : State.Canonical s) : State.Canonical (State.excludeCtxs s c) := by
  unfold State.excludeCtxs
  repeat' (first
      | with_reducible assumption | dsimp only
      | (fail_if_no_progress (with_reducible apply canon_mk; with_reducible apply Canon3.of)))

theorem State_admitCtxs_canon (s : State) (c : Cls) (h_s : State.Canonical s) : State.Canonical (State.admitCtxs s c) := by
  unfold State.admitCtxs
  repeat' (first
      | with_reducible assumption | dsimp only
      | (fail_if_no_progress (with_reducible apply canon_mk; with_reducible apply Canon3.of)))

theorem execPoolCacheLookup_canon (d : DieId) (s : State) (h_s : State.Canonical s) : ResCanon (execPoolCacheLookup d s) := by
  unfold execPoolCacheLookup
  repeat' (first
      | with_reducible assumption | dsimp only | with_reducible refine @ite_canon _ _ _ _ ?_ ?_
      | with_reducible apply resNext | with_reducible apply State_toGroup_canon | with_reducible apply State_lookupSet_canon
      | split | (fail_if_no_progress (with_reducible apply canon_mk; with_reducible apply Canon3.of)))

theorem State_dueTick_canon (s : State) (x : Nat) (h_s : State.Canonical s) : State.Canonical (State.dueTick s x) := by
  unfold State.dueTick
  repeat' (first
      | with_reducible assumption | dsimp only | with_reducible refine @ite_canon _ _ _ _ ?_ ?_
      | with_reducible apply State_setCtx_canon)

theorem State_bankTick_canon (s : State) (e : Nat) (h_s : State.Canonical s) : State.Canonical (State.bankTick s e) := by
  unfold State.bankTick
  repeat' (first
      | with_reducible assumption | with_reducible refine @ite_canon _ _ _ _ ?_ ?_
      | with_reducible apply State_updEngine_canon)

end Sys2Proof.Machine
end

