-- ==== Sys2Proof/Laws/CanonicalSystem.lean ====
section
/-! SUPPORT. Every operation and meaning keeps the canonical form: training, Peloton, links, gearing, firmware, power, security and the host. -/

set_option linter.all false
namespace Sys2Proof.Machine

theorem State_writeSeq_canon (s : State) (e : Nat) (v : Word) (h_s : State.Canonical s) : State.Canonical (State.writeSeq s e v) := by
  unfold State.writeSeq
  repeat' (first
      | with_reducible assumption | with_reducible refine @ite_canon _ _ _ _ ?_ ?_ | with_reducible apply State_raise_canon
      | (fail_if_no_progress (with_reducible apply canon_mk; with_reducible apply Canon3.of)))

theorem execSeqEntryWrite_canon (e : Fin 1024) (v : Word) (s : State) (h_s : State.Canonical s) : ResCanon (execSeqEntryWrite e v s) := by
  unfold execSeqEntryWrite
  repeat' (first
      | with_reducible assumption | with_reducible apply resNext | with_reducible apply State_byReg_canon
      | with_reducible apply State_writeSeq_canon)

theorem State_clearDone_canon (s : State) (h_s : State.Canonical s) : State.Canonical (State.clearDone s) := by
  unfold State.clearDone
  repeat' (first
      | with_reducible assumption | (fail_if_no_progress (with_reducible apply canon_mk; with_reducible apply Canon3.of)))

theorem execStepTokensRead_canon (s : State) (h_s : State.Canonical s) : ResCanon (execStepTokensRead s) := by
  unfold execStepTokensRead
  repeat' (first
      | with_reducible assumption | with_reducible apply resNext | with_reducible apply State_emit_canon)

theorem State_retryAll_canon (s : State) (h_s : State.Canonical s) : State.Canonical (State.retryAll s) := by
  unfold State.retryAll
  repeat' (first
      | with_reducible assumption | with_reducible intro _ | with_reducible apply State_retryMisses_canon
      | with_reducible apply foldl_canon)

theorem State_settleCtxs_canon (s : State) (c : Cls) (h_s : State.Canonical s) : State.Canonical (State.settleCtxs s c) := by
  unfold State.settleCtxs
  repeat' (first
      | with_reducible assumption | with_reducible refine @ite_canon _ _ _ _ ?_ ?_ | with_reducible intro _
      | with_reducible apply State_seDone_canon | with_reducible apply foldl_canon)

theorem State_openWindow_canon (s : State) (h_s : State.Canonical s) : State.Canonical (State.openWindow s) := by
  unfold State.openWindow
  repeat' (first
      | with_reducible assumption | dsimp only | with_reducible apply State_excludeCtxs_canon
      | with_reducible apply State_admitCtxs_canon | with_reducible apply State_retryAll_canon
      | with_reducible apply State_settleCtxs_canon
      | (fail_if_no_progress (with_reducible apply canon_mk; with_reducible apply Canon3.of)))

theorem State_closeWindow_canon (s : State) (h_s : State.Canonical s) : State.Canonical (State.closeWindow s) := by
  unfold State.closeWindow
  repeat' (first
      | with_reducible assumption | dsimp only | with_reducible refine @ite_canon _ _ _ _ ?_ ?_
      | with_reducible apply State_excludeCtxs_canon | with_reducible apply State_admitCtxs_canon
      | with_reducible apply State_retryAll_canon | with_reducible apply State_settleCtxs_canon | split
      | (fail_if_no_progress (with_reducible apply canon_mk; with_reducible apply Canon3.of)))

theorem State_askWindow_canon (s : State) (h_s : State.Canonical s) : State.Canonical (State.askWindow s) := by
  unfold State.askWindow
  repeat' (first
      | with_reducible assumption | dsimp only | with_reducible refine @ite_canon _ _ _ _ ?_ ?_
      | with_reducible apply State_openWindow_canon
      | (fail_if_no_progress (with_reducible apply canon_mk; with_reducible apply Canon3.of)))

theorem State_stepReset_canon (s : State) (h_s : State.Canonical s) : State.Canonical (State.stepReset s) := by
  unfold State.stepReset
  repeat' (first
      | with_reducible assumption | dsimp only
      | (fail_if_no_progress (with_reducible apply canon_mk; with_reducible apply Canon3.of)))

theorem State_stepCtl_canon (s : State) (v : Word) (h_s : State.Canonical s) : State.Canonical (State.stepCtl s v) := by
  unfold State.stepCtl
  repeat' (first
      | with_reducible assumption | dsimp only | with_reducible refine @ite_canon _ _ _ _ ?_ ?_
      | with_reducible apply State_closeWindow_canon | with_reducible apply State_askWindow_canon
      | with_reducible apply State_stepReset_canon)

theorem execStepCtlReset_canon (s : State) (h_s : State.Canonical s) : ResCanon (execStepCtlReset s) := by
  unfold execStepCtlReset
  repeat' (first
      | with_reducible assumption | with_reducible apply resNext | with_reducible apply State_byReg_canon
      | with_reducible apply State_stepCtl_canon)

theorem execEvalOpen_canon (s : State) (h_s : State.Canonical s) : ResCanon (execEvalOpen s) := by
  unfold execEvalOpen
  repeat' (first
      | with_reducible assumption | with_reducible apply resNext | with_reducible apply State_byReg_canon
      | with_reducible apply State_stepCtl_canon)

theorem execEvalClose_canon (s : State) (h_s : State.Canonical s) : ResCanon (execEvalClose s) := by
  unfold execEvalClose
  repeat' (first
      | with_reducible assumption | with_reducible apply resNext | with_reducible apply State_byReg_canon
      | with_reducible apply State_stepCtl_canon)

theorem execEvalLimitExpiry_canon (s : State) (h_s : State.Canonical s) : ResCanon (execEvalLimitExpiry s) := by
  unfold execEvalLimitExpiry
  repeat' (first
      | with_reducible assumption | with_reducible refine @ite_canon _ _ _ _ ?_ ?_ | with_reducible apply resNext
      | with_reducible apply State_closeWindow_canon)

theorem State_writeStepCfg_canon (s : State) (v : Word) (h_s : State.Canonical s) : State.Canonical (State.writeStepCfg s v) := by
  unfold State.writeStepCfg
  repeat' (first
      | with_reducible assumption | dsimp only | with_reducible refine @ite_canon _ _ _ _ ?_ ?_
      | (fail_if_no_progress (with_reducible apply canon_mk; with_reducible apply Canon3.of)))

theorem execStepCfgWrite_canon (v : Word) (s : State) (h_s : State.Canonical s) : ResCanon (execStepCfgWrite v s) := by
  unfold execStepCfgWrite
  repeat' (first
      | with_reducible assumption | with_reducible apply resNext | with_reducible apply State_byReg_canon
      | with_reducible apply State_writeStepCfg_canon)

theorem State_stepFence_canon (s : State) (h_s : State.Canonical s) : State.Canonical (State.stepFence s) := by
  unfold State.stepFence
  repeat' (first
      | with_reducible assumption | dsimp only | with_reducible refine @ite_canon _ _ _ _ ?_ ?_
      | with_reducible apply State_pulse_canon | with_reducible apply State_hubRaise_canon
      | with_reducible apply State_signal_canon | with_reducible apply State_clearDone_canon
      | with_reducible apply State_openWindow_canon
      | (fail_if_no_progress (with_reducible apply canon_mk; with_reducible apply Canon3.of)))

theorem State_bucketDone_canon (s : State) (t : Nat) (h_s : State.Canonical s) : State.Canonical (State.bucketDone s t) := by
  unfold State.bucketDone
  repeat' (first
      | with_reducible assumption | dsimp only | with_reducible refine @ite_canon _ _ _ _ ?_ ?_
      | with_reducible apply State_stepFence_canon
      | (fail_if_no_progress (with_reducible apply canon_mk; with_reducible apply Canon3.of)))

theorem State_setNode_canon (s : State) (t b d : Nat) (x : Node) (h_s : State.Canonical s) : State.Canonical (State.setNode s t b d x) := by
  unfold State.setNode
  repeat' (first
      | with_reducible assumption | with_reducible apply State_updTree_canon)

theorem State_updNode_canon (s : State) (t b d : Nat) (f : Node → Node) (h_s : State.Canonical s) : State.Canonical (State.updNode s t b d f) := by
  unfold State.updNode
  repeat' (first
      | with_reducible assumption | with_reducible apply State_setNode_canon)

theorem State_pelCount_canon (s : State) (t k : Nat) (n : Nat) (h_s : State.Canonical s) : State.Canonical (State.pelCount s t k n) := by
  unfold State.pelCount
  repeat' (first
      | with_reducible assumption | with_reducible refine @ite_canon _ _ _ _ ?_ ?_ | with_reducible apply State_updTree_canon)

theorem State_pelEvent_canon (s : State) (t b code cls det : Nat) (h_s : State.Canonical s) : State.Canonical (State.pelEvent s t b code cls det) := by
  unfold State.pelEvent
  repeat' (first
      | with_reducible assumption | with_reducible apply State_raise_canon)

theorem State_pelNotify_canon (s : State) (t b d status : Nat) (h_s : State.Canonical s) : State.Canonical (State.pelNotify s t b d status) := by
  unfold State.pelNotify
  repeat' (first
      | with_reducible assumption | dsimp only | with_reducible apply State_updTree_canon
      | with_reducible apply State_hubRaise_canon)

theorem State_pelFetch_canon (s : State) (t addr : Nat) (send : State → State) (h_s : State.Canonical s) (h_send : ∀ s, State.Canonical s → State.Canonical (send s)) : State.Canonical (State.pelFetch s t addr send).1 := by
  unfold State.pelFetch
  repeat' (first
      | with_reducible assumption | dsimp only | with_reducible apply State_updTree_canon | with_reducible apply h_send
      | split)

theorem State_pelHave_canon (s : State) (t va : Nat) (h_s : State.Canonical s) : State.Canonical (State.pelHave s t va).1 := by
  unfold State.pelHave
  repeat' (first
      | with_reducible assumption | with_reducible refine @ite_canon_fst _ _ _ _ _ ?_ ?_ | with_reducible intro _
      | with_reducible apply State_hostLoad_canon | with_reducible apply State_remoteRead_canon
      | with_reducible apply State_pelFetch_canon | split)

theorem State_pelAsk_canon (s : State) (t : Nat) (l : List (Nat × Nat)) (h_s : State.Canonical s) : State.Canonical (State.pelAsk s t l).1 := by
  unfold State.pelAsk
  repeat' (first
      | with_reducible assumption | dsimp only | with_reducible intro _ | with_reducible apply State_pelHave_canon
      | with_reducible apply foldl_canon_fst)

theorem State_pelForget_canon (s : State) (t : Nat) (h_s : State.Canonical s) : State.Canonical (State.pelForget s t) := by
  unfold State.pelForget
  repeat' (first
      | with_reducible assumption | with_reducible refine @ite_canon _ _ _ _ ?_ ?_ | with_reducible apply State_updTree_canon)

theorem State_pelRead_canon (s : State) (t va n : Nat) (h_s : State.Canonical s) : State.Canonical (State.pelRead s t va n).2.2 := by
  unfold State.pelRead
  repeat' (first
      | with_reducible assumption | dsimp only | with_reducible refine @ite_canon_snd3 _ _ _ _ _ _ ?_ ?_
      | with_reducible intro _ | with_reducible apply State_touch_canon | with_reducible apply State_hostBme_canon
      | with_reducible apply State_xlatNote_canon | with_reducible apply foldl_canon_snd3 | split)

theorem State_pelWrite_canon (s : State) (t va : Nat) (bs : List Byte) (poison : Bool) (h_s : State.Canonical s) : State.Canonical (State.pelWrite s t va bs poison) := by
  unfold State.pelWrite
  repeat' (first
      | with_reducible assumption | dsimp only | with_reducible intro _ | with_reducible apply State_xlatNote_canon
      | with_reducible apply State_put_canon | with_reducible apply foldl_canon | split)

theorem State_readMask_canon (s : State) (t : Nat) (y : Node) (h_s : State.Canonical s) : State.Canonical (State.readMask s t y).2 := by
  unfold State.readMask
  repeat' (first
      | with_reducible assumption | dsimp only | with_reducible refine @ite_canon_snd _ _ _ _ _ ?_ ?_
      | with_reducible apply State_pelRead_canon)

theorem State_readDesc_canon (s : State) (t b d : Nat) (x : Node) (h_s : State.Canonical s) : State.Canonical (State.readDesc s t b d x).2 := by
  unfold State.readDesc
  repeat' (first
      | with_reducible assumption | dsimp only | with_reducible refine @ite_canon_snd _ _ _ _ _ ?_ ?_
      | with_reducible apply State_pelAsk_canon | with_reducible apply State_pelRead_canon
      | with_reducible apply State_readMask_canon)

theorem State_pelSend_canon (s : State) (t dst type : Nat) (m : PelMsg) (pw : Nat) (h_s : State.Canonical s) : State.Canonical (State.pelSend s t dst type m pw) := by
  unfold State.pelSend
  repeat' (first
      | with_reducible assumption | dsimp only | with_reducible refine @ite_canon _ _ _ _ ?_ ?_
      | with_reducible apply State_emit_canon | with_reducible apply State_updPort_canon
      | with_reducible apply State_drainPort_canon)

theorem State_pelDown_canon (s : State) (t : Nat) (n r type : Nat) (m : PelMsg) (pw : Nat) (h_s : State.Canonical s) : State.Canonical (State.pelDown s t n r type m pw) := by
  unfold State.pelDown
  repeat' (first
      | with_reducible assumption | with_reducible intro _ | with_reducible apply State_pelSend_canon
      | with_reducible apply foldl_canon)

theorem State_declare_canon (s : State) (t b d : Nat) (l : List Nat) (h_s : State.Canonical s) : State.Canonical (State.declare s t b d l) := by
  unfold State.declare
  repeat' (first
      | with_reducible assumption | dsimp only | with_reducible refine @ite_canon _ _ _ _ ?_ ?_
      | with_reducible apply State_setNode_canon | with_reducible apply State_pelEvent_canon | split)

theorem State_dropLent_canon (s : State) (t b d : Nat) (h_s : State.Canonical s) : State.Canonical (State.dropLent s t b d) := by
  unfold State.dropLent
  repeat' (first
      | with_reducible assumption | dsimp only | with_reducible refine @ite_canon _ _ _ _ ?_ ?_
      | with_reducible apply State_tileTo_canon | with_reducible apply State_setNode_canon)

theorem State_formLeaf_canon (s : State) (t b d n r : Nat) (h_s : State.Canonical s) : State.Canonical (State.formLeaf s t b d n r) := by
  unfold State.formLeaf
  repeat' (first
      | with_reducible assumption | dsimp only | with_reducible refine @ite_canon _ _ _ _ ?_ ?_
      | with_reducible apply State_setNode_canon | with_reducible apply State_pelCount_canon)

theorem State_sendCheck_canon (s : State) (t : TreeId) (b d r : Nat) (h_s : State.Canonical s) : State.Canonical (State.sendCheck s t b d r) := by
  unfold State.sendCheck
  repeat' (first
      | with_reducible assumption | dsimp only | with_reducible refine @ite_canon _ _ _ _ ?_ ?_
      | with_reducible apply State_setNode_canon | with_reducible apply State_pelSend_canon | split)

theorem State_readBuf_canon (s : State) (t : Nat) (x : Node) (f : PFmt) (base b : Nat) (h_s : State.Canonical s) : State.Canonical (State.readBuf s t x f base b).2.2 := by
  unfold State.readBuf
  repeat' (first
      | with_reducible assumption | dsimp only | with_reducible refine @ite_canon_snd3 _ _ _ _ _ _ ?_ ?_
      | with_reducible apply State_pelRead_canon)

theorem State_writeBuf_canon (s : State) (t : Nat) (x : Node) (f : PFmt) (base b : Nat) (l : List F32) (poison : Bool) (h_s : State.Canonical s) : State.Canonical (State.writeBuf s t x f base b l poison) := by
  unfold State.writeBuf
  repeat' (first
      | with_reducible assumption | dsimp only | with_reducible refine @ite_canon _ _ _ _ ?_ ?_
      | with_reducible apply State_pelCount_canon | with_reducible apply State_pelWrite_canon)

theorem State_writeParam_canon (s : State) (t : Nat) (x : Node) (b : Nat) (l : List F32) (poison : Bool) (h_s : State.Canonical s) : State.Canonical (State.writeParam s t x b l poison) := by
  unfold State.writeParam
  repeat' (first
      | with_reducible assumption | with_reducible apply State_writeBuf_canon)

theorem State_updateBlock_canon (s : State) (t : Nat) (x : Node) (b : Nat) (g : List F32) (h_s : State.Canonical s) : State.Canonical (State.updateBlock s t x b g).2.2 := by
  unfold State.updateBlock
  repeat' (first
      | with_reducible assumption | dsimp only | with_reducible refine @ite_canon _ _ _ _ ?_ ?_
      | with_reducible refine @ite_canon_snd3 _ _ _ _ _ _ ?_ ?_ | with_reducible apply State_readBuf_canon
      | with_reducible apply State_writeBuf_canon | with_reducible apply State_writeParam_canon)

theorem State_applyBlocks_canon (s : State) (t b d n r : Nat) (m : PelMsg) (h_s : State.Canonical s) : State.Canonical (State.applyBlocks s t b d n r m).1 := by
  unfold State.applyBlocks
  repeat' (first
      | with_reducible assumption | dsimp only | with_reducible refine @ite_canon_fst _ _ _ _ _ ?_ ?_
      | with_reducible refine @ite_canon_pass _ _ _ _ ?_ ?_ | with_reducible intro _
      | with_reducible apply State_setNode_canon | with_reducible apply State_pelEvent_canon
      | with_reducible apply State_updateBlock_canon | with_reducible apply foldl_canon_pass | split)

theorem State_writeGather_canon (s : State) (t : Nat) (x : Node) (m : PelMsg) (h_s : State.Canonical s) : State.Canonical (State.writeGather s t x m) := by
  unfold State.writeGather
  repeat' (first
      | with_reducible assumption | dsimp only | with_reducible intro _ | with_reducible apply State_pelCount_canon
      | with_reducible apply State_pelWrite_canon | with_reducible apply State_writeBuf_canon
      | with_reducible apply foldl_canon | split)

theorem State_gatherDown_canon (s : State) (t b d n r : Nat) (m : PelMsg) (h_s : State.Canonical s) : State.Canonical (State.gatherDown s t b d n r m) := by
  unfold State.gatherDown
  repeat' (first
      | with_reducible assumption | dsimp only | with_reducible refine @ite_canon _ _ _ _ ?_ ?_
      | with_reducible apply State_updNode_canon | with_reducible apply State_pelDown_canon
      | with_reducible apply State_writeGather_canon)

theorem State_gatherUp_canon (s : State) (t b d n r : Nat) (m : PelMsg) (h_s : State.Canonical s) : State.Canonical (State.gatherUp s t b d n r m) := by
  unfold State.gatherUp
  repeat' (first
      | with_reducible assumption | dsimp only | with_reducible refine @ite_canon _ _ _ _ ?_ ?_
      | with_reducible apply State_setNode_canon | with_reducible apply State_pelSend_canon
      | with_reducible apply State_gatherDown_canon)

theorem State_tryApply_canon (s : State) (t : TreeId) (b d n r : Nat) (h_s : State.Canonical s) : State.Canonical (State.tryApply s t b d n r) := by
  unfold State.tryApply
  repeat' (first
      | with_reducible assumption | dsimp only | with_reducible refine @ite_canon _ _ _ _ ?_ ?_
      | with_reducible refine @ite_canon_snd _ _ _ _ _ ?_ ?_ | with_reducible apply State_setNode_canon
      | with_reducible apply State_pelAsk_canon | with_reducible apply State_pelForget_canon
      | with_reducible apply State_readDesc_canon | with_reducible apply State_applyBlocks_canon
      | with_reducible apply State_gatherUp_canon | split)

theorem State_judge_canon (s : State) (t n : Nat) (k : PelChk) (p : Nat × Option (List Byte)) (h_s : State.Canonical s) : State.Canonical (State.judge s t n k p) := by
  unfold State.judge
  repeat' (first
      | with_reducible assumption | dsimp only | with_reducible refine @ite_canon _ _ _ _ ?_ ?_
      | with_reducible apply State_raise_canon | with_reducible apply State_pelCount_canon)

theorem State_runChecks_canon (s : State) (t n : Nat) (go : PelChk → Bool) (h_s : State.Canonical s) : State.Canonical (State.runChecks s t n go) := by
  unfold State.runChecks
  repeat' (first
      | with_reducible assumption | dsimp only | with_reducible intro _ | with_reducible apply State_setTree_canon
      | with_reducible apply State_judge_canon | with_reducible apply foldl_canon)

theorem State_openCheck_canon (s : State) (t b d n : Nat) (m : PelMsg) (h_s : State.Canonical s) : State.Canonical (State.openCheck s t b d n m) := by
  unfold State.openCheck
  repeat' (first
      | with_reducible assumption | dsimp only | with_reducible refine @ite_canon _ _ _ _ ?_ ?_
      | with_reducible apply State_updTree_canon | with_reducible apply State_runChecks_canon)

theorem State_takeResult_canon (s : State) (t : TreeId) (b d n r : Nat) (m : PelMsg) (h_s : State.Canonical s) : State.Canonical (State.takeResult s t b d n r m) := by
  unfold State.takeResult
  repeat' (first
      | with_reducible assumption | dsimp only | with_reducible apply State_updNode_canon
      | with_reducible apply State_pelDown_canon | with_reducible apply State_tryApply_canon)

theorem State_tryData_canon (s : State) (t : TreeId) (b d n r : Nat) (h_s : State.Canonical s) : State.Canonical (State.tryData s t b d n r) := by
  unfold State.tryData
  repeat' (first
      | with_reducible assumption | dsimp only | with_reducible refine @ite_canon _ _ _ _ ?_ ?_
      | with_reducible apply State_setNode_canon | with_reducible apply State_pelCount_canon
      | with_reducible apply State_pelSend_canon | with_reducible apply State_openCheck_canon
      | with_reducible apply State_takeResult_canon)

theorem State_takeScale_canon (s : State) (t : TreeId) (b d n r : Nat) (bytes : List Byte) (missing : BitVec 1024) (h_s : State.Canonical s) : State.Canonical (State.takeScale s t b d n r bytes missing) := by
  unfold State.takeScale
  repeat' (first
      | with_reducible assumption | dsimp only | with_reducible apply State_updNode_canon
      | with_reducible apply State_pelDown_canon | with_reducible apply State_formLeaf_canon
      | with_reducible apply State_sendCheck_canon | with_reducible apply State_tryApply_canon
      | with_reducible apply State_tryData_canon)

theorem State_tryExp_canon (s : State) (t : TreeId) (b d n r : Nat) (force : Bool) (h_s : State.Canonical s) : State.Canonical (State.tryExp s t b d n r force) := by
  unfold State.tryExp
  repeat' (first
      | with_reducible assumption | dsimp only | with_reducible refine @ite_canon _ _ _ _ ?_ ?_ | with_reducible intro _
      | with_reducible apply State_setNode_canon | with_reducible apply State_pelEvent_canon
      | with_reducible apply State_pelSend_canon | with_reducible apply State_declare_canon
      | with_reducible apply State_dropLent_canon | with_reducible apply State_takeScale_canon
      | with_reducible apply foldl_canon)

theorem State_handDone_canon (s : State) (t : TreeId) (b d n r : Nat) (h_s : State.Canonical s) : State.Canonical (State.handDone s t b d n r) := by
  unfold State.handDone
  repeat' (first
      | with_reducible assumption | with_reducible apply State_updNode_canon | with_reducible apply State_dropLent_canon
      | with_reducible apply State_tryExp_canon)

theorem State_handReject_canon (s : State) (t b d : Nat) (h_s : State.Canonical s) : State.Canonical (State.handReject s t b d) := by
  unfold State.handReject
  repeat' (first
      | with_reducible assumption | with_reducible apply State_updNode_canon | with_reducible apply State_pelEvent_canon
      | with_reducible apply State_pelNotify_canon)

theorem State_handRefuse_canon (s : State) (w : Writer) (t b why : Nat) (h_s : State.Canonical s) : State.Canonical (State.handRefuse s w t b why) := by
  unfold State.handRefuse
  repeat' (first
      | with_reducible assumption | with_reducible apply State_pelEvent_canon | split)

theorem State_readGrad_canon (s : State) (t : Nat) (x : Node) (b : Nat) (h_s : State.Canonical s) : State.Canonical (State.readGrad s t x b).2.2 := by
  unfold State.readGrad
  repeat' (first
      | with_reducible assumption | dsimp only | with_reducible refine @ite_canon_snd3 _ _ _ _ _ _ ?_ ?_
      | with_reducible apply State_pelRead_canon)

theorem State_contribution_canon (s : State) (t b d : Nat) (x : Node) (h_s : State.Canonical s) : State.Canonical (State.contribution s t b d x) := by
  unfold State.contribution
  repeat' (first
      | with_reducible assumption | dsimp only | with_reducible refine @ite_canon _ _ _ _ ?_ ?_ | with_reducible intro _
      | with_reducible apply State_setNode_canon | with_reducible apply State_pelCount_canon
      | with_reducible apply State_pelNotify_canon | with_reducible apply State_readGrad_canon
      | with_reducible apply foldl_canon_snd3)

theorem State_handRead_canon (s : State) (t b d : Nat) (h_s : State.Canonical s) : State.Canonical (State.handRead s t b d) := by
  unfold State.handRead
  repeat' (first
      | with_reducible assumption | dsimp only | with_reducible apply State_setNode_canon
      | with_reducible apply State_readDesc_canon)

theorem State_takeLent_canon (s : State) (t b d : Nat) (h_s : State.Canonical s) : State.Canonical (State.takeLent s t b d) := by
  unfold State.takeLent
  repeat' (first
      | with_reducible assumption | dsimp only | with_reducible refine @ite_canon _ _ _ _ ?_ ?_
      | with_reducible apply State_tileTo_canon | with_reducible apply State_setNode_canon)

theorem State_notLent_canon (s : State) (t b : Nat) (x : Node) (h_s : State.Canonical s) : State.Canonical (State.notLent s t b x) := by
  unfold State.notLent
  repeat' (first
      | with_reducible assumption | with_reducible apply State_raise_canon)

theorem State_handEnd_canon (s : State) (t : TreeId) (b d n r : Nat) (h_s : State.Canonical s) : State.Canonical (State.handEnd s t b d n r) := by
  unfold State.handEnd
  repeat' (first
      | with_reducible assumption | dsimp only | with_reducible refine @ite_canon _ _ _ _ ?_ ?_
      | with_reducible apply State_pelAsk_canon | with_reducible apply State_pelForget_canon
      | with_reducible apply State_handDone_canon | with_reducible apply State_handReject_canon
      | with_reducible apply State_contribution_canon | with_reducible apply State_notLent_canon)

theorem State_noResult_canon (s : State) (t b d : Nat) (h_s : State.Canonical s) : State.Canonical (State.noResult s t b d) := by
  unfold State.noResult
  repeat' (first
      | with_reducible assumption | dsimp only | with_reducible refine @ite_canon _ _ _ _ ?_ ?_
      | with_reducible apply State_setNode_canon | with_reducible apply State_pelEvent_canon)

theorem State_pelDue_canon (s : State) (t : TreeId) (b d n r : Nat) (h_s : State.Canonical s) : State.Canonical (State.pelDue s t b d n r) := by
  unfold State.pelDue
  repeat' (first
      | with_reducible assumption | dsimp only | with_reducible refine @ite_canon _ _ _ _ ?_ ?_
      | with_reducible apply State_declare_canon | with_reducible apply State_tryData_canon
      | with_reducible apply State_tryExp_canon | with_reducible apply State_noResult_canon)

theorem State_handoff_canon (s0 : State) (w : Writer) (t : TreeId) (v : Word) (absent : Bool) (h_s0 : State.Canonical s0) : State.Canonical (State.handoff s0 w t v absent) := by
  unfold State.handoff
  repeat' (first
      | with_reducible assumption | dsimp only | with_reducible refine @ite_canon _ _ _ _ ?_ ?_
      | with_reducible apply State_updNode_canon | with_reducible apply State_dropLent_canon
      | with_reducible apply State_handRefuse_canon | with_reducible apply State_handRead_canon
      | with_reducible apply State_takeLent_canon | with_reducible apply State_handEnd_canon
      | with_reducible apply State_pelDue_canon | split)

theorem execHandoff_canon (w : Writer) (tr : TreeId) (v : Word) (s : State) (h_s : State.Canonical s) : ResCanon (execHandoff w tr v s) := by
  unfold execHandoff
  repeat' (first
      | with_reducible assumption | with_reducible apply resNext | with_reducible apply State_byReg_canon
      | with_reducible apply State_handoff_canon)

theorem execHandoffAbsent_canon (w : Writer) (tr : TreeId) (v : Word) (s : State) (h_s : State.Canonical s) : ResCanon (execHandoffAbsent w tr v s) := by
  unfold execHandoffAbsent
  repeat' (first
      | with_reducible assumption | with_reducible apply resNext | with_reducible apply State_byReg_canon
      | with_reducible apply State_handoff_canon)

theorem execHandoffChecked_canon (tr : TreeId) (b : BitVec 12) (d : DieId) (s : State) (h_s : State.Canonical s) : ResCanon (execHandoffChecked tr b d s) := by
  unfold execHandoffChecked
  repeat' (first
      | with_reducible assumption | dsimp only | with_reducible refine @ite_canon _ _ _ _ ?_ ?_
      | with_reducible apply resNext | with_reducible apply State_handRead_canon | with_reducible apply State_takeLent_canon
      | with_reducible apply State_handEnd_canon | with_reducible apply State_pelDue_canon)

theorem State_checkArrive_canon (s0 : State) (t b d n : Nat) (m : PelMsg) (h_s0 : State.Canonical s0) : State.Canonical (State.checkArrive s0 t b d n m) := by
  unfold State.checkArrive
  repeat' (first
      | with_reducible assumption | dsimp only | with_reducible refine @ite_canon _ _ _ _ ?_ ?_
      | with_reducible apply State_setTree_canon | with_reducible apply State_setNode_canon
      | with_reducible apply State_pelCount_canon | with_reducible apply State_runChecks_canon | split)

theorem State_pelMessage_canon (s0 : State) (type d : Nat) (m : PelMsg) (h_s0 : State.Canonical s0) : State.Canonical (State.pelMessage s0 type d m) := by
  unfold State.pelMessage
  repeat' (first
      | with_reducible assumption | dsimp only | with_reducible refine @ite_canon _ _ _ _ ?_ ?_
      | with_reducible apply State_setNode_canon | with_reducible apply State_pelCount_canon
      | with_reducible apply State_gatherDown_canon | with_reducible apply State_gatherUp_canon
      | with_reducible apply State_takeResult_canon | with_reducible apply State_tryData_canon
      | with_reducible apply State_takeScale_canon | with_reducible apply State_tryExp_canon
      | with_reducible apply State_pelDue_canon | with_reducible apply State_checkArrive_canon | split)

theorem State_pelEarly_canon (s : State) (t : Nat) (h_s : State.Canonical s) (n__ : Nat) : State.Canonical ((State.pelEarly s t) n__) := by
  induction n__ generalizing s t with
  | zero =>
    unfold State.pelEarly
    repeat' (first
        | with_reducible assumption)
  | succ n__ ih =>
    unfold State.pelEarly
    repeat' (first
        | with_reducible apply ih | with_reducible assumption | dsimp only | with_reducible refine @ite_canon _ _ _ _ ?_ ?_
        | with_reducible apply State_setTree_canon | with_reducible apply State_pelCount_canon
        | with_reducible apply State_pelMessage_canon | split)

theorem State_pelSettle_canon (s : State) (h_s : State.Canonical s) : State.Canonical (State.pelSettle s) := by
  unfold State.pelSettle
  repeat' (first
      | with_reducible assumption | with_reducible intro _ | with_reducible apply State_pelEarly_canon
      | with_reducible apply foldl_canon)

theorem State_pelArrive_canon (s : State) (type d : Nat) (m : PelMsg) (h_s : State.Canonical s) : State.Canonical (State.pelArrive s type d m) := by
  unfold State.pelArrive
  repeat' (first
      | with_reducible assumption | dsimp only | with_reducible refine @ite_canon _ _ _ _ ?_ ?_
      | with_reducible apply State_updTree_canon | with_reducible apply State_pelCount_canon
      | with_reducible apply State_pelMessage_canon | with_reducible apply State_pelSettle_canon)

theorem pelExec_canon (type : Nat) (d : DieId) (m : PelMsg) (s : State) (h_s : State.Canonical s) : ResCanon (pelExec type d m s) := by
  unfold pelExec
  repeat' (first
      | with_reducible assumption | with_reducible apply resNext | with_reducible apply State_pelArrive_canon)

theorem execPelExp_canon (d : DieId) (m : PelMsg) (s : State) (h_s : State.Canonical s) : ResCanon (execPelExp d m s) := by
  unfold execPelExp
  repeat' (first
      | with_reducible assumption | with_reducible apply pelExec_canon)

theorem execPelScale_canon (d : DieId) (m : PelMsg) (s : State) (h_s : State.Canonical s) : ResCanon (execPelScale d m s) := by
  unfold execPelScale
  repeat' (first
      | with_reducible assumption | with_reducible apply pelExec_canon)

theorem execPelData_canon (d : DieId) (m : PelMsg) (s : State) (h_s : State.Canonical s) : ResCanon (execPelData d m s) := by
  unfold execPelData
  repeat' (first
      | with_reducible assumption | with_reducible apply pelExec_canon)

theorem execPelResult_canon (d : DieId) (m : PelMsg) (s : State) (h_s : State.Canonical s) : ResCanon (execPelResult d m s) := by
  unfold execPelResult
  repeat' (first
      | with_reducible assumption | with_reducible apply pelExec_canon)

theorem execPelGather_canon (d : DieId) (m : PelMsg) (s : State) (h_s : State.Canonical s) : ResCanon (execPelGather d m s) := by
  unfold execPelGather
  repeat' (first
      | with_reducible assumption | with_reducible apply pelExec_canon)

theorem execPelCheck_canon (d : DieId) (m : PelMsg) (s : State) (h_s : State.Canonical s) : ResCanon (execPelCheck d m s) := by
  unfold execPelCheck
  repeat' (first
      | with_reducible assumption | with_reducible apply pelExec_canon)

theorem execDlExpExpiry_canon (tr : TreeId) (b : BitVec 12) (d : DieId) (s : State) (h_s : State.Canonical s) : ResCanon (execDlExpExpiry tr b d s) := by
  unfold execDlExpExpiry
  repeat' (first
      | with_reducible assumption | with_reducible refine @ite_canon _ _ _ _ ?_ ?_ | with_reducible apply resNext
      | with_reducible apply State_tryExp_canon | split)

theorem execDlDataExpiry_canon (tr : TreeId) (b : BitVec 12) (d : DieId) (s : State) (h_s : State.Canonical s) : ResCanon (execDlDataExpiry tr b d s) := by
  unfold execDlDataExpiry
  repeat' (first
      | with_reducible assumption | dsimp only | with_reducible refine @ite_canon _ _ _ _ ?_ ?_
      | with_reducible apply resNext | with_reducible apply State_declare_canon | with_reducible apply State_tryData_canon
      | split)

theorem execDlResExpiry_canon (tr : TreeId) (b : BitVec 12) (d : DieId) (s : State) (h_s : State.Canonical s) : ResCanon (execDlResExpiry tr b d s) := by
  unfold execDlResExpiry
  repeat' (first
      | with_reducible assumption | with_reducible apply resNext | with_reducible apply State_noResult_canon)

theorem execDlChkExpiry_canon (tr : TreeId) (b : BitVec 12) (d : DieId) (s : State) (h_s : State.Canonical s) : ResCanon (execDlChkExpiry tr b d s) := by
  unfold execDlChkExpiry
  repeat' (first
      | with_reducible assumption | with_reducible refine @ite_canon _ _ _ _ ?_ ?_ | with_reducible apply resNext
      | with_reducible apply State_runChecks_canon)

theorem State_writeResult_canon (s : State) (t b d r : Nat) (x : Node) (m : PelMsg) (h_s : State.Canonical s) : State.Canonical (State.writeResult s t b d r x m) := by
  unfold State.writeResult
  repeat' (first
      | with_reducible assumption | dsimp only | with_reducible apply State_pelWrite_canon)

theorem execBucketApplied_canon (tr : TreeId) (b : BitVec 12) (d : DieId) (s : State) (h_s : State.Canonical s) : ResCanon (execBucketApplied tr b d s) := by
  unfold execBucketApplied
  repeat' (first
      | with_reducible assumption | dsimp only | with_reducible refine @ite_canon _ _ _ _ ?_ ?_
      | with_reducible apply resNext | with_reducible apply State_updTree_canon | with_reducible apply State_signal_canon
      | with_reducible apply State_bucketDone_canon | with_reducible apply State_setNode_canon
      | with_reducible apply State_pelNotify_canon | with_reducible apply State_dropLent_canon
      | with_reducible apply State_tryApply_canon | with_reducible apply State_pelSettle_canon
      | with_reducible apply State_writeResult_canon | split)

theorem State_portEvent_canon (s : State) (p code cls loc det : Nat) (h_s : State.Canonical s) : State.Canonical (State.portEvent s p code cls loc det) := by
  unfold State.portEvent
  repeat' (first
      | with_reducible assumption | with_reducible apply State_raise_canon)

theorem State_linkCount_canon (s : State) (p k : Nat) (n : Nat) (h_s : State.Canonical s) : State.Canonical (State.linkCount s p k n) := by
  unfold State.linkCount
  repeat' (first
      | with_reducible assumption | with_reducible refine @ite_canon _ _ _ _ ?_ ?_ | with_reducible apply State_updPort_canon)

theorem State_portTo_canon (s : State) (p : Nat) (st : PortState) (reason : Nat) (h_s : State.Canonical s) : State.Canonical (State.portTo s p st reason) := by
  unfold State.portTo
  repeat' (first
      | with_reducible assumption | dsimp only | with_reducible refine @ite_canon _ _ _ _ ?_ ?_
      | with_reducible apply State_setPort_canon | with_reducible apply State_hubLine_canon | split
      | (fail_if_no_progress (with_reducible apply canon_mk; with_reducible apply Canon3.of)))

theorem State_engineAnswer_canon (s : State) (x addr : Nat) (a : Answer) (h_s : State.Canonical s) : State.Canonical (State.engineAnswer s x addr a) := by
  unfold State.engineAnswer
  repeat' (first
      | with_reducible assumption | with_reducible apply State_updCtx_canon)

theorem State_fillAnswer_canon (s : State) (c : Nat) (data : Bool) (e : Nat) (a : Answer) (h_s : State.Canonical s) : State.Canonical (State.fillAnswer s c data e a) := by
  unfold State.fillAnswer
  repeat' (first
      | with_reducible assumption | dsimp only | with_reducible refine @ite_canon _ _ _ _ ?_ ?_
      | with_reducible apply State_setCentry_canon)

theorem State_answer_canon (s : State) (xid err : Nat) (bytes : List Byte) (poison : List Bool) (h_s : State.Canonical s) : State.Canonical (State.answer s xid err bytes poison) := by
  unfold State.answer
  repeat' (first
      | with_reducible assumption | dsimp only | with_reducible refine @ite_canon _ _ _ _ ?_ ?_
      | with_reducible apply State_updCtx_canon | with_reducible apply State_raiseHub_canon
      | with_reducible apply State_threadAnswer_canon | with_reducible apply State_pelAnswer_canon
      | with_reducible apply State_seDone_canon | with_reducible apply State_engineAnswer_canon
      | with_reducible apply State_fillAnswer_canon | split
      | (fail_if_no_progress (with_reducible apply canon_mk; with_reducible apply Canon3.of)))

theorem State_portDown_canon (s : State) (p reason : Nat) (h_s : State.Canonical s) : State.Canonical (State.portDown s p reason) := by
  unfold State.portDown
  repeat' (first
      | with_reducible assumption | dsimp only | with_reducible refine @ite_canon _ _ _ _ ?_ ?_ | with_reducible intro _
      | with_reducible apply State_setPort_canon | with_reducible apply State_pulse_canon
      | with_reducible apply State_portEvent_canon | with_reducible apply State_linkCount_canon
      | with_reducible apply State_portTo_canon | with_reducible apply State_answer_canon | with_reducible apply foldl_canon)

theorem execTrainingDone_canon (p : PortId) (peer : BitVec 10) (width : Fin 3) (s : State) (h_s : State.Canonical s) : ResCanon (execTrainingDone p peer width s) := by
  unfold execTrainingDone
  repeat' (first
      | with_reducible assumption | dsimp only | with_reducible refine @ite_canon _ _ _ _ ?_ ?_
      | with_reducible apply resNext | with_reducible apply State_setPort_canon | with_reducible apply State_drainPort_canon
      | with_reducible apply State_portEvent_canon | with_reducible apply State_portTo_canon
      | with_reducible apply State_portDown_canon)

theorem execTrainingTimeout_canon (p : PortId) (s : State) (h_s : State.Canonical s) : ResCanon (execTrainingTimeout p s) := by
  unfold execTrainingTimeout
  repeat' (first
      | with_reducible assumption | with_reducible refine @ite_canon _ _ _ _ ?_ ?_ | with_reducible apply resNext
      | with_reducible apply State_portDown_canon)

theorem execLnkCtlDown_canon (p : PortId) (s : State) (h_s : State.Canonical s) : ResCanon (execLnkCtlDown p s) := by
  unfold execLnkCtlDown
  repeat' (first
      | with_reducible assumption | with_reducible apply resNext | with_reducible apply State_byReg_canon
      | with_reducible apply State_portDown_canon)

theorem State_portRetrain_canon (s : State) (p : Nat) (h_s : State.Canonical s) : State.Canonical (State.portRetrain s p) := by
  unfold State.portRetrain
  repeat' (first
      | with_reducible assumption | dsimp only | with_reducible refine @ite_canon _ _ _ _ ?_ ?_
      | with_reducible apply State_setPort_canon | with_reducible apply State_portTo_canon)

theorem execLnkCtlRetrain_canon (p : PortId) (s : State) (h_s : State.Canonical s) : ResCanon (execLnkCtlRetrain p s) := by
  unfold execLnkCtlRetrain
  repeat' (first
      | with_reducible assumption | with_reducible apply resNext | with_reducible apply State_byReg_canon
      | with_reducible apply State_portRetrain_canon)

theorem State_lnkCtl_canon (s : State) (p : Nat) (v : Word) (h_s : State.Canonical s) : State.Canonical (State.lnkCtl s p v) := by
  unfold State.lnkCtl
  repeat' (first
      | with_reducible assumption | with_reducible refine @ite_canon _ _ _ _ ?_ ?_
      | with_reducible apply State_portDown_canon | with_reducible apply State_portRetrain_canon)

theorem execLaneLossOfLock_canon (p : PortId) (lanes : BitVec 8) (s : State) (h_s : State.Canonical s) : ResCanon (execLaneLossOfLock p lanes s) := by
  unfold execLaneLossOfLock
  repeat' (first
      | with_reducible assumption | dsimp only | with_reducible refine @ite_canon _ _ _ _ ?_ ?_
      | with_reducible apply resNext | with_reducible apply State_setPort_canon | with_reducible apply State_updPort_canon
      | with_reducible apply State_portEvent_canon | with_reducible apply State_portTo_canon
      | with_reducible apply State_portDown_canon)

theorem State_replayPort_canon (s : State) (p : Nat) (h_s : State.Canonical s) : State.Canonical (State.replayPort s p) := by
  unfold State.replayPort
  repeat' (first
      | with_reducible assumption | dsimp only | with_reducible refine @ite_canon _ _ _ _ ?_ ?_ | with_reducible intro _
      | with_reducible apply State_setPort_canon | with_reducible apply State_frame_canon
      | with_reducible apply State_linkCount_canon | with_reducible apply State_portDown_canon
      | with_reducible apply foldl_canon)

theorem execAckTimeout_canon (p : PortId) (s : State) (h_s : State.Canonical s) : ResCanon (execAckTimeout p s) := by
  unfold execAckTimeout
  repeat' (first
      | with_reducible assumption | with_reducible refine @ite_canon _ _ _ _ ?_ ?_ | with_reducible apply resNext
      | with_reducible apply State_replayPort_canon)

theorem State_forward_canon (s : State) (p h : Nat) (m : LinkMsg) (h_s : State.Canonical s) : State.Canonical (State.forward s p h m) := by
  unfold State.forward
  repeat' (first
      | with_reducible assumption | dsimp only | with_reducible refine @ite_canon _ _ _ _ ?_ ?_
      | with_reducible apply State_route_canon | with_reducible apply State_linkCount_canon)

theorem State_acceptFlit_canon (s : State) (p : Nat) (f : Frame) (h_s : State.Canonical s) : State.Canonical (State.acceptFlit s p f) := by
  unfold State.acceptFlit
  repeat' (first
      | with_reducible assumption | dsimp only | with_reducible intro _ | with_reducible apply State_setPort_canon
      | with_reducible apply State_frame_canon | with_reducible apply State_forward_canon | with_reducible apply foldl_canon)

theorem State_sendNak_canon (s : State) (p : Nat) (h_s : State.Canonical s) : State.Canonical (State.sendNak s p) := by
  unfold State.sendNak
  repeat' (first
      | with_reducible assumption | with_reducible apply State_frame_canon)

theorem execFrameReceived_canon (p : PortId) (f : Frame) (s : State) (h_s : State.Canonical s) : ResCanon (execFrameReceived p f s) := by
  unfold execFrameReceived
  repeat' (first
      | with_reducible assumption | dsimp only | with_reducible refine @ite_canon _ _ _ _ ?_ ?_
      | with_reducible apply resNext | with_reducible apply State_updPort_canon | with_reducible apply State_drainPort_canon
      | with_reducible apply State_linkCount_canon | with_reducible apply State_replayPort_canon
      | with_reducible apply State_acceptFlit_canon | with_reducible apply State_sendNak_canon)

theorem execCreditStallExpiry_canon (p : PortId) (vc : Fin 4) (h : Bool) (s : State) (h_s : State.Canonical s) : ResCanon (execCreditStallExpiry p vc h s) := by
  unfold execCreditStallExpiry
  repeat' (first
      | with_reducible assumption | dsimp only | with_reducible refine @ite_canon _ _ _ _ ?_ ?_
      | with_reducible apply resNext | with_reducible apply State_setPort_canon | with_reducible apply State_portEvent_canon)

theorem State_respond_canon (s : State) (m : LinkMsg) (op nslot : Nat) (arg : Word) (data : List Granule) (h_s : State.Canonical s) : State.Canonical (State.respond s m op nslot arg data) := by
  unfold State.respond
  repeat' (first
      | with_reducible assumption | dsimp only | with_reducible refine @ite_canon _ _ _ _ ?_ ?_
      | with_reducible apply State_route_canon)

theorem State_refuseRemote_canon (s : State) (p : Nat) (m : LinkMsg) (code : Nat) (h_s : State.Canonical s) : State.Canonical (State.refuseRemote s p m code) := by
  unfold State.refuseRemote
  repeat' (first
      | with_reducible assumption | dsimp only | with_reducible refine @ite_canon _ _ _ _ ?_ ?_
      | with_reducible apply State_portEvent_canon | with_reducible apply State_respond_canon)

theorem execLnkRd_canon (p : PortId) (m : LinkMsg) (s : State) (h_s : State.Canonical s) : ResCanon (execLnkRd p m s) := by
  unfold execLnkRd
  repeat' (first
      | with_reducible assumption | dsimp only | with_reducible refine @ite_canon _ _ _ _ ?_ ?_
      | with_reducible apply resNext | with_reducible apply State_touch_canon | with_reducible apply State_respond_canon
      | with_reducible apply State_refuseRemote_canon)

theorem State_writeEnabled_canon (s : State) (a : Nat) (en : Word) (data : List Granule) (x : Acs) (h_s : State.Canonical s) : State.Canonical (State.writeEnabled s a en data x) := by
  unfold State.writeEnabled
  repeat' (first
      | with_reducible assumption | dsimp only | with_reducible refine @ite_canon _ _ _ _ ?_ ?_ | with_reducible intro _
      | with_reducible apply State_send_canon | with_reducible apply State_poke_canon
      | with_reducible apply State_sealAs_canon | with_reducible apply foldl_canon | split)

theorem execLnkWr_canon (p : PortId) (m : LinkMsg) (s : State) (h_s : State.Canonical s) : ResCanon (execLnkWr p m s) := by
  unfold execLnkWr
  repeat' (first
      | with_reducible assumption | dsimp only | with_reducible refine @ite_canon _ _ _ _ ?_ ?_
      | with_reducible apply resNext | with_reducible apply State_store_canon | with_reducible apply State_respond_canon
      | with_reducible apply State_refuseRemote_canon | with_reducible apply State_writeEnabled_canon)

theorem State_lateResponse_canon (s : State) (m : LinkMsg) (h_s : State.Canonical s) : State.Canonical (State.lateResponse s m) := by
  unfold State.lateResponse
  repeat' (first
      | with_reducible assumption | with_reducible apply State_linkCount_canon)

theorem State_response_canon (s : State) (m : LinkMsg) (err : Nat) (h_s : State.Canonical s) : State.Canonical (State.response s m err) := by
  unfold State.response
  repeat' (first
      | with_reducible assumption | with_reducible refine @ite_canon _ _ _ _ ?_ ?_ | with_reducible apply State_answer_canon
      | with_reducible apply State_lateResponse_canon)

theorem execRdrsp_canon (m : LinkMsg) (s : State) (h_s : State.Canonical s) : ResCanon (execRdrsp m s) := by
  unfold execRdrsp
  repeat' (first
      | with_reducible assumption | with_reducible apply resNext | with_reducible apply State_response_canon)

theorem execWrack_canon (m : LinkMsg) (s : State) (h_s : State.Canonical s) : ResCanon (execWrack m s) := by
  unfold execWrack
  repeat' (first
      | with_reducible assumption | with_reducible apply resNext | with_reducible apply State_response_canon)

theorem execErrrsp_canon (m : LinkMsg) (s : State) (h_s : State.Canonical s) : ResCanon (execErrrsp m s) := by
  unfold execErrrsp
  repeat' (first
      | with_reducible assumption | with_reducible apply resNext | with_reducible apply State_response_canon)

theorem State_localAnswers_canon (s : State) (h_s : State.Canonical s) : State.Canonical (State.localAnswers s) := by
  unfold State.localAnswers
  repeat' (first
      | with_reducible assumption | with_reducible refine @ite_canon _ _ _ _ ?_ ?_ | with_reducible intro _
      | with_reducible apply State_answer_canon | with_reducible apply foldl_canon)

theorem execLocalTimeout_canon (xid : BitVec 32) (s : State) (h_s : State.Canonical s) : ResCanon (execLocalTimeout xid s) := by
  unfold execLocalTimeout
  repeat' (first
      | with_reducible assumption | dsimp only | with_reducible refine @ite_canon _ _ _ _ ?_ ?_
      | with_reducible apply resNext | with_reducible apply State_raiseHub_canon | with_reducible apply State_linkCount_canon
      | with_reducible apply State_answer_canon)

theorem State_reclock_canon (s : State) (h_s : State.Canonical s) : State.Canonical (State.reclock s) := by
  unfold State.reclock
  repeat' (first
      | with_reducible assumption | (fail_if_no_progress (with_reducible apply canon_mk; with_reducible apply Canon3.of)))

theorem State_zeroFill_canon (s : State) (a n : Nat) (h : State.Canonical s) : State.Canonical (s.zeroFill a n) := ⟨kwf_filter _ _ _ h.1, kwf_filter _ _ _ h.2.1, h.2.2⟩

theorem State_flushPool_canon (s : State) (d : Nat) (h_s : State.Canonical s) : State.Canonical (State.flushPool s d) := by
  unfold State.flushPool
  repeat' (first
      | with_reducible assumption | dsimp only | with_reducible intro _ | with_reducible apply State_toGroup_canon
      | with_reducible apply foldl_canon
      | (fail_if_no_progress (with_reducible apply canon_mk; with_reducible apply Canon3.of)))

theorem State_flipCore_canon (s : State) (c : Nat) (on : Bool) (h_s : State.Canonical s) : State.Canonical (State.flipCore s c on) := by
  unfold State.flipCore
  repeat' (first
      | with_reducible assumption | dsimp only | with_reducible apply State_updCore_canon
      | with_reducible apply State_zeroFill_canon)

theorem State_setPower_canon (s : State) (on : BitVec 80) (h_s : State.Canonical s) : State.Canonical (State.setPower s on) := by
  unfold State.setPower
  repeat' (first
      | with_reducible assumption | dsimp only | with_reducible refine @ite_canon _ _ _ _ ?_ ?_ | with_reducible intro _
      | with_reducible apply State_reclock_canon | with_reducible apply State_zeroFill_canon
      | with_reducible apply State_flushPool_canon | with_reducible apply State_flipCore_canon
      | with_reducible apply foldl_canon
      | (fail_if_no_progress (with_reducible apply canon_mk; with_reducible apply Canon3.of)))

theorem State_applyPart_canon (s : State) (i : Image) (h_s : State.Canonical s) : State.Canonical (State.applyPart s i) := by
  unfold State.applyPart
  repeat' (first
      | with_reducible assumption | dsimp only
      | (fail_if_no_progress (with_reducible apply canon_mk; with_reducible apply Canon3.of)))

theorem State_applyPool_canon (s : State) (i : Image) (d : Nat) (h_s : State.Canonical s) : State.Canonical (State.applyPool s i d) := by
  unfold State.applyPool
  repeat' (first
      | with_reducible assumption | dsimp only | with_reducible refine @ite_canon _ _ _ _ ?_ ?_ | with_reducible intro _
      | with_reducible apply State_zeroFill_canon | with_reducible apply State_flushPool_canon
      | with_reducible apply foldl_canon
      | (fail_if_no_progress (with_reducible apply canon_mk; with_reducible apply Canon3.of)))

theorem State_dropLines_canon (s : State) (a n : Nat) (h_s : State.Canonical s) : State.Canonical (State.dropLines s a n) := by
  unfold State.dropLines
  repeat' (first
      | with_reducible assumption | with_reducible intro _ | with_reducible apply State_setLines_canon
      | with_reducible apply foldl_canon)

theorem State_applyMem_canon (s : State) (i : Image) (h_s : State.Canonical s) : State.Canonical (State.applyMem s i) := by
  unfold State.applyMem
  repeat' (first
      | with_reducible assumption | dsimp only | with_reducible refine @ite_canon _ _ _ _ ?_ ?_ | with_reducible intro _
      | with_reducible apply State_zeroFill_canon | with_reducible apply State_applyPool_canon
      | with_reducible apply State_dropLines_canon | with_reducible apply foldl_canon | split
      | (fail_if_no_progress (with_reducible apply canon_mk; with_reducible apply Canon3.of)))

theorem State_applyCore_canon (s : State) (i : Image) (c : Nat) (h_s : State.Canonical s) : State.Canonical (State.applyCore s i c) := by
  unfold State.applyCore
  repeat' (first
      | with_reducible assumption | dsimp only | with_reducible apply State_updCore_canon)

theorem State_applyEngine_canon (s : State) (i : Image) (e : Nat) (h_s : State.Canonical s) : State.Canonical (State.applyEngine s i e) := by
  unfold State.applyEngine
  repeat' (first
      | with_reducible assumption | with_reducible apply State_updEngine_canon)

theorem State_applyPort_canon (s : State) (i : Image) (p : Nat) (h_s : State.Canonical s) : State.Canonical (State.applyPort s i p) := by
  unfold State.applyPort
  repeat' (first
      | with_reducible assumption | dsimp only | with_reducible refine @ite_canon _ _ _ _ ?_ ?_
      | with_reducible apply State_setPort_canon | with_reducible apply State_portTo_canon)

theorem State_applyLink_canon (s : State) (i : Image) (h_s : State.Canonical s) : State.Canonical (State.applyLink s i) := by
  unfold State.applyLink
  repeat' (first
      | with_reducible assumption | dsimp only | with_reducible intro _ | with_reducible apply State_applyPort_canon
      | with_reducible apply foldl_canon
      | (fail_if_no_progress (with_reducible apply canon_mk; with_reducible apply Canon3.of)))

theorem State_applyTree_canon (s : State) (i : Image) (t : Nat) (h_s : State.Canonical s) : State.Canonical (State.applyTree s i t) := by
  unfold State.applyTree
  repeat' (first
      | with_reducible assumption | dsimp only | with_reducible apply State_setTree_canon)

theorem State_applyCad_canon (s : State) (i : Image) (h_s : State.Canonical s) : State.Canonical (State.applyCad s i) := by
  unfold State.applyCad
  repeat' (first
      | with_reducible assumption | dsimp only | with_reducible refine @ite_canon _ _ _ _ ?_ ?_
      | with_reducible apply State_setCad_canon | with_reducible apply State_genlock_canon)

theorem State_applyBell_canon (s : State) (i : Image) (h_s : State.Canonical s) : State.Canonical (State.applyBell s i) := by
  unfold State.applyBell
  repeat' (first
      | with_reducible assumption | dsimp only
      | (fail_if_no_progress (with_reducible apply canon_mk; with_reducible apply Canon3.of)))

theorem State_applyProt_canon (s : State) (i : Image) (closed : Bool) (h_s : State.Canonical s) : State.Canonical (State.applyProt s i closed) := by
  unfold State.applyProt
  repeat' (first
      | with_reducible assumption | dsimp only | with_reducible refine @ite_canon _ _ _ _ ?_ ?_ | split
      | (fail_if_no_progress (with_reducible apply canon_mk; with_reducible apply Canon3.of)))

theorem State_allotCore_canon (s : State) (c : Nat) (counts : List Nat) (part : Nat) (h_s : State.Canonical s) : State.Canonical (State.allotCore s c counts part) := by
  unfold State.allotCore
  repeat' (first
      | with_reducible assumption | dsimp only | with_reducible intro _ | with_reducible apply State_setThr_canon
      | with_reducible apply State_updCore_canon | with_reducible apply foldl_canon)

theorem State_allotCtx_canon (s : State) (x : Nat) (w : Word) (h_s : State.Canonical s) : State.Canonical (State.allotCtx s x w) := by
  unfold State.allotCtx
  repeat' (first
      | with_reducible assumption | dsimp only | with_reducible refine @ite_canon _ _ _ _ ?_ ?_
      | with_reducible apply State_setCtx_canon)

theorem State_allot_canon (s : State) (i : Image) (h_s : State.Canonical s) : State.Canonical (State.allot s i) := by
  unfold State.allot
  repeat' (first
      | with_reducible assumption | dsimp only | with_reducible intro _ | with_reducible apply State_haltPins_canon
      | with_reducible apply State_applyTree_canon | with_reducible apply State_allotCore_canon
      | with_reducible apply State_allotCtx_canon | with_reducible apply foldl_canon)

theorem State_unallot_canon (s : State) (h_s : State.Canonical s) : State.Canonical (State.unallot s) := by
  unfold State.unallot
  repeat' (first
      | with_reducible assumption | dsimp only | with_reducible refine @ite_canon _ _ _ _ ?_ ?_ | with_reducible intro _
      | with_reducible apply State_updCore_canon | with_reducible apply State_updTree_canon
      | with_reducible apply State_haltPins_canon | with_reducible apply foldl_canon
      | (fail_if_no_progress (with_reducible apply canon_mk; with_reducible apply Canon3.of)))

theorem State_applyPlim_canon (s : State) (i : Image) (h_s : State.Canonical s) : State.Canonical (State.applyPlim s i) := by
  unfold State.applyPlim
  repeat' (first
      | with_reducible assumption | dsimp only
      | (fail_if_no_progress (with_reducible apply canon_mk; with_reducible apply Canon3.of)))

theorem State_applyUnits_canon (s : State) (i : Image) (h_s : State.Canonical s) : State.Canonical (State.applyUnits s i) := by
  unfold State.applyUnits
  repeat' (first
      | with_reducible assumption | dsimp only | with_reducible intro _ | with_reducible apply State_setPower_canon
      | with_reducible apply State_applyPart_canon | with_reducible apply State_applyMem_canon
      | with_reducible apply State_applyCore_canon | with_reducible apply State_applyEngine_canon
      | with_reducible apply State_applyPlim_canon | with_reducible apply foldl_canon)

theorem State_applyRest_canon (s : State) (i : Image) (closed keep : Bool) (h_s : State.Canonical s) : State.Canonical (State.applyRest s i closed keep) := by
  unfold State.applyRest
  repeat' (first
      | with_reducible assumption | dsimp only | with_reducible refine @ite_canon _ _ _ _ ?_ ?_
      | with_reducible apply State_applyLink_canon | with_reducible apply State_applyCad_canon
      | with_reducible apply State_applyBell_canon | with_reducible apply State_applyProt_canon)

theorem State_applyImage_canon (s : State) (i : Image) (closed keep : Bool) (h_s : State.Canonical s) : State.Canonical (State.applyImage s i closed keep) := by
  unfold State.applyImage
  repeat' (first
      | with_reducible assumption | dsimp only | with_reducible refine @ite_canon _ _ _ _ ?_ ?_
      | with_reducible apply State_reclock_canon | with_reducible apply State_allot_canon
      | with_reducible apply State_unallot_canon | with_reducible apply State_applyUnits_canon
      | with_reducible apply State_applyRest_canon)

theorem State_gearReject_canon (s : State) (r : Rej) (h_s : State.Canonical s) : State.Canonical (State.gearReject s r) := by
  unfold State.gearReject
  repeat' (first
      | with_reducible assumption | with_reducible apply State_raise_canon
      | (fail_if_no_progress (with_reducible apply canon_mk; with_reducible apply Canon3.of)))

theorem State_gearEnd_canon (s : State) (h_s : State.Canonical s) : State.Canonical (State.gearEnd s) := by
  unfold State.gearEnd
  repeat' (first
      | with_reducible assumption | dsimp only
      | (fail_if_no_progress (with_reducible apply canon_mk; with_reducible apply Canon3.of)))

theorem State_newChal_canon (s : State) (h_s : State.Canonical s) : State.Canonical (State.newChal s) := by
  unfold State.newChal
  repeat' (first
      | with_reducible assumption | dsimp only | with_reducible apply State_draw_canon
      | (fail_if_no_progress (with_reducible apply canon_mk; with_reducible apply Canon3.of)))

theorem State_gearActive_canon (s : State) (i : Image) (h_s : State.Canonical s) : State.Canonical (State.gearActive s i) := by
  unfold State.gearActive
  repeat' (first
      | with_reducible assumption | dsimp only | with_reducible refine @ite_canon _ _ _ _ ?_ ?_
      | with_reducible apply State_raise_canon | with_reducible apply State_newChal_canon | split
      | (fail_if_no_progress (with_reducible apply canon_mk; with_reducible apply Canon3.of)))

theorem State_gearGo_canon (s : State) (v : Word) (h_s : State.Canonical s) : State.Canonical (State.gearGo s v) := by
  unfold State.gearGo
  repeat' (first
      | with_reducible assumption | dsimp only | with_reducible apply State_gearReject_canon | split
      | (fail_if_no_progress (with_reducible apply canon_mk; with_reducible apply Canon3.of)))

theorem State_gearWithdraw_canon (s : State) (h_s : State.Canonical s) : State.Canonical (State.gearWithdraw s) := by
  unfold State.gearWithdraw
  repeat' (first
      | with_reducible assumption | with_reducible refine @ite_canon _ _ _ _ ?_ ?_
      | with_reducible apply State_gearReject_canon | with_reducible apply State_gearEnd_canon)

theorem State_gearCtl_canon (s : State) (v : Word) (h_s : State.Canonical s) : State.Canonical (State.gearCtl s v) := by
  unfold State.gearCtl
  repeat' (first
      | with_reducible assumption | with_reducible refine @ite_canon _ _ _ _ ?_ ?_ | with_reducible apply State_gearGo_canon
      | with_reducible apply State_gearWithdraw_canon)

theorem execGearLoad_canon (v : Word) (s : State) (h_s : State.Canonical s) : ResCanon (execGearLoad v s) := by
  unfold execGearLoad
  repeat' (first
      | with_reducible assumption | with_reducible apply resNext | with_reducible apply State_gearCtl_canon)

theorem execGearFlashLoad_canon (v : Word) (s : State) (h_s : State.Canonical s) : ResCanon (execGearFlashLoad v s) := by
  unfold execGearFlashLoad
  repeat' (first
      | with_reducible assumption | with_reducible apply resNext | with_reducible apply State_gearCtl_canon)

theorem execGearAbort_canon (s : State) (h_s : State.Canonical s) : ResCanon (execGearAbort s) := by
  unfold execGearAbort
  repeat' (first
      | with_reducible assumption | with_reducible apply resNext | with_reducible apply State_gearCtl_canon)

theorem State_validate_canon (s : State) (i : Image) (len : Nat) (h_s : State.Canonical s) : State.Canonical (State.validate s i len) := by
  unfold State.validate
  repeat' (first
      | with_reducible assumption | dsimp only | with_reducible refine @ite_canon _ _ _ _ ?_ ?_
      | with_reducible apply State_gearReject_canon | with_reducible apply State_gearEnd_canon
      | with_reducible apply State_gearActive_canon | split
      | (fail_if_no_progress (with_reducible apply canon_mk; with_reducible apply Canon3.of)))

theorem execImageValidation_canon (img : Option Image) (s : State) (h_s : State.Canonical s) : ResCanon (execImageValidation img s) := by
  unfold execImageValidation
  repeat' (first
      | with_reducible assumption | dsimp only | with_reducible refine @ite_canon _ _ _ _ ?_ ?_
      | with_reducible apply resNext | with_reducible apply State_gearReject_canon | with_reducible apply State_gearEnd_canon
      | with_reducible apply State_validate_canon | split)

theorem execQuiescenceObserved_canon (s : State) (h_s : State.Canonical s) : ResCanon (execQuiescenceObserved s) := by
  unfold execQuiescenceObserved
  repeat' (first
      | with_reducible assumption | dsimp only | with_reducible refine @ite_canon _ _ _ _ ?_ ?_
      | with_reducible apply resNext | (fail_if_no_progress (with_reducible apply canon_mk; with_reducible apply Canon3.of)))

theorem State_applyLoad_canon (s : State) (h_s : State.Canonical s) : State.Canonical (State.applyLoad s) := by
  unfold State.applyLoad
  repeat' (first
      | with_reducible assumption | with_reducible apply State_applyImage_canon | with_reducible apply State_gearActive_canon
      | split)

theorem State_startImage_canon (s : State) (h_s : State.Canonical s) : State.Canonical (State.startImage s) := by
  unfold State.startImage
  repeat' (first
      | with_reducible assumption | dsimp only | with_reducible apply State_applyImage_canon
      | with_reducible apply State_gearReject_canon | with_reducible apply State_gearActive_canon | split
      | (fail_if_no_progress (with_reducible apply canon_mk; with_reducible apply Canon3.of)))

theorem execMemReady_canon (s : State) (h_s : State.Canonical s) : ResCanon (execMemReady s) := by
  unfold execMemReady
  repeat' (first
      | with_reducible assumption | dsimp only | with_reducible refine @ite_canon _ _ _ _ ?_ ?_
      | with_reducible apply resNext | with_reducible apply State_zeroFill_canon | with_reducible apply State_allot_canon
      | split | (fail_if_no_progress (with_reducible apply canon_mk; with_reducible apply Canon3.of)))

theorem State_newNonce_canon (s : State) (h_s : State.Canonical s) : State.Canonical (State.newNonce s) := by
  unfold State.newNonce
  repeat' (first
      | with_reducible assumption | dsimp only | with_reducible apply State_draw_canon
      | (fail_if_no_progress (with_reducible apply canon_mk; with_reducible apply Canon3.of)))

theorem State_enterSag_canon (s : State) (h_s : State.Canonical s) : State.Canonical (State.enterSag s) := by
  unfold State.enterSag
  repeat' (first
      | with_reducible assumption | dsimp only
      | (fail_if_no_progress (with_reducible apply canon_mk; with_reducible apply Canon3.of)))

theorem State_bootSlot_canon (s : State) (b : Bool) (h_s : State.Canonical s) : State.Canonical (State.bootSlot s b) := by
  unfold State.bootSlot
  repeat' (first
      | with_reducible assumption | dsimp only | with_reducible refine @ite_canon _ _ _ _ ?_ ?_
      | with_reducible apply State_raise_canon | split
      | (fail_if_no_progress (with_reducible apply canon_mk; with_reducible apply Canon3.of)))

theorem State_reapply_canon (s : State) (h_s : State.Canonical s) : State.Canonical (State.reapply s) := by
  unfold State.reapply
  repeat' (first
      | with_reducible assumption | with_reducible refine @ite_canon _ _ _ _ ?_ ?_
      | with_reducible apply State_applyImage_canon | split)

theorem State_startUp_canon (s : State) (h_s : State.Canonical s) : State.Canonical (State.startUp s) := by
  unfold State.startUp
  repeat' (first
      | with_reducible assumption | dsimp only | with_reducible refine @ite_canon _ _ _ _ ?_ ?_
      | with_reducible apply State_startImage_canon | with_reducible apply State_reapply_canon
      | (fail_if_no_progress (with_reducible apply canon_mk; with_reducible apply Canon3.of)))

theorem State_saveBoot_canon (s : State) (h_s : State.Canonical s) : State.Canonical (State.saveBoot s) := by
  unfold State.saveBoot
  repeat' (first
      | with_reducible assumption | (fail_if_no_progress (with_reducible apply canon_mk; with_reducible apply Canon3.of)))

theorem execRomStart_canon (s : State) (h_s : State.Canonical s) : ResCanon (execRomStart s) := by
  unfold execRomStart
  repeat' (first
      | with_reducible assumption | dsimp only | with_reducible refine @ite_canon _ _ _ _ ?_ ?_
      | with_reducible apply resNext | with_reducible apply State_reclock_canon | with_reducible apply State_setPower_canon
      | with_reducible apply State_newChal_canon | with_reducible apply State_newNonce_canon
      | with_reducible apply State_enterSag_canon | with_reducible apply State_bootSlot_canon
      | with_reducible apply State_startUp_canon | with_reducible apply State_saveBoot_canon | split
      | (fail_if_no_progress (with_reducible apply canon_mk; with_reducible apply Canon3.of)))

theorem execBootWatchdogExpiry_canon (s : State) (h_s : State.Canonical s) : ResCanon (execBootWatchdogExpiry s) := by
  unfold execBootWatchdogExpiry
  repeat' (first
      | with_reducible assumption | dsimp only | with_reducible refine @ite_canon _ _ _ _ ?_ ?_
      | with_reducible apply resNext | with_reducible apply State_reclock_canon | with_reducible apply State_gearEnd_canon
      | split | (fail_if_no_progress (with_reducible apply canon_mk; with_reducible apply Canon3.of)))

theorem execBootConfirmation_canon (s : State) (h_s : State.Canonical s) : ResCanon (execBootConfirmation s) := by
  unfold execBootConfirmation
  repeat' (first
      | with_reducible assumption | dsimp only | with_reducible refine @ite_canon _ _ _ _ ?_ ?_
      | with_reducible apply resNext | split
      | (fail_if_no_progress (with_reducible apply canon_mk; with_reducible apply Canon3.of)))

theorem State_coldRings_canon (s s1 : State) (h_s : State.Canonical s) (h_s1 : State.Canonical s1) : State.Canonical (State.coldRings s s1) := by
  unfold State.coldRings
  repeat' (first
      | with_reducible assumption | dsimp only | with_reducible refine @ite_canon _ _ _ _ ?_ ?_
      | with_reducible apply State_loseQueued_canon
      | (fail_if_no_progress (with_reducible apply canon_mk; with_reducible apply Canon3.of)))

theorem State_cold_canon (s : State) (on : Bool) (h : State.Canonical s) : State.Canonical (s.cold on) :=
  State_reclock_canon _ (State_coldRings_canon _ _ h ⟨rfl, rfl, rfl⟩)

theorem State_warm_canon (s : State) (h_s : State.Canonical s) : State.Canonical s.warm := ⟨rfl, rfl, rfl⟩

theorem State_abortLoad_canon (s : State) (h_s : State.Canonical s) : State.Canonical (State.abortLoad s) := by
  unfold State.abortLoad
  repeat' (first
      | with_reducible assumption | with_reducible refine @ite_canon _ _ _ _ ?_ ?_
      | with_reducible apply State_gearReject_canon | with_reducible apply State_gearEnd_canon)

theorem execPerstNAssert_canon (s : State) (h_s : State.Canonical s) : ResCanon (execPerstNAssert s) := by
  unfold execPerstNAssert
  repeat' (first
      | with_reducible assumption | dsimp only | with_reducible refine @ite_canon _ _ _ _ ?_ ?_
      | with_reducible apply resNext | with_reducible apply State_warm_canon | with_reducible apply State_abortLoad_canon
      | (fail_if_no_progress (with_reducible apply canon_mk; with_reducible apply Canon3.of)))

theorem execPerstNDeassert_canon (s : State) (h_s : State.Canonical s) : ResCanon (execPerstNDeassert s) := by
  unfold execPerstNDeassert
  repeat' (first
      | with_reducible assumption | dsimp only | with_reducible refine @ite_canon _ _ _ _ ?_ ?_
      | with_reducible apply resNext | with_reducible apply State_reapply_canon | with_reducible apply State_startUp_canon
      | (fail_if_no_progress (with_reducible apply canon_mk; with_reducible apply Canon3.of)))

theorem execApplyComplete_canon (s : State) (h_s : State.Canonical s) : ResCanon (execApplyComplete s) := by
  unfold execApplyComplete
  repeat' (first
      | with_reducible assumption | dsimp only | with_reducible refine @ite_canon _ _ _ _ ?_ ?_
      | with_reducible apply resNext | with_reducible apply State_applyLoad_canon | with_reducible apply State_reapply_canon
      | with_reducible apply State_warm_canon)

theorem execPwrOkRise_canon (inRange : Bool) (s : State) (h_s : State.Canonical s) : ResCanon (execPwrOkRise inRange s) := by
  unfold execPwrOkRise
  repeat' (first
      | with_reducible assumption | dsimp only | with_reducible refine @ite_canon _ _ _ _ ?_ ?_
      | with_reducible apply resNext | with_reducible apply State_cold_canon
      | (fail_if_no_progress (with_reducible apply canon_mk; with_reducible apply Canon3.of)))

theorem execInputVoltageInRange_canon (s : State) (h_s : State.Canonical s) : ResCanon (execInputVoltageInRange s) := by
  unfold execInputVoltageInRange
  repeat' (first
      | with_reducible assumption | dsimp only | with_reducible refine @ite_canon _ _ _ _ ?_ ?_
      | with_reducible apply resNext | with_reducible apply State_cold_canon
      | (fail_if_no_progress (with_reducible apply canon_mk; with_reducible apply Canon3.of)))

theorem execPwrOkFall_canon (s : State) (h_s : State.Canonical s) : ResCanon (execPwrOkFall s) := by
  unfold execPwrOkFall
  repeat' (first
      | with_reducible assumption | dsimp only | with_reducible apply resNext | with_reducible apply State_cold_canon
      | (fail_if_no_progress (with_reducible apply canon_mk; with_reducible apply Canon3.of)))

theorem State_limitDie_canon (s : State) (p t d : Nat) (h : State.Canonical s) : State.Canonical (s.limitDie p t d) := by
  unfold State.limitDie
  refine ite_canon (State_raise_canon _ _ _ _ _ _ _ h) h

theorem State_limitFloor_canon (s : State) (p : Nat) (floor : Bool) (h_s : State.Canonical s) : State.Canonical (State.limitFloor s p floor) := by
  unfold State.limitFloor
  repeat' (first
      | with_reducible assumption | dsimp only | with_reducible refine @ite_canon _ _ _ _ ?_ ?_
      | with_reducible apply State_raise_canon
      | (fail_if_no_progress (with_reducible apply canon_mk; with_reducible apply Canon3.of)))

theorem State_limitHub_canon (s : State) (t : Nat) (h_s : State.Canonical s) : State.Canonical (State.limitHub s t) := by
  unfold State.limitHub
  repeat' (first
      | with_reducible assumption | dsimp only | with_reducible refine @ite_canon _ _ _ _ ?_ ?_
      | with_reducible apply State_raise_canon
      | (fail_if_no_progress (with_reducible apply canon_mk; with_reducible apply Canon3.of)))

theorem execLimitEvaluation_canon (power : Nat) (temps : Temps) (s : State) (h_s : State.Canonical s) : ResCanon (execLimitEvaluation power temps s) := by
  unfold execLimitEvaluation
  repeat' (first
      | with_reducible assumption | dsimp only | with_reducible refine @ite_canon _ _ _ _ ?_ ?_
      | with_reducible apply resNext | with_reducible apply State_draw_canon | with_reducible apply State_limitDie_canon
      | with_reducible apply State_limitFloor_canon | with_reducible apply State_limitHub_canon
      | (fail_if_no_progress (with_reducible apply canon_mk; with_reducible apply Canon3.of)))

theorem execCclkChangeComplete_canon (d : DieId) (s : State) (h_s : State.Canonical s) : ResCanon (execCclkChangeComplete d s) := by
  unfold execCclkChangeComplete
  repeat' (first
      | with_reducible assumption | dsimp only | with_reducible refine @ite_canon _ _ _ _ ?_ ?_
      | with_reducible apply resNext | (fail_if_no_progress (with_reducible apply canon_mk; with_reducible apply Canon3.of)))

theorem State_switchOff_canon (s : State) (h_s : State.Canonical s) : State.Canonical (State.switchOff s) := by
  unfold State.switchOff
  repeat' (first
      | with_reducible assumption | dsimp only | with_reducible apply State_setPower_canon
      | with_reducible apply State_gearEnd_canon
      | (fail_if_no_progress (with_reducible apply canon_mk; with_reducible apply Canon3.of)))

theorem execThermalTrip_canon (die : Fin 5) (temp : Nat) (s : State) (h_s : State.Canonical s) : ResCanon (execThermalTrip die temp s) := by
  unfold execThermalTrip
  repeat' (first
      | with_reducible assumption | dsimp only | with_reducible refine @ite_canon _ _ _ _ ?_ ?_
      | with_reducible apply resNext | with_reducible apply State_scFatal_canon | with_reducible apply State_switchOff_canon
      | (fail_if_no_progress (with_reducible apply canon_mk; with_reducible apply Canon3.of)))

theorem execRailFault_canon (rail : Byte) (s : State) (h_s : State.Canonical s) : ResCanon (execRailFault rail s) := by
  unfold execRailFault
  repeat' (first
      | with_reducible assumption | dsimp only | with_reducible refine @ite_canon _ _ _ _ ?_ ?_
      | with_reducible apply resNext | with_reducible apply State_scFatal_canon | with_reducible apply State_switchOff_canon
      | (fail_if_no_progress (with_reducible apply canon_mk; with_reducible apply Canon3.of)))

theorem execRef25Loss_canon (s : State) (h_s : State.Canonical s) : ResCanon (execRef25Loss s) := by
  unfold execRef25Loss
  repeat' (first
      | with_reducible assumption | dsimp only | with_reducible refine @ite_canon _ _ _ _ ?_ ?_
      | with_reducible apply resNext | with_reducible apply State_reclock_canon | with_reducible apply State_warm_canon
      | with_reducible apply State_abortLoad_canon
      | (fail_if_no_progress (with_reducible apply canon_mk; with_reducible apply Canon3.of)))

theorem execRef25Return_canon (s : State) (h_s : State.Canonical s) : ResCanon (execRef25Return s) := by
  unfold execRef25Return
  repeat' (first
      | with_reducible assumption | dsimp only | with_reducible refine @ite_canon _ _ _ _ ?_ ?_
      | with_reducible apply resNext | with_reducible apply State_reclock_canon | with_reducible apply State_reapply_canon
      | with_reducible apply State_startUp_canon
      | (fail_if_no_progress (with_reducible apply canon_mk; with_reducible apply Canon3.of)))

theorem execPcieLinkUp_canon (width : Fin 4) (rate : Fin 7) (cfg : HostCfg) (s : State) (h_s : State.Canonical s) : ResCanon (execPcieLinkUp width rate cfg s) := by
  unfold execPcieLinkUp
  repeat' (first
      | with_reducible assumption | dsimp only | with_reducible refine @ite_canon _ _ _ _ ?_ ?_
      | with_reducible apply resNext | (fail_if_no_progress (with_reducible apply canon_mk; with_reducible apply Canon3.of)))

theorem State_setSpdm_canon (s : State) (p : SpdmPath) (x : Spdm) (h_s : State.Canonical s) : State.Canonical (State.setSpdm s p x) := by
  unfold State.setSpdm
  repeat' (first
      | with_reducible assumption | dsimp only | split
      | (fail_if_no_progress (with_reducible apply canon_mk; with_reducible apply Canon3.of)))

theorem State_spdmSigned_canon (s : State) (p : SpdmPath) (code : Nat) (nonce : List Byte) (body : List Word) (h_s : State.Canonical s) : State.Canonical (State.spdmSigned s p code nonce body) := by
  unfold State.spdmSigned
  repeat' (first
      | with_reducible assumption | dsimp only | with_reducible apply State_emit_canon)

theorem State_spdmError_canon (s : State) (p : SpdmPath) (h_s : State.Canonical s) : State.Canonical (State.spdmError s p) := by
  unfold State.spdmError
  repeat' (first
      | with_reducible assumption | with_reducible apply State_spdmSigned_canon)

theorem State_spdmBody_canon (s : State) (p : SpdmPath) (code : Nat) (h_s : State.Canonical s) : State.Canonical (State.spdmBody s p code) := by
  unfold State.spdmBody
  repeat' (first
      | with_reducible assumption | with_reducible apply State_draw_canon | with_reducible apply State_spdmSigned_canon)

theorem State_spdmIf_canon (s : State) (p : SpdmPath) (ok : Spdm → Bool) (f : Spdm → State) (h_s : State.Canonical s) (h_f : ∀ y, State.Canonical (f y)) : State.Canonical (State.spdmIf s p ok f) := by
  unfold State.spdmIf
  repeat' (first
      | with_reducible assumption | with_reducible refine @ite_canon _ _ _ _ ?_ ?_
      | with_reducible apply State_spdmError_canon | with_reducible apply h_f)

theorem execGetVersion_canon (path : SpdmPath) (s : State) (h_s : State.Canonical s) : ResCanon (execGetVersion path s) := by
  unfold execGetVersion
  repeat' (first
      | with_reducible assumption | with_reducible intro _ | with_reducible apply resNext
      | with_reducible apply State_setSpdm_canon | with_reducible apply State_spdmSigned_canon
      | with_reducible apply State_spdmIf_canon)

theorem execGetCapabilities_canon (path : SpdmPath) (s : State) (h_s : State.Canonical s) : ResCanon (execGetCapabilities path s) := by
  unfold execGetCapabilities
  repeat' (first
      | with_reducible assumption | with_reducible intro _ | with_reducible apply resNext
      | with_reducible apply State_setSpdm_canon | with_reducible apply State_spdmSigned_canon
      | with_reducible apply State_spdmIf_canon)

theorem execNegotiateAlgorithms_canon (path : SpdmPath) (s : State) (h_s : State.Canonical s) : ResCanon (execNegotiateAlgorithms path s) := by
  unfold execNegotiateAlgorithms
  repeat' (first
      | with_reducible assumption | with_reducible intro _ | with_reducible apply resNext
      | with_reducible apply State_setSpdm_canon | with_reducible apply State_spdmSigned_canon
      | with_reducible apply State_spdmIf_canon)

theorem execGetDigests_canon (path : SpdmPath) (s : State) (h_s : State.Canonical s) : ResCanon (execGetDigests path s) := by
  unfold execGetDigests
  repeat' (first
      | with_reducible assumption | with_reducible intro _ | with_reducible apply resNext
      | with_reducible apply State_spdmSigned_canon | with_reducible apply State_spdmIf_canon)

theorem execGetCertificate_canon (path : SpdmPath) (slot : Fin 8) (off len : BitVec 16) (s : State) (h_s : State.Canonical s) : ResCanon (execGetCertificate path slot off len s) := by
  unfold execGetCertificate
  repeat' (first
      | with_reducible assumption | with_reducible intro _ | with_reducible apply resNext
      | with_reducible apply State_spdmSigned_canon | with_reducible apply State_spdmIf_canon)

theorem execChallenge_canon (path : SpdmPath) (slot : Fin 8) (nonce : BitVec 256) (s : State) (h_s : State.Canonical s) : ResCanon (execChallenge path slot nonce s) := by
  unfold execChallenge
  repeat' (first
      | with_reducible assumption | with_reducible intro _ | with_reducible apply resNext
      | with_reducible apply State_draw_canon | with_reducible apply State_spdmSigned_canon
      | with_reducible apply State_spdmIf_canon)

theorem execGetMeasurements_canon (path : SpdmPath) (index : Byte) (nonce : BitVec 256) (s : State) (h_s : State.Canonical s) : ResCanon (execGetMeasurements path index nonce s) := by
  unfold execGetMeasurements
  repeat' (first
      | with_reducible assumption | dsimp only | with_reducible intro _ | with_reducible apply resNext
      | with_reducible apply State_spdmSigned_canon | with_reducible apply State_spdmIf_canon)

theorem execKeyExchange_canon (path : SpdmPath) (share : List Byte) (s : State) (h_s : State.Canonical s) : ResCanon (execKeyExchange path share s) := by
  unfold execKeyExchange
  repeat' (first
      | with_reducible assumption | with_reducible intro _ | with_reducible apply resNext
      | with_reducible apply State_draw_canon | with_reducible apply State_setSpdm_canon
      | with_reducible apply State_spdmSigned_canon | with_reducible apply State_spdmIf_canon)

theorem execFinish_canon (path : SpdmPath) (mac : List Byte) (s : State) (h_s : State.Canonical s) : ResCanon (execFinish path mac s) := by
  unfold execFinish
  repeat' (first
      | with_reducible assumption | with_reducible intro _ | with_reducible apply resNext
      | with_reducible apply State_setSpdm_canon | with_reducible apply State_spdmBody_canon
      | with_reducible apply State_spdmIf_canon)

theorem execEndSession_canon (path : SpdmPath) (s : State) (h_s : State.Canonical s) : ResCanon (execEndSession path s) := by
  unfold execEndSession
  repeat' (first
      | with_reducible assumption | with_reducible intro _ | with_reducible apply resNext
      | with_reducible apply State_setSpdm_canon | with_reducible apply State_spdmBody_canon
      | with_reducible apply State_spdmIf_canon)

theorem execKeyUpdate_canon (path : SpdmPath) (s : State) (h_s : State.Canonical s) : ResCanon (execKeyUpdate path s) := by
  unfold execKeyUpdate
  repeat' (first
      | with_reducible assumption | with_reducible intro _ | with_reducible apply resNext
      | with_reducible apply State_setSpdm_canon | with_reducible apply State_spdmBody_canon
      | with_reducible apply State_spdmIf_canon)

theorem execVendorDefinedRequest_canon (path : SpdmPath) (body : List Byte) (s : State) (h_s : State.Canonical s) : ResCanon (execVendorDefinedRequest path body s) := by
  unfold execVendorDefinedRequest
  repeat' (first
      | with_reducible assumption | dsimp only | with_reducible intro _ | with_reducible apply resNext
      | with_reducible apply State_draw_canon | with_reducible apply State_spdmSigned_canon
      | with_reducible apply State_spdmIf_canon
      | (fail_if_no_progress (with_reducible apply canon_mk; with_reducible apply Canon3.of)))

theorem State_respond1_canon (s : State) (p : MbxPath) (type status : Nat) (tag : BitVec 16) (body : List Word) (h_s : State.Canonical s) : State.Canonical (State.respond1 s p type status tag body) := by
  unfold State.respond1
  repeat' (first
      | with_reducible assumption | dsimp only | with_reducible apply State_emit_canon | split
      | (fail_if_no_progress (with_reducible apply canon_mk; with_reducible apply Canon3.of)))

theorem State_serve_canon (s : State) (p : MbxPath) (type : Nat) (tag : BitVec 16) (avail : Bool) (f : State → State × Nat × List Word) (h_s : State.Canonical s) (h_f : ∀ s, State.Canonical s → State.Canonical (f s).1) : State.Canonical (State.serve s p type tag avail f) := by
  unfold State.serve
  repeat' (first
      | with_reducible assumption | dsimp only | with_reducible refine @ite_canon _ _ _ _ ?_ ?_
      | with_reducible apply State_respond1_canon | with_reducible apply h_f)

theorem execGetInfo_canon (p : MbxPath) (tag : BitVec 16) (s : State) (h_s : State.Canonical s) : ResCanon (execGetInfo p tag s) := by
  unfold execGetInfo
  repeat' (first
      | with_reducible assumption | dsimp only | with_reducible intro _ | with_reducible apply resNext
      | with_reducible apply State_serve_canon)

theorem State_openSession_canon (s : State) (sag : Bool) (p : MbxPath) (len : Nat) (h_s : State.Canonical s) : State.Canonical (State.openSession s sag p len).1 := by
  unfold State.openSession
  repeat' (first
      | with_reducible assumption | dsimp only | with_reducible refine @ite_canon_fst _ _ _ _ _ ?_ ?_
      | (fail_if_no_progress (with_reducible apply canon_mk; with_reducible apply Canon3.of)))

theorem State_stage_canon (s : State) (sag : Bool) (p : MbxPath) (off : Nat) (bytes : List Byte) (h_s : State.Canonical s) : State.Canonical (State.stage s sag p off bytes).1 := by
  unfold State.stage
  repeat' (first
      | with_reducible assumption | dsimp only | with_reducible refine @ite_canon_fst _ _ _ _ _ ?_ ?_ | split
      | (fail_if_no_progress (with_reducible apply canon_mk; with_reducible apply Canon3.of)))

theorem execUpdBegin_canon (p : MbxPath) (tag : BitVec 16) (len : Nat) (s : State) (h_s : State.Canonical s) : ResCanon (execUpdBegin p tag len s) := by
  unfold execUpdBegin
  repeat' (first
      | with_reducible assumption | with_reducible intro _ | with_reducible apply resNext
      | with_reducible apply State_serve_canon | with_reducible apply State_openSession_canon)

theorem execUpdData_canon (p : MbxPath) (tag : BitVec 16) (off : Nat) (bytes : List Byte) (s : State) (h_s : State.Canonical s) : ResCanon (execUpdData p tag off bytes s) := by
  unfold execUpdData
  repeat' (first
      | with_reducible assumption | with_reducible intro _ | with_reducible apply resNext
      | with_reducible apply State_serve_canon | with_reducible apply State_stage_canon)

theorem execSagBegin_canon (p : MbxPath) (tag : BitVec 16) (len : Nat) (s : State) (h_s : State.Canonical s) : ResCanon (execSagBegin p tag len s) := by
  unfold execSagBegin
  repeat' (first
      | with_reducible assumption | with_reducible intro _ | with_reducible apply resNext
      | with_reducible apply State_serve_canon | with_reducible apply State_openSession_canon)

theorem execSagData_canon (p : MbxPath) (tag : BitVec 16) (off : Nat) (bytes : List Byte) (s : State) (h_s : State.Canonical s) : ResCanon (execSagData p tag off bytes s) := by
  unfold execSagData
  repeat' (first
      | with_reducible assumption | with_reducible intro _ | with_reducible apply resNext
      | with_reducible apply State_serve_canon | with_reducible apply State_stage_canon)

theorem execUpdEnd_canon (p : MbxPath) (tag : BitVec 16) (s : State) (h_s : State.Canonical s) : ResCanon (execUpdEnd p tag s) := by
  unfold execUpdEnd
  repeat' (first
      | with_reducible assumption | dsimp only | with_reducible intro _ | with_reducible apply resNext
      | with_reducible apply State_serve_canon | split
      | (fail_if_no_progress (with_reducible apply canon_mk; with_reducible apply Canon3.of)))

theorem execActivate_canon (p : MbxPath) (tag : BitVec 16) (slot : Bool) (s : State) (h_s : State.Canonical s) : ResCanon (execActivate p tag slot s) := by
  unfold execActivate
  repeat' (first
      | with_reducible assumption | dsimp only | with_reducible refine @ite_canon_fst _ _ _ _ _ ?_ ?_
      | with_reducible intro _ | with_reducible apply resNext | with_reducible apply State_saveBoot_canon
      | with_reducible apply State_serve_canon
      | (fail_if_no_progress (with_reducible apply canon_mk; with_reducible apply Canon3.of)))

theorem execRestart_canon (p : MbxPath) (tag : BitVec 16) (s : State) (h_s : State.Canonical s) : ResCanon (execRestart p tag s) := by
  unfold execRestart
  repeat' (first
      | with_reducible assumption | dsimp only | with_reducible refine @ite_canon _ _ _ _ ?_ ?_ | with_reducible intro _
      | with_reducible apply resNext | with_reducible apply State_cold_canon | with_reducible apply State_serve_canon)

theorem State_accepted1_canon (s : State) (c : Sec) (h_s : State.Canonical s) : State.Canonical (State.accepted1 s c).1 := by
  unfold State.accepted1
  repeat' (first
      | with_reducible assumption | dsimp only | with_reducible apply State_newNonce_canon
      | (fail_if_no_progress (with_reducible apply canon_mk; with_reducible apply Canon3.of)))

theorem execKeyEnroll_canon (p : MbxPath) (tag : BitVec 16) (role : Role) (key : BitVec 256) (sigs : List MbxSig) (s : State) (h_s : State.Canonical s) : ResCanon (execKeyEnroll p tag role key sigs s) := by
  unfold execKeyEnroll
  repeat' (first
      | with_reducible assumption | dsimp only | with_reducible refine @ite_canon_fst _ _ _ _ _ ?_ ?_
      | with_reducible intro _ | with_reducible apply resNext | with_reducible apply State_serve_canon
      | with_reducible apply State_accepted1_canon)

theorem execKeyRevoke_canon (p : MbxPath) (tag : BitVec 16) (role : Role) (key : BitVec 256) (sigs : List MbxSig) (s : State) (h_s : State.Canonical s) : ResCanon (execKeyRevoke p tag role key sigs s) := by
  unfold execKeyRevoke
  repeat' (first
      | with_reducible assumption | dsimp only | with_reducible refine @ite_canon_fst _ _ _ _ _ ?_ ?_
      | with_reducible intro _ | with_reducible apply resNext | with_reducible apply State_serve_canon
      | with_reducible apply State_accepted1_canon)

theorem execGearSvn_canon (p : MbxPath) (tag : BitVec 16) (svn : BitVec 32) (sigs : List MbxSig) (s : State) (h_s : State.Canonical s) : ResCanon (execGearSvn p tag svn sigs s) := by
  unfold execGearSvn
  repeat' (first
      | with_reducible assumption | dsimp only | with_reducible refine @ite_canon_fst _ _ _ _ _ ?_ ?_
      | with_reducible intro _ | with_reducible apply resNext | with_reducible apply State_serve_canon
      | with_reducible apply State_accepted1_canon)

theorem execLogRead_canon (p : MbxPath) (tag : BitVec 16) (first count : Nat) (s : State) (h_s : State.Canonical s) : ResCanon (execLogRead p tag first count s) := by
  unfold execLogRead
  repeat' (first
      | with_reducible assumption | with_reducible refine @ite_canon_fst _ _ _ _ _ ?_ ?_ | with_reducible intro _
      | with_reducible apply resNext | with_reducible apply State_serve_canon)

theorem execSagEnd_canon (p : MbxPath) (tag : BitVec 16) (s : State) (h_s : State.Canonical s) : ResCanon (execSagEnd p tag s) := by
  unfold execSagEnd
  repeat' (first
      | with_reducible assumption | dsimp only | with_reducible refine @ite_canon_fst _ _ _ _ _ ?_ ?_
      | with_reducible intro _ | with_reducible apply resNext | with_reducible apply State_serve_canon | split
      | (fail_if_no_progress (with_reducible apply canon_mk; with_reducible apply Canon3.of)))

theorem State_hqEvent_canon (s : State) (q : Nat) (v : Word) (h_s : State.Canonical s) : State.Canonical (State.hqEvent s q v) := by
  unfold State.hqEvent
  repeat' (first
      | with_reducible assumption | with_reducible apply State_raiseHub_canon)

theorem State_hqEnable_canon (s : State) (q : Nat) (v : Word) (h_s : State.Canonical s) : State.Canonical (State.hqEnable s q v) := by
  unfold State.hqEnable
  repeat' (first
      | with_reducible assumption | with_reducible refine @ite_canon _ _ _ _ ?_ ?_ | with_reducible apply State_updHq_canon
      | with_reducible apply State_hqEvent_canon)

theorem execHqCfgWrite_canon (q : QueueId) (v : Word) (s : State) (h_s : State.Canonical s) : ResCanon (execHqCfgWrite q v s) := by
  unfold execHqCfgWrite
  repeat' (first
      | with_reducible assumption | with_reducible apply resNext | with_reducible apply State_byReg_canon
      | with_reducible apply State_hqEnable_canon)

theorem State_hqDoorbell_canon (s : State) (q : Nat) (v : Word) (h_s : State.Canonical s) : State.Canonical (State.hqDoorbell s q v) := by
  unfold State.hqDoorbell
  repeat' (first
      | with_reducible assumption | dsimp only | with_reducible refine @ite_canon _ _ _ _ ?_ ?_
      | with_reducible apply State_setHq_canon | with_reducible apply State_hqEvent_canon)

theorem execHqTail_canon (q : QueueId) (v : Word) (s : State) (h_s : State.Canonical s) : ResCanon (execHqTail q v s) := by
  unfold execHqTail
  repeat' (first
      | with_reducible assumption | with_reducible apply resNext | with_reducible apply State_byReg_canon
      | with_reducible apply State_hqDoorbell_canon)

theorem State_busWrite_canon (s : State) (addr : Nat) (bs : List Byte) (h_s : State.Canonical s) : State.Canonical (State.busWrite s addr bs) := by
  unfold State.busWrite
  repeat' (first
      | with_reducible assumption | with_reducible refine @ite_canon _ _ _ _ ?_ ?_ | with_reducible apply State_raise_canon
      | with_reducible apply State_hostPost_canon)

theorem State_hqWrite_canon (s : State) (q : Nat) (r : HqRec) (h_s : State.Canonical s) : State.Canonical (State.hqWrite s q r) := by
  unfold State.hqWrite
  repeat' (first
      | with_reducible assumption | dsimp only | with_reducible refine @ite_canon _ _ _ _ ?_ ?_
      | with_reducible apply State_updHq_canon | with_reducible apply State_msix_canon
      | with_reducible apply State_busWrite_canon)

theorem State_hqPost_canon (s : State) (q : Nat) (r : HqRec) (h_s : State.Canonical s) : State.Canonical (State.hqPost s q r) := by
  unfold State.hqPost
  repeat' (first
      | with_reducible assumption | dsimp only | with_reducible refine @ite_canon _ _ _ _ ?_ ?_
      | with_reducible apply State_setHq_canon | with_reducible apply State_hqWrite_canon)

theorem State_hqFlush_canon (s : State) (q : Nat) (h_s : State.Canonical s) (n__ : Nat) : State.Canonical ((State.hqFlush s q) n__) := by
  induction n__ generalizing s q with
  | zero =>
    unfold State.hqFlush
    repeat' (first
        | with_reducible assumption)
  | succ n__ ih =>
    unfold State.hqFlush
    repeat' (first
        | with_reducible apply ih | with_reducible assumption | dsimp only | with_reducible refine @ite_canon _ _ _ _ ?_ ?_
        | with_reducible apply State_setHq_canon | with_reducible apply State_hqWrite_canon | split)

theorem State_hqEnd_canon (s : State) (q status : Nat) (sums : Bool) (h_s : State.Canonical s) : State.Canonical (State.hqEnd s q status sums) := by
  unfold State.hqEnd
  repeat' (first
      | with_reducible assumption | dsimp only | with_reducible apply State_setHq_canon
      | with_reducible apply State_hqPost_canon | split)

theorem State_hqState_canon (s : State) (q : Nat) (h_s : State.Canonical s) : State.Canonical (State.hqState s q) := by
  unfold State.hqState
  repeat' (first
      | with_reducible assumption | with_reducible apply State_updHq_canon)

theorem State_hqKick_canon (s : State) (q : Nat) (h_s : State.Canonical s) (n__ : Nat) : State.Canonical ((State.hqKick s q) n__) := by
  induction n__ generalizing s q with
  | zero =>
    unfold State.hqKick
    repeat' (first
        | with_reducible assumption | with_reducible apply State_hqState_canon)
  | succ n__ ih =>
    unfold State.hqKick
    repeat' (first
        | with_reducible apply ih | with_reducible assumption | dsimp only | with_reducible refine @ite_canon _ _ _ _ ?_ ?_
        | with_reducible apply State_setHq_canon | with_reducible apply State_updCtx_canon
        | with_reducible apply State_signal_canon | with_reducible apply State_hqSeek_canon
        | with_reducible apply State_seGo_canon | with_reducible apply State_hqEnd_canon
        | with_reducible apply State_hqState_canon | split)

theorem State_hqGo_canon (s : State) (q : Nat) (h_s : State.Canonical s) : State.Canonical (State.hqGo s q) := by
  unfold State.hqGo
  repeat' (first
      | with_reducible assumption | with_reducible apply State_hqKick_canon)

theorem State_hqFetch_canon (s : State) (q : Nat) (e : HqEntry) (h_s : State.Canonical s) : State.Canonical (State.hqFetch s q e) := by
  unfold State.hqFetch
  repeat' (first
      | with_reducible assumption | dsimp only | with_reducible refine @ite_canon _ _ _ _ ?_ ?_
      | with_reducible apply State_setHq_canon | with_reducible apply State_hqPost_canon
      | with_reducible apply State_hqState_canon | with_reducible apply State_hqGo_canon)

theorem execHqNop_canon (q : QueueId) (e : HqEntry) (s : State) (h_s : State.Canonical s) : ResCanon (execHqNop q e s) := by
  unfold execHqNop
  repeat' (first
      | with_reducible assumption | with_reducible refine @ite_canon _ _ _ _ ?_ ?_ | with_reducible apply resNext
      | with_reducible apply State_hqFetch_canon)

theorem execHqXfer_canon (q : QueueId) (e : HqEntry) (s : State) (h_s : State.Canonical s) : ResCanon (execHqXfer q e s) := by
  unfold execHqXfer
  repeat' (first
      | with_reducible assumption | with_reducible refine @ite_canon _ _ _ _ ?_ ?_ | with_reducible apply resNext
      | with_reducible apply State_hqFetch_canon)

theorem execHqSig_canon (q : QueueId) (e : HqEntry) (s : State) (h_s : State.Canonical s) : ResCanon (execHqSig q e s) := by
  unfold execHqSig
  repeat' (first
      | with_reducible assumption | with_reducible refine @ite_canon _ _ _ _ ?_ ?_ | with_reducible apply resNext
      | with_reducible apply State_hqFetch_canon)

theorem execHqWait_canon (q : QueueId) (e : HqEntry) (s : State) (h_s : State.Canonical s) : ResCanon (execHqWait q e s) := by
  unfold execHqWait
  repeat' (first
      | with_reducible assumption | with_reducible refine @ite_canon _ _ _ _ ?_ ?_ | with_reducible apply resNext
      | with_reducible apply State_hqFetch_canon)

theorem State_hqCancelAll_canon (s : State) (q : Nat) (h_s : State.Canonical s) (n__ : Nat) : State.Canonical ((State.hqCancelAll s q) n__) := by
  induction n__ generalizing s q with
  | zero =>
    unfold State.hqCancelAll
    repeat' (first
        | with_reducible assumption)
  | succ n__ ih =>
    unfold State.hqCancelAll
    repeat' (first
        | with_reducible apply ih | with_reducible assumption | with_reducible apply State_hqEnd_canon)

theorem State_hqOff_canon (s : State) (q : Nat) (h_s : State.Canonical s) : State.Canonical (State.hqOff s q) := by
  unfold State.hqOff
  repeat' (first
      | with_reducible assumption | dsimp only | with_reducible refine @ite_canon _ _ _ _ ?_ ?_
      | with_reducible apply State_setHq_canon)

theorem State_hqStopEnd_canon (s : State) (q : Nat) (h_s : State.Canonical s) : State.Canonical (State.hqStopEnd s q) := by
  unfold State.hqStopEnd
  repeat' (first
      | with_reducible assumption | dsimp only | with_reducible apply State_hqEnd_canon
      | with_reducible apply State_hqCancelAll_canon | with_reducible apply State_hqOff_canon)

theorem State_hqDropTake_canon (s : State) (q : Nat) (h_s : State.Canonical s) : State.Canonical (State.hqDropTake s q) := by
  unfold State.hqDropTake
  repeat' (first
      | with_reducible assumption | (fail_if_no_progress (with_reducible apply canon_mk; with_reducible apply Canon3.of)))

theorem State_hqHalt_canon (s : State) (q : Nat) (h_s : State.Canonical s) : State.Canonical (State.hqHalt s q) := by
  unfold State.hqHalt
  repeat' (first
      | with_reducible assumption | dsimp only | with_reducible refine @ite_canon _ _ _ _ ?_ ?_
      | with_reducible apply State_setHq_canon | with_reducible apply State_seCancel_canon
      | with_reducible apply State_hqCancelAll_canon | with_reducible apply State_hqOff_canon
      | with_reducible apply State_hqStopEnd_canon | with_reducible apply State_hqDropTake_canon | split)

theorem execHqStop_canon (q : QueueId) (s : State) (h_s : State.Canonical s) : ResCanon (execHqStop q s) := by
  unfold execHqStop
  repeat' (first
      | with_reducible assumption | with_reducible apply resNext | with_reducible apply State_byReg_canon
      | with_reducible apply State_hqHalt_canon)

theorem State_hqDone_canon (s : State) (q status : Nat) (sums : Bool) (h_s : State.Canonical s) : State.Canonical (State.hqDone s q status sums) := by
  unfold State.hqDone
  repeat' (first
      | with_reducible assumption | with_reducible refine @ite_canon _ _ _ _ ?_ ?_ | with_reducible apply State_hqEnd_canon
      | with_reducible apply State_hqGo_canon | with_reducible apply State_hqStopEnd_canon)

theorem execXferComplete_canon (q : QueueId) (s : State) (h_s : State.Canonical s) : ResCanon (execXferComplete q s) := by
  unfold execXferComplete
  repeat' (first
      | with_reducible assumption | dsimp only | with_reducible refine @ite_canon _ _ _ _ ?_ ?_
      | with_reducible apply resNext | with_reducible apply State_hqDone_canon | split)

theorem execHqWaitTimeout_canon (q : QueueId) (s : State) (h_s : State.Canonical s) : ResCanon (execHqWaitTimeout q s) := by
  unfold execHqWaitTimeout
  repeat' (first
      | with_reducible assumption | with_reducible refine @ite_canon _ _ _ _ ?_ ?_ | with_reducible apply resNext
      | with_reducible apply State_updHq_canon | with_reducible apply State_hqDone_canon | split)

theorem State_hqFree_canon (s : State) (q : Nat) (v : Word) (h_s : State.Canonical s) : State.Canonical (State.hqFree s q v) := by
  unfold State.hqFree
  repeat' (first
      | with_reducible assumption | dsimp only | with_reducible refine @ite_canon _ _ _ _ ?_ ?_
      | with_reducible apply State_updHq_canon | with_reducible apply State_hqFlush_canon
      | with_reducible apply State_hqGo_canon | with_reducible apply State_hqOff_canon)

theorem execHqCqhead_canon (q : QueueId) (v : Word) (s : State) (h_s : State.Canonical s) : ResCanon (execHqCqhead q v s) := by
  unfold execHqCqhead
  repeat' (first
      | with_reducible assumption | with_reducible apply resNext | with_reducible apply State_byReg_canon
      | with_reducible apply State_hqFree_canon)

theorem State_hqSigDone_canon (s : State) (who : Nat) (h_s : State.Canonical s) : State.Canonical (State.hqSigDone s who) := by
  unfold State.hqSigDone
  repeat' (first
      | with_reducible assumption | dsimp only | with_reducible refine @ite_canon _ _ _ _ ?_ ?_
      | with_reducible apply State_hqDone_canon | split)

theorem State_signalDone_canon (s : State) (who : Nat) (h_s : State.Canonical s) : State.Canonical (State.signalDone s who) := by
  unfold State.signalDone
  repeat' (first
      | with_reducible assumption | with_reducible refine @ite_canon _ _ _ _ ?_ ?_ | with_reducible apply State_seDone_canon
      | with_reducible apply State_hqSigDone_canon)

theorem execSemSignalApplied_canon (sem : BitVec 14) (n : Nat) (s : State) (h_s : State.Canonical s) : ResCanon (execSemSignalApplied sem n s) := by
  unfold execSemSignalApplied
  repeat' (first
      | with_reducible assumption | dsimp only | with_reducible refine @ite_canon _ _ _ _ ?_ ?_ | with_reducible intro _
      | with_reducible apply resNext | with_reducible apply State_hqSeekAll_canon
      | with_reducible apply State_addSignals_canon | with_reducible apply State_signalDone_canon
      | with_reducible apply foldl_canon
      | (fail_if_no_progress (with_reducible apply canon_mk; with_reducible apply Canon3.of)))

theorem State_serveTake_canon (s : State) (r : SemReq) (h_s : State.Canonical s) : State.Canonical (State.serveTake s r) := by
  unfold State.serveTake
  repeat' (first
      | with_reducible assumption | dsimp only | with_reducible refine @ite_canon _ _ _ _ ?_ ?_
      | with_reducible apply State_setSem_canon | with_reducible apply State_hqSeek_canon
      | with_reducible apply State_hqDone_canon | split
      | (fail_if_no_progress (with_reducible apply canon_mk; with_reducible apply Canon3.of)))

theorem execSemTakeApplied_canon (sem : BitVec 14) (n : Nat) (s : State) (h_s : State.Canonical s) : ResCanon (execSemTakeApplied sem n s) := by
  unfold execSemTakeApplied
  repeat' (first
      | with_reducible assumption | dsimp only | with_reducible intro _ | with_reducible apply resNext
      | with_reducible apply State_serveTake_canon | with_reducible apply foldl_canon
      | (fail_if_no_progress (with_reducible apply canon_mk; with_reducible apply Canon3.of)))

theorem State_bar2Prot_canon (s : State) (a n : Nat) (h_s : State.Canonical s) : State.Canonical (State.bar2Prot s a n) := by
  unfold State.bar2Prot
  repeat' (first
      | with_reducible assumption | with_reducible apply State_raise_canon | split)

theorem execBar2Read_canon (off : BitVec 48) (n : Fin 65) (s : State) (h_s : State.Canonical s) : ResCanon (execBar2Read off n s) := by
  unfold execBar2Read
  repeat' (first
      | with_reducible assumption | dsimp only | with_reducible refine @ite_canon _ _ _ _ ?_ ?_
      | with_reducible apply resNext | with_reducible apply State_emit_canon | with_reducible apply State_touch_canon
      | with_reducible apply State_bar2Prot_canon)

theorem execBar2Write_canon (off : BitVec 48) (bytes : List Byte) (ep : Bool) (s : State) (h_s : State.Canonical s) : ResCanon (execBar2Write off bytes ep s) := by
  unfold execBar2Write
  repeat' (first
      | with_reducible assumption | dsimp only | with_reducible refine @ite_canon _ _ _ _ ?_ ?_
      | with_reducible apply resNext | with_reducible apply State_raise_canon | with_reducible apply State_store_canon
      | with_reducible apply State_bar2Prot_canon)

theorem State_atsSettle_canon (s : State) (h_s : State.Canonical s) : State.Canonical (State.atsSettle s) := by
  unfold State.atsSettle
  repeat' (first
      | with_reducible assumption | dsimp only | with_reducible intro _ | with_reducible apply State_emit_canon
      | with_reducible apply foldl_canon
      | (fail_if_no_progress (with_reducible apply canon_mk; with_reducible apply Canon3.of)))

theorem State_tapAnswer_canon (s : State) (off : Nat) (a : Answer) (h_s : State.Canonical s) : State.Canonical (State.tapAnswer s off a) := by
  unfold State.tapAnswer
  repeat' (first
      | with_reducible assumption | dsimp only | with_reducible refine @ite_canon _ _ _ _ ?_ ?_
      | with_reducible apply State_emit_canon | with_reducible apply State_draw_canon)

theorem State_hostAnswer_canon (s : State) (tag : Nat) (ok ep : Bool) (bytes : List Byte) (h_s : State.Canonical s) : State.Canonical (State.hostAnswer s tag ok ep bytes) := by
  unfold State.hostAnswer
  repeat' (first
      | with_reducible assumption | dsimp only | with_reducible apply State_threadAnswer_canon
      | with_reducible apply State_pelAnswer_canon | with_reducible apply State_engineAnswer_canon
      | with_reducible apply State_atsSettle_canon | with_reducible apply State_tapAnswer_canon | split
      | (fail_if_no_progress (with_reducible apply canon_mk; with_reducible apply Canon3.of)))

theorem execHostWindowCompletion_canon (tag : Nat) (status : CplStatus) (bytes : List Byte) (s : State) (h_s : State.Canonical s) : ResCanon (execHostWindowCompletion tag status bytes s) := by
  unfold execHostWindowCompletion
  repeat' (first
      | with_reducible assumption | with_reducible apply resNext | with_reducible apply State_hostAnswer_canon | split)

theorem execHostWindowReadTimeout_canon (tag : Nat) (s : State) (h_s : State.Canonical s) : ResCanon (execHostWindowReadTimeout tag s) := by
  unfold execHostWindowReadTimeout
  repeat' (first
      | with_reducible assumption | with_reducible apply resNext | with_reducible apply State_hostAnswer_canon)

theorem execAtsInvalidateRequest_canon (page : BitVec 52) (s : State) (h_s : State.Canonical s) : ResCanon (execAtsInvalidateRequest page s) := by
  unfold execAtsInvalidateRequest
  repeat' (first
      | with_reducible assumption | dsimp only | with_reducible refine @ite_canon _ _ _ _ ?_ ?_
      | with_reducible apply resNext | with_reducible apply State_emit_canon | with_reducible apply State_atsSettle_canon
      | split | (fail_if_no_progress (with_reducible apply canon_mk; with_reducible apply Canon3.of)))

theorem execIdeIntegrityFailure_canon (s : State) (h_s : State.Canonical s) : ResCanon (execIdeIntegrityFailure s) := by
  unfold execIdeIntegrityFailure
  repeat' (first
      | with_reducible assumption | dsimp only | with_reducible refine @ite_canon _ _ _ _ ?_ ?_
      | with_reducible apply resNext | with_reducible apply State_raise_canon
      | (fail_if_no_progress (with_reducible apply canon_mk; with_reducible apply Canon3.of)))

theorem State_hqKill_canon (s : State) (q : Nat) (h_s : State.Canonical s) : State.Canonical (State.hqKill s q) := by
  unfold State.hqKill
  repeat' (first
      | with_reducible assumption | dsimp only | with_reducible refine @ite_canon _ _ _ _ ?_ ?_
      | with_reducible apply State_setHq_canon | with_reducible apply State_seCancel_canon
      | with_reducible apply State_hqDropTake_canon | split)

theorem execFunctionLevelReset_canon (kind : FnReset) (s : State) (h_s : State.Canonical s) : ResCanon (execFunctionLevelReset kind s) := by
  unfold execFunctionLevelReset
  repeat' (first
      | with_reducible assumption | dsimp only | with_reducible intro _ | with_reducible apply resNext
      | with_reducible apply State_hqKill_canon | with_reducible apply foldl_canon | split
      | (fail_if_no_progress (with_reducible apply canon_mk; with_reducible apply Canon3.of)))

end Sys2Proof.Machine
end

