-- ==== Sys2Proof/Laws/CanonicalAccess.lean ====
section
/-! SUPPORT. Every operation and meaning keeps the canonical form: registers, loads and stores, strings, vector memory, TAP and ticks. -/

set_option linter.all false
namespace Sys2Proof.Machine

theorem landed_canon (r : Host.Outcome State Fault Refusal) (s : State) (h_r : ResCanon r) (h : State.Canonical s) : State.Canonical (landed r s) := by
  cases r with
  | next t => exact h_r
  | fault _ => exact h
  | refused _ => exact h

theorem State_msixMask_canon (s : State) (n : Nat) (masked : Bool) (h_s : State.Canonical s) : State.Canonical (State.msixMask s n masked) := by
  unfold State.msixMask
  repeat' (first
      | with_reducible assumption | dsimp only | with_reducible refine @ite_canon _ _ _ _ ?_ ?_
      | with_reducible apply State_emit_canon
      | (fail_if_no_progress (with_reducible apply canon_mk; with_reducible apply Canon3.of)))

theorem State_writeMbx_canon (s : State) (v : Word) (h_s : State.Canonical s) : State.Canonical (State.writeMbx s v) := by
  unfold State.writeMbx
  repeat' (first
      | with_reducible assumption | dsimp only | with_reducible refine @ite_canon _ _ _ _ ?_ ?_ | split
      | (fail_if_no_progress (with_reducible apply canon_mk; with_reducible apply Canon3.of)))

theorem State_writeSeCtl_canon (s : State) (x : Nat) (v : Word) (h_s : State.Canonical s) : State.Canonical (State.writeSeCtl s x v) := by
  unfold State.writeSeCtl
  repeat' (first
      | with_reducible assumption | with_reducible refine @ite_canon _ _ _ _ ?_ ?_ | with_reducible apply State_seGo_canon
      | with_reducible apply State_seCancel_canon)

theorem State_updBell_canon (s : State) (c : Nat) (f : Bell → Bell) (h_s : State.Canonical s) : State.Canonical (State.updBell s c f) := by
  unfold State.updBell
  repeat' (first
      | with_reducible assumption | with_reducible apply State_updCore_canon)

theorem State_updRing_canon (s : State) (r : Nat) (f : Ring → Ring) (h_s : State.Canonical s) : State.Canonical (State.updRing s r f) := by
  unfold State.updRing
  repeat' (first
      | with_reducible assumption | with_reducible apply State_setRing_canon)

theorem State_writeSys_canon (s : State) (w : Writer) (r : Reg) (v : Word) (h_s : State.Canonical s) : State.Canonical (State.writeSys s w r v) := by
  unfold State.writeSys
  repeat' (first
      | with_reducible assumption | dsimp only | with_reducible refine @ite_canon _ _ _ _ ?_ ?_
      | with_reducible apply State_updTree_canon | with_reducible apply State_updHq_canon
      | with_reducible apply execEvrCfgWrite_canon | with_reducible apply execEvtFatal0Write_canon
      | with_reducible apply State_snapGo_canon | with_reducible apply State_writeSeq_canon
      | with_reducible apply State_stepCtl_canon | with_reducible apply State_writeStepCfg_canon
      | with_reducible apply State_handoff_canon | with_reducible apply State_gearCtl_canon
      | with_reducible apply State_hqEnable_canon | with_reducible apply State_hqDoorbell_canon
      | with_reducible apply State_hqHalt_canon | with_reducible apply State_hqFree_canon | with_reducible apply landed_canon
      | with_reducible apply State_msixMask_canon | with_reducible apply State_writeMbx_canon
      | with_reducible apply State_updRing_canon | split
      | (fail_if_no_progress (with_reducible apply canon_mk; with_reducible apply Canon3.of)))

theorem State_writeUnit_canon (s : State) (r : Reg) (v : Word) (h_s : State.Canonical s) : State.Canonical (State.writeUnit s r v) := by
  unfold State.writeUnit
  repeat' (first
      | with_reducible assumption | dsimp only | with_reducible refine @ite_canon _ _ _ _ ?_ ?_
      | with_reducible apply State_updCtx_canon | with_reducible apply State_updEngine_canon
      | with_reducible apply State_updPort_canon | with_reducible apply State_hubLine_canon
      | with_reducible apply execHubBellSet_canon | with_reducible apply execHubBellCfgWrite_canon
      | with_reducible apply State_setCad_canon | with_reducible apply execCadCtlRelock_canon
      | with_reducible apply execCadCtlRetrain_canon | with_reducible apply State_commitSlice_canon
      | with_reducible apply execCadSubmit_canon | with_reducible apply execXlatInv_canon
      | with_reducible apply State_lnkCtl_canon | with_reducible apply landed_canon
      | with_reducible apply State_writeSeCtl_canon | split
      | (fail_if_no_progress (with_reducible apply canon_mk; with_reducible apply Canon3.of)))

theorem State_writeCore_canon (s : State) (r : Reg) (v : Word) (h_s : State.Canonical s) : State.Canonical (State.writeCore s r v) := by
  unfold State.writeCore
  repeat' (first
      | with_reducible assumption | with_reducible apply State_updThr_canon | with_reducible apply State_updCore_canon
      | with_reducible apply State_thrCtl_canon | with_reducible apply execTmrCountWrite_canon
      | with_reducible apply execTmrCtlWrite_canon | with_reducible apply execBellSet_canon
      | with_reducible apply landed_canon | with_reducible apply State_updBell_canon | split)

theorem State_writeReg_canon (s : State) (w : Writer) (off : Nat) (r : Reg) (v : Word) (h_s : State.Canonical s) : State.Canonical (State.writeReg s w off r v) := by
  unfold State.writeReg
  repeat' (first
      | with_reducible assumption | with_reducible refine @ite_canon _ _ _ _ ?_ ?_
      | with_reducible apply State_raiseCore_canon | with_reducible apply State_writeSys_canon
      | with_reducible apply State_writeUnit_canon | with_reducible apply State_writeCore_canon | split)

theorem State_regGet_canon (s : State) (off : Nat) (h_s : State.Canonical s) : State.Canonical (State.regGet s off).2 := by
  unfold State.regGet
  repeat' (first
      | with_reducible assumption | dsimp only | with_reducible refine @ite_canon_snd _ _ _ _ _ ?_ ?_
      | with_reducible apply State_raiseHub_canon | split)

theorem State_regPut_canon (s : State) (w : Writer) (off : Nat) (v : Word) (h_s : State.Canonical s) : State.Canonical (State.regPut s w off v) := by
  unfold State.regPut
  repeat' (first
      | with_reducible assumption | dsimp only | with_reducible refine @ite_canon _ _ _ _ ?_ ?_
      | with_reducible apply State_writeReg_canon | split)

theorem execRegisterWrite_canon (w : Writer) (off : BitVec 26) (v : Word) (s : State) (h_s : State.Canonical s) : ResCanon (execRegisterWrite w off v s) := by
  unfold execRegisterWrite
  repeat' (first
      | with_reducible assumption | dsimp only | with_reducible refine @ite_canon _ _ _ _ ?_ ?_
      | with_reducible apply resNext | with_reducible apply State_regPut_canon)

theorem execClkCountRead_canon (id : BitVec 12) (s : State) (h_s : State.Canonical s) : ResCanon (execClkCountRead id s) := by
  unfold execClkCountRead
  repeat' (first
      | with_reducible assumption | dsimp only | with_reducible apply resNext | with_reducible apply State_emit_canon
      | with_reducible apply State_regGet_canon)

theorem State_loadMiss_canon (s : State) (t rd la off size : Nat) (sx : Bool) (va leaf : Word) (h_s : State.Canonical s) : State.Canonical (State.loadMiss s t rd la off size sx va leaf) := by
  unfold State.loadMiss
  repeat' (first
      | with_reducible assumption | dsimp only | with_reducible apply State_updThr_canon
      | with_reducible apply State_demand_canon)

theorem State_loadAt_canon (s : State) (t rd size : Nat) (sx : Bool) (va leaf : Word) (pa : Nat) (h_s : State.Canonical s) : (State.loadAt s t rd size sx va leaf pa).Canon := by
  unfold State.loadAt
  repeat' (first
      | with_reducible assumption | dsimp only | with_reducible refine @ite_canon_act _ _ _ _ ?_ ?_
      | with_reducible apply actRetire | with_reducible apply actHold | with_reducible apply actExc
      | with_reducible apply State_updThr_canon | with_reducible apply State_touch_canon
      | with_reducible apply State_hostLoad_canon | with_reducible apply State_hostBme_canon
      | with_reducible apply State_remoteRead_canon | with_reducible apply State_lookup_canon
      | with_reducible apply State_regGet_canon | with_reducible apply State_loadMiss_canon | split)

theorem execLd_canon (t : ThreadId) (cond : BitVec 4) (f : BitVec 52) (s : State) (h_s : State.Canonical s) : ResCanon (execLd t cond f s) := by
  unfold execLd
  repeat' (first
      | with_reducible assumption | dsimp only | with_reducible refine @ite_canon_act _ _ _ _ ?_ ?_ | with_reducible intro _
      | with_reducible apply actExc | with_reducible apply resNext | with_reducible apply State_issue_canon
      | with_reducible apply State_dataXlat_canon | with_reducible apply State_loadAt_canon | split)

theorem State_storeAt_canon (s : State) (t : Nat) (leaf : Word) (pa : Nat) (bs : List Byte) (h_s : State.Canonical s) : ECanonF (State.storeAt s t leaf pa bs) := by
  unfold State.storeAt
  repeat' (first
      | with_reducible assumption | dsimp only | with_reducible intro _ | with_reducible apply exfE
      | with_reducible apply exfO | with_reducible apply State_hostStore_canon | with_reducible apply State_put_canon
      | with_reducible apply State_setCentry_canon | with_reducible apply State_demand_canon
      | with_reducible apply State_lookup_canon | with_reducible apply State_regPut_canon | with_reducible apply foldl_canon
      | split)

theorem execSd_canon (t : ThreadId) (cond : BitVec 4) (f : BitVec 52) (s : State) (h_s : State.Canonical s) : ResCanon (execSd t cond f s) := by
  unfold execSd
  repeat' (first
      | with_reducible assumption | dsimp only | with_reducible refine @ite_canon_act _ _ _ _ ?_ ?_ | with_reducible intro _
      | with_reducible apply actRetire | with_reducible apply actExc | with_reducible apply resNext
      | with_reducible apply State_issue_canon | with_reducible apply State_dataXlat_canon
      | with_reducible apply State_storeAt_canon | split | with_reducible refine exfE_eq (by with_reducible assumption) ?_
      | with_reducible refine exfO_eq (by with_reducible assumption) ?_)

theorem State_placeAll_canon (s : State) (t : Nat) (h_s : State.Canonical s) (n__ : List Piece) : ECanonV ((State.placeAll s t) n__) := by
  induction n__ generalizing s t with
  | nil =>
    unfold State.placeAll
    repeat' (first
        | with_reducible assumption | with_reducible apply exvO)
  | cons y__ n__ ih =>
    unfold State.placeAll
    repeat' (first
        | with_reducible apply ih | with_reducible assumption | dsimp only | with_reducible apply exvE
        | with_reducible apply exvO | with_reducible apply State_dataXlat_canon | split
        | with_reducible refine exvE_eq (by with_reducible assumption) ?_
        | with_reducible refine exvO_eq (by with_reducible assumption) ?_)

theorem State_fromAnswer_canon (s : State) (p : Placed) (o : Nat) (a : Answer) (h_s : State.Canonical s) : (State.fromAnswer s p o a).Canon := by
  unfold State.fromAnswer
  repeat' (first
      | with_reducible assumption | with_reducible apply takG | with_reducible apply takB | split)

theorem State_farWait_canon (s : State) (t : Nat) (p : Placed) (r : FarRead) (o : Nat) (send : State → State) (h_s : State.Canonical s) (h_send : ∀ s, State.Canonical s → State.Canonical (send s)) : (State.farWait s t p r o send).Canon := by
  unfold State.farWait
  repeat' (first
      | with_reducible assumption | with_reducible refine @ite_canon _ _ _ _ ?_ ?_ | with_reducible apply takW
      | with_reducible apply State_updThr_canon | with_reducible apply State_fromAnswer_canon | with_reducible apply h_send
      | split)

theorem State_takePiece_canon (s : State) (t : Nat) (p : Placed) (h_s : State.Canonical s) : (State.takePiece s t p).Canon := by
  unfold State.takePiece
  repeat' (first
      | with_reducible assumption | dsimp only | with_reducible refine @ite_canon_tak _ _ _ _ ?_ ?_ | with_reducible intro _
      | with_reducible apply takG | with_reducible apply takW | with_reducible apply takB
      | with_reducible apply State_touch_canon | with_reducible apply State_hostLoad_canon
      | with_reducible apply State_hostBme_canon | with_reducible apply State_remoteRead_canon
      | with_reducible apply State_demand_canon | with_reducible apply State_lookup_canon
      | with_reducible apply State_regGet_canon | with_reducible apply State_farWait_canon
      | with_reducible apply foldl_canon_snd | split)

theorem State_takeAll_canon (s : State) (t : Nat) (h_s : State.Canonical s) (n__ : List Placed) : Taken.Canon ((State.takeAll s t) n__) := by
  induction n__ generalizing s t with
  | nil =>
    unfold State.takeAll
    repeat' (first
        | with_reducible assumption | with_reducible apply takG)
  | cons y__ n__ ih =>
    unfold State.takeAll
    repeat' (first
        | with_reducible apply ih | with_reducible assumption | with_reducible apply takG
        | with_reducible apply State_takePiece_canon | split
        | with_reducible refine takG_eq (by with_reducible assumption) ?_)

theorem State_chunkDone_canon (s : State) (t : Nat) (f : Body) (src : Bool) (w : Nat) (e : ChunkEnd) (h_s : State.Canonical s) : (State.chunkDone s t f src w e).Canon := by
  unfold State.chunkDone
  repeat' (first
      | with_reducible assumption | dsimp only | with_reducible refine @ite_canon_act _ _ _ _ ?_ ?_
      | with_reducible apply actRetire | with_reducible apply actPart | with_reducible apply State_updThr_canon)

theorem State_string_canon (s : State) (t : Nat) (cond : BitVec 4) (f : Body) (src readDst write : Bool) (act : State → List Placed → List Byte → List Byte → Nat → Nat → Act) (h_s : State.Canonical s) (h_act : ∀ s a b c d e, State.Canonical s → (act s a b c d e).Canon) : State.Canonical (State.string s t cond f src readDst write act) := by
  unfold State.string
  repeat' (first
      | with_reducible assumption | dsimp only | with_reducible refine @ite_canon_act _ _ _ _ ?_ ?_ | with_reducible intro _
      | with_reducible apply actRetire | with_reducible apply actHold | with_reducible apply actExc
      | with_reducible apply State_updThr_canon | with_reducible apply State_issue_canon
      | with_reducible apply State_placeAll_canon | with_reducible apply State_takeAll_canon | with_reducible apply h_act
      | split | with_reducible refine takG_eq (by with_reducible assumption) ?_
      | with_reducible refine takW_eq (by with_reducible assumption) ?_
      | with_reducible refine takB_eq (by with_reducible assumption) ?_
      | with_reducible refine exvE_eq (by with_reducible assumption) ?_
      | with_reducible refine exvO_eq (by with_reducible assumption) ?_)

theorem State_chunkWrite_canon (s : State) (t : Nat) (l : List Placed) (bs : List Byte) (done : State → Act) (h_s : State.Canonical s) (h_done : ∀ s, State.Canonical s → (done s).Canon) : (State.chunkWrite s t l bs done).Canon := by
  unfold State.chunkWrite
  repeat' (first
      | with_reducible assumption | with_reducible apply actExc | with_reducible apply State_storeAt_canon
      | with_reducible apply h_done | split | with_reducible refine exfE_eq (by with_reducible assumption) ?_
      | with_reducible refine exfO_eq (by with_reducible assumption) ?_)

theorem execMovs_canon (t : ThreadId) (cond : BitVec 4) (f : BitVec 52) (s : State) (h_s : State.Canonical s) : ResCanon (execMovs t cond f s) := by
  unfold execMovs
  repeat' (first
      | with_reducible assumption | dsimp only | with_reducible intro _ | with_reducible apply resNext
      | with_reducible apply State_chunkDone_canon | with_reducible apply State_string_canon
      | with_reducible apply State_chunkWrite_canon)

theorem execFills_canon (t : ThreadId) (cond : BitVec 4) (f : BitVec 52) (s : State) (h_s : State.Canonical s) : ResCanon (execFills t cond f s) := by
  unfold execFills
  repeat' (first
      | with_reducible assumption | dsimp only | with_reducible intro _ | with_reducible apply resNext
      | with_reducible apply State_chunkDone_canon | with_reducible apply State_string_canon
      | with_reducible apply State_chunkWrite_canon)

theorem execScans_canon (t : ThreadId) (cond : BitVec 4) (f : BitVec 52) (s : State) (h_s : State.Canonical s) : ResCanon (execScans t cond f s) := by
  unfold execScans
  repeat' (first
      | with_reducible assumption | dsimp only | with_reducible intro _ | with_reducible apply resNext
      | with_reducible apply State_chunkDone_canon | with_reducible apply State_string_canon)

theorem execCmps_canon (t : ThreadId) (cond : BitVec 4) (f : BitVec 52) (s : State) (h_s : State.Canonical s) : ResCanon (execCmps t cond f s) := by
  unfold execCmps
  repeat' (first
      | with_reducible assumption | dsimp only | with_reducible intro _ | with_reducible apply resNext
      | with_reducible apply State_chunkDone_canon | with_reducible apply State_string_canon)

theorem State_vxlat_canon (s : State) (t : Nat) (k : Access) (h_s : State.Canonical s) (n__ : List VAcc) : ECanonV ((State.vxlat s t k) n__) := by
  induction n__ generalizing s t k with
  | nil =>
    unfold State.vxlat
    repeat' (first
        | with_reducible assumption | with_reducible apply exvO)
  | cons y__ n__ ih =>
    unfold State.vxlat
    repeat' (first
        | with_reducible apply ih | with_reducible assumption | dsimp only | with_reducible apply exvE
        | with_reducible apply exvO | with_reducible apply State_dataXlat_canon | split
        | with_reducible refine exvE_eq (by with_reducible assumption) ?_
        | with_reducible refine exvO_eq (by with_reducible assumption) ?_)

theorem State_vcheck_canon (s : State) (t w : Nat) (store : Bool) (l : List VAcc) (lin : Option Word) (h_s : State.Canonical s) : ECanonV (State.vcheck s t w store l lin) := by
  unfold State.vcheck
  repeat' (first
      | with_reducible assumption | with_reducible apply exvE | with_reducible apply exvO
      | with_reducible apply State_vxlat_canon | split | with_reducible refine exvE_eq (by with_reducible assumption) ?_
      | with_reducible refine exvO_eq (by with_reducible assumption) ?_)

theorem VLoad_granule_canon (v : VLoad) (t : Nat) (key : Nat × Word) (l : List VRes) (h_v : State.Canonical v.s) : State.Canonical (VLoad.granule v t key l).s := by
  unfold VLoad.granule
  repeat' (first
      | with_reducible assumption | dsimp only | with_reducible refine @ite_canon_vload _ _ _ _ ?_ ?_
      | with_reducible intro _ | with_reducible apply State_touch_canon | with_reducible apply State_hostLoad_canon
      | with_reducible apply State_hostBme_canon | with_reducible apply State_remoteRead_canon
      | with_reducible apply State_freeBytes_canon | with_reducible apply State_regGet_canon
      | with_reducible apply foldl_canon_snd | split)

theorem State_vload_canon (s : State) (t : Nat) (writes : List RegWrite) (l : List VRes) (h_s : State.Canonical s) : (State.vload s t writes l).Canon := by
  unfold State.vload
  repeat' (first
      | with_reducible assumption | dsimp only | with_reducible intro _ | with_reducible apply actRetire
      | with_reducible apply State_updThr_canon | with_reducible apply VLoad_granule_canon
      | with_reducible apply foldl_canon_vload)

theorem State_vldn_canon (s : State) (t : Nat) (cond : BitVec 4) (f : Body) (n : Nat) (h_s : State.Canonical s) : State.Canonical (State.vldn s t cond f n) := by
  unfold State.vldn
  repeat' (first
      | with_reducible assumption | dsimp only | with_reducible intro _ | with_reducible apply actExc
      | with_reducible apply State_issue_canon | with_reducible apply State_vcheck_canon
      | with_reducible apply State_vload_canon | split | with_reducible refine exvE_eq (by with_reducible assumption) ?_
      | with_reducible refine exvO_eq (by with_reducible assumption) ?_)

theorem execVld_canon (t : ThreadId) (cond : BitVec 4) (f : BitVec 52) (s : State) (h_s : State.Canonical s) : ResCanon (execVld t cond f s) := by
  unfold execVld
  repeat' (first
      | with_reducible assumption | with_reducible apply resNext | with_reducible apply State_vldn_canon)

theorem execVld2_canon (t : ThreadId) (cond : BitVec 4) (f : BitVec 52) (s : State) (h_s : State.Canonical s) : ResCanon (execVld2 t cond f s) := by
  unfold execVld2
  repeat' (first
      | with_reducible assumption | with_reducible apply resNext | with_reducible apply State_vldn_canon)

theorem execVld3_canon (t : ThreadId) (cond : BitVec 4) (f : BitVec 52) (s : State) (h_s : State.Canonical s) : ResCanon (execVld3 t cond f s) := by
  unfold execVld3
  repeat' (first
      | with_reducible assumption | with_reducible apply resNext | with_reducible apply State_vldn_canon)

theorem execVld4_canon (t : ThreadId) (cond : BitVec 4) (f : BitVec 52) (s : State) (h_s : State.Canonical s) : ResCanon (execVld4 t cond f s) := by
  unfold execVld4
  repeat' (first
      | with_reducible assumption | with_reducible apply resNext | with_reducible apply State_vldn_canon)

theorem execVgath_canon (t : ThreadId) (cond : BitVec 4) (f : BitVec 52) (s : State) (h_s : State.Canonical s) : ResCanon (execVgath t cond f s) := by
  unfold execVgath
  repeat' (first
      | with_reducible assumption | dsimp only | with_reducible intro _ | with_reducible apply actExc
      | with_reducible apply resNext | with_reducible apply State_issue_canon | with_reducible apply State_freeBytes_canon
      | with_reducible apply State_vcheck_canon | with_reducible apply State_vload_canon | split
      | with_reducible refine exvE_eq (by with_reducible assumption) ?_
      | with_reducible refine exvO_eq (by with_reducible assumption) ?_)

theorem execPld_canon (t : ThreadId) (cond : BitVec 4) (f : BitVec 52) (s : State) (h_s : State.Canonical s) : ResCanon (execPld t cond f s) := by
  unfold execPld
  repeat' (first
      | with_reducible assumption | with_reducible intro _ | with_reducible apply actExc | with_reducible apply resNext
      | with_reducible apply State_issue_canon | with_reducible apply State_vcheck_canon
      | with_reducible apply State_vload_canon | split | with_reducible refine exvE_eq (by with_reducible assumption) ?_
      | with_reducible refine exvO_eq (by with_reducible assumption) ?_)

theorem State_vput_canon (s : State) (t : Nat) (key : Nat × Word) (l : List VByte) (h_s : State.Canonical s) : State.Canonical (State.vput s t key l) := by
  unfold State.vput
  repeat' (first
      | with_reducible assumption | dsimp only | with_reducible refine @ite_canon _ _ _ _ ?_ ?_ | with_reducible intro _
      | with_reducible apply State_raise_canon | with_reducible apply State_send_canon
      | with_reducible apply State_poke_canon | with_reducible apply State_sealAs_canon
      | with_reducible apply State_hostStore_canon | with_reducible apply State_request_canon
      | with_reducible apply foldl_canon | split)

theorem State_vstore_canon (s : State) (t : Nat) (val : Nat → Nat → Byte × Bool) (l : List VRes) (h_s : State.Canonical s) : (State.vstore s t val l).Canon := by
  unfold State.vstore
  repeat' (first
      | with_reducible assumption | with_reducible intro _ | with_reducible apply actRetire
      | with_reducible apply State_vput_canon | with_reducible apply foldl_canon)

theorem State_vstn_canon (s : State) (t : Nat) (cond : BitVec 4) (f : Body) (n : Nat) (h_s : State.Canonical s) : State.Canonical (State.vstn s t cond f n) := by
  unfold State.vstn
  repeat' (first
      | with_reducible assumption | dsimp only | with_reducible intro _ | with_reducible apply actExc
      | with_reducible apply State_issue_canon | with_reducible apply State_vcheck_canon
      | with_reducible apply State_vstore_canon | split | with_reducible refine exvE_eq (by with_reducible assumption) ?_
      | with_reducible refine exvO_eq (by with_reducible assumption) ?_)

theorem execVst_canon (t : ThreadId) (cond : BitVec 4) (f : BitVec 52) (s : State) (h_s : State.Canonical s) : ResCanon (execVst t cond f s) := by
  unfold execVst
  repeat' (first
      | with_reducible assumption | with_reducible apply resNext | with_reducible apply State_vstn_canon)

theorem execVst2_canon (t : ThreadId) (cond : BitVec 4) (f : BitVec 52) (s : State) (h_s : State.Canonical s) : ResCanon (execVst2 t cond f s) := by
  unfold execVst2
  repeat' (first
      | with_reducible assumption | with_reducible apply resNext | with_reducible apply State_vstn_canon)

theorem execVst3_canon (t : ThreadId) (cond : BitVec 4) (f : BitVec 52) (s : State) (h_s : State.Canonical s) : ResCanon (execVst3 t cond f s) := by
  unfold execVst3
  repeat' (first
      | with_reducible assumption | with_reducible apply resNext | with_reducible apply State_vstn_canon)

theorem execVst4_canon (t : ThreadId) (cond : BitVec 4) (f : BitVec 52) (s : State) (h_s : State.Canonical s) : ResCanon (execVst4 t cond f s) := by
  unfold execVst4
  repeat' (first
      | with_reducible assumption | with_reducible apply resNext | with_reducible apply State_vstn_canon)

theorem execVscat_canon (t : ThreadId) (cond : BitVec 4) (f : BitVec 52) (s : State) (h_s : State.Canonical s) : ResCanon (execVscat t cond f s) := by
  unfold execVscat
  repeat' (first
      | with_reducible assumption | dsimp only | with_reducible intro _ | with_reducible apply actExc
      | with_reducible apply resNext | with_reducible apply State_issue_canon | with_reducible apply State_vcheck_canon
      | with_reducible apply State_vstore_canon | split | with_reducible refine exvE_eq (by with_reducible assumption) ?_
      | with_reducible refine exvO_eq (by with_reducible assumption) ?_)

theorem execPst_canon (t : ThreadId) (cond : BitVec 4) (f : BitVec 52) (s : State) (h_s : State.Canonical s) : ResCanon (execPst t cond f s) := by
  unfold execPst
  repeat' (first
      | with_reducible assumption | dsimp only | with_reducible intro _ | with_reducible apply actExc
      | with_reducible apply resNext | with_reducible apply State_issue_canon | with_reducible apply State_vcheck_canon
      | with_reducible apply State_vstore_canon | split | with_reducible refine exvE_eq (by with_reducible assumption) ?_
      | with_reducible refine exvO_eq (by with_reducible assumption) ?_)

theorem execSetdasa_canon (addr : BitVec 7) (s : State) (h_s : State.Canonical s) : ResCanon (execSetdasa addr s) := by
  unfold execSetdasa
  repeat' (first
      | with_reducible assumption | dsimp only | with_reducible refine @ite_canon _ _ _ _ ?_ ?_
      | with_reducible apply resNext | (fail_if_no_progress (with_reducible apply canon_mk; with_reducible apply Canon3.of)))

theorem State_tapTo_canon (s : State) (i : Tap) (h_s : State.Canonical s) : State.Canonical (State.tapTo s i) := by
  unfold State.tapTo
  repeat' (first
      | with_reducible assumption | with_reducible refine @ite_canon _ _ _ _ ?_ ?_
      | (fail_if_no_progress (with_reducible apply canon_mk; with_reducible apply Canon3.of)))

theorem State_tapOut_canon (s : State) (i : Tap) (v : BitVec 128) (h_s : State.Canonical s) : State.Canonical (State.tapOut s i v) := by
  unfold State.tapOut
  repeat' (first
      | with_reducible assumption | with_reducible refine @ite_canon _ _ _ _ ?_ ?_ | with_reducible apply State_emit_canon
      | with_reducible apply State_tapTo_canon)

theorem execIdcode_canon (s : State) (h_s : State.Canonical s) : ResCanon (execIdcode s) := by
  unfold execIdcode
  repeat' (first
      | with_reducible assumption | with_reducible apply resNext | with_reducible apply State_tapOut_canon)

theorem execSamplePreload_canon (s : State) (h_s : State.Canonical s) : ResCanon (execSamplePreload s) := by
  unfold execSamplePreload
  repeat' (first
      | with_reducible assumption | with_reducible apply resNext | with_reducible apply State_tapTo_canon)

theorem State_tapExtest_canon (s : State) (i : Tap) (h_s : State.Canonical s) : State.Canonical (State.tapExtest s i) := by
  unfold State.tapExtest
  repeat' (first
      | with_reducible assumption | with_reducible apply State_tapTo_canon)

theorem execExtest_canon (s : State) (h_s : State.Canonical s) : ResCanon (execExtest s) := by
  unfold execExtest
  repeat' (first
      | with_reducible assumption | with_reducible apply resNext | with_reducible apply State_tapExtest_canon)

theorem execExtestPulse_canon (s : State) (h_s : State.Canonical s) : ResCanon (execExtestPulse s) := by
  unfold execExtestPulse
  repeat' (first
      | with_reducible assumption | with_reducible apply resNext | with_reducible apply State_tapExtest_canon)

theorem execExtestTrain_canon (s : State) (h_s : State.Canonical s) : ResCanon (execExtestTrain s) := by
  unfold execExtestTrain
  repeat' (first
      | with_reducible assumption | with_reducible apply resNext | with_reducible apply State_tapExtest_canon)

theorem execDbgStat_canon (s : State) (h_s : State.Canonical s) : ResCanon (execDbgStat s) := by
  unfold execDbgStat
  repeat' (first
      | with_reducible assumption | with_reducible apply resNext | with_reducible apply State_tapOut_canon)

theorem State_dbgGet_canon (s : State) (a : Nat) (h_s : State.Canonical s) : State.Canonical (State.dbgGet s a).2 := by
  unfold State.dbgGet
  repeat' (first
      | with_reducible assumption | dsimp only | with_reducible refine @ite_canon_snd _ _ _ _ _ ?_ ?_
      | with_reducible apply State_draw_canon | with_reducible apply State_touch_canon
      | with_reducible apply State_hostLoad_canon | with_reducible apply State_hostBme_canon
      | with_reducible apply State_regGet_canon | split)

theorem State_dbgPut_canon (s : State) (a : Nat) (v : Word) (h_s : State.Canonical s) : State.Canonical (State.dbgPut s a v) := by
  unfold State.dbgPut
  repeat' (first
      | with_reducible assumption | with_reducible refine @ite_canon _ _ _ _ ?_ ?_ | with_reducible apply State_store_canon
      | with_reducible apply State_hostStore_canon | with_reducible apply State_regPut_canon | split)

theorem execDbgRead_canon (addr : BitVec 48) (s : State) (h_s : State.Canonical s) : ResCanon (execDbgRead addr s) := by
  unfold execDbgRead
  repeat' (first
      | with_reducible assumption | dsimp only | with_reducible refine @ite_canon _ _ _ _ ?_ ?_
      | with_reducible apply resNext | with_reducible apply State_tapTo_canon | with_reducible apply State_tapOut_canon
      | with_reducible apply State_dbgGet_canon | split)

theorem execDbgWrite_canon (addr : BitVec 48) (v : Word) (s : State) (h_s : State.Canonical s) : ResCanon (execDbgWrite addr v s) := by
  unfold execDbgWrite
  repeat' (first
      | with_reducible assumption | with_reducible refine @ite_canon _ _ _ _ ?_ ?_ | with_reducible apply resNext
      | with_reducible apply State_tapTo_canon | with_reducible apply State_dbgPut_canon)

theorem execBypass_canon (code : Byte) (s : State) (h_s : State.Canonical s) : ResCanon (execBypass code s) := by
  unfold execBypass
  repeat' (first
      | with_reducible assumption | with_reducible refine @ite_canon _ _ _ _ ?_ ?_ | with_reducible apply resNext
      | with_reducible apply State_tapTo_canon)

theorem execUnassignedOpcode_canon (t : ThreadId) (w : Word) (s : State) (h_s : State.Canonical s) : ResCanon (execUnassignedOpcode t w s) := by
  unfold execUnassignedOpcode
  repeat' (first
      | with_reducible assumption | with_reducible refine @ite_canon _ _ _ _ ?_ ?_ | with_reducible intro _
      | with_reducible apply actRetire | with_reducible apply resNext | with_reducible apply State_issue_canon)

theorem State_tickCores_canon (s : State) (d : Nat) (h_s : State.Canonical s) : State.Canonical (State.tickCores s d) := by
  unfold State.tickCores
  repeat' (first
      | with_reducible assumption | dsimp only
      | (fail_if_no_progress (with_reducible apply canon_mk; with_reducible apply Canon3.of)))

theorem State_tickArrays_canon (s : State) (d : Nat) (h_s : State.Canonical s) : State.Canonical (State.tickArrays s d) := by
  unfold State.tickArrays
  repeat' (first
      | with_reducible assumption | with_reducible refine @ite_canon _ _ _ _ ?_ ?_ | with_reducible intro _
      | with_reducible apply State_arrTick_canon | with_reducible apply foldl_canon)

theorem State_tickEngines_canon (s : State) (dom : Nat) (h_s : State.Canonical s) : State.Canonical (State.tickEngines s dom) := by
  unfold State.tickEngines
  repeat' (first
      | with_reducible assumption | dsimp only | with_reducible refine @ite_canon _ _ _ _ ?_ ?_ | with_reducible intro _
      | with_reducible apply State_dueTick_canon | with_reducible apply State_bankTick_canon
      | with_reducible apply foldl_canon)

theorem State_tickDomain_canon (s : State) (id : Nat) (h_s : State.Canonical s) : State.Canonical (State.tickDomain s id) := by
  unfold State.tickDomain
  repeat' (first
      | with_reducible assumption | dsimp only | with_reducible refine @ite_canon _ _ _ _ ?_ ?_
      | with_reducible apply State_fillBuckets_canon | with_reducible apply State_localAnswers_canon
      | with_reducible apply State_tickCores_canon | with_reducible apply State_tickArrays_canon
      | with_reducible apply State_tickEngines_canon
      | (fail_if_no_progress (with_reducible apply canon_mk; with_reducible apply Canon3.of)))

theorem State_tick_canon (s : State) (h_s : State.Canonical s) : State.Canonical (State.tick s) := by
  unfold State.tick
  repeat' (first
      | with_reducible assumption | dsimp only | with_reducible refine @ite_canon _ _ _ _ ?_ ?_ | with_reducible intro _
      | with_reducible apply State_tickDomain_canon | with_reducible apply foldl_canon
      | (fail_if_no_progress (with_reducible apply canon_mk; with_reducible apply Canon3.of)))

end Sys2Proof.Machine
end

