-- ==== Sys2Proof/Laws/Issue.lean ====
section
/-! SUPPORT. What issuing an instruction does: the shared operation once, for every instruction. -/

namespace Sys2Proof.Machine

/-! ### `Kept` -/

theorem Kept.refl (s : State) (t : Nat) : Kept s s t :=
  ⟨fun _ _ => rfl, fun _ => rfl, fun _ => rfl, fun _ => rfl, fun _ => ⟨rfl, rfl⟩, fun _ => ⟨rfl, rfl⟩, fun _ => ⟨rfl, rfl, rfl⟩,
    ⟨rfl, rfl, rfl⟩, rfl, ⟨rfl, rfl⟩, ⟨rfl, rfl, rfl⟩, ⟨rfl, rfl, rfl⟩, ⟨rfl, rfl⟩, ⟨rfl, rfl, rfl⟩⟩

theorem Kept.trans {s u w : State} {t : Nat} (h : Kept s u t) (k : Kept u w t) : Kept s w t where
  threads i hi := (k.threads i hi).trans (h.threads i hi)
  memory a := (k.memory a).trans (h.memory a)
  codes g := (k.codes g).trans (h.codes g)
  semaphores n := (k.semaphores n).trans (h.semaphores n)
  tiles c := ⟨(k.tiles c).1.trans (h.tiles c).1, (k.tiles c).2.trans (h.tiles c).2⟩
  arrays c := ⟨(k.arrays c).1.trans (h.arrays c).1, (k.arrays c).2.trans (h.arrays c).2⟩
  core c := ⟨(k.core c).1.trans (h.core c).1, (k.core c).2.1.trans (h.core c).2.1, (k.core c).2.2.trans (h.core c).2.2⟩
  engines := ⟨k.engines.1.trans h.engines.1, k.engines.2.1.trans h.engines.2.1, k.engines.2.2.trans h.engines.2.2⟩
  trees := k.trees.trans h.trees
  links := ⟨k.links.1.trans h.links.1, k.links.2.trans h.links.2⟩
  ports := ⟨k.ports.1.trans h.ports.1, k.ports.2.1.trans h.ports.2.1, k.ports.2.2.trans h.ports.2.2⟩
  system := ⟨k.system.1.trans h.system.1, k.system.2.1.trans h.system.2.1, k.system.2.2.trans h.system.2.2⟩
  time := ⟨k.time.1.trans h.time.1, k.time.2.trans h.time.2⟩
  requests := ⟨k.requests.1.trans h.requests.1, k.requests.2.1.trans h.requests.2.1, k.requests.2.2.trans h.requests.2.2⟩

/-- Two states that agree in the fields named differ in nothing `Kept` looks at. -/
theorem Kept.ofFields {s w : State} {t : Nat} (h1 : w.threads = s.threads) (h2 : w.mem = s.mem) (h3 : w.gran = s.gran)
    (h4 : w.sem = s.sem) (h5 : w.cores = s.cores) (h6 : w.ctxs = s.ctxs ∧ w.stepc = s.stepc ∧ w.seqEntry = s.seqEntry)
    (h7 : w.trees = s.trees) (h8 : w.ports = s.ports ∧ w.remotes = s.remotes)
    (h9 : w.cad = s.cad ∧ w.host = s.host ∧ w.hub = s.hub) (h10 : w.gear = s.gear ∧ w.sec = s.sec ∧ w.power = s.power)
    (h11 : w.clk = s.clk ∧ w.pending = s.pending)
    (h12 : w.semQ = s.semQ ∧ w.takeReply = s.takeReply ∧ w.readReply = s.readReply) : Kept s w t := by
  refine ⟨fun u _ => ?_, fun a => ?_, fun g => ?_, fun n => ?_, fun c => ?_, fun c => ?_, fun c => ?_, h6, h7, h8, h9, h10, h11, h12⟩
  · simp only [State.thr, h1]
  · simp only [State.byte, h2]
  · simp only [State.granule, h3]
  · simp only [State.semCount, h4]
  · simp only [State.core, h5, and_self]
  · simp only [State.core, h5, and_self]
  · simp only [State.core, h5, and_self]

/-- A change of thread `t` alone. -/
theorem Kept.setThr (s : State) (t : Nat) (x : Thread) : Kept s (s.setThr t x) t :=
  ⟨fun u hu => State.setThr_thr_ne s t x u hu, fun _ => rfl, fun _ => rfl, fun _ => rfl, fun _ => ⟨rfl, rfl⟩, fun _ => ⟨rfl, rfl⟩,
    fun _ => ⟨rfl, rfl, rfl⟩, ⟨rfl, rfl, rfl⟩, rfl, ⟨rfl, rfl⟩, ⟨rfl, rfl, rfl⟩, ⟨rfl, rfl, rfl⟩, ⟨rfl, rfl⟩, ⟨rfl, rfl, rfl⟩⟩

theorem Kept.updThr (s : State) (t : Nat) (f : Thread → Thread) : Kept s (s.updThr t f) t := Kept.setThr s t _

@[simp] theorem State.updThr_thr_same (s : State) (t : Nat) (f : Thread → Thread) : (s.updThr t f).thr t = f (s.thr t) := by
  simp [State.updThr]

/-- A change of a core's instruction cache, waiting fetches or cached translations. -/
theorem Kept.updCore (s : State) (t c : Nat) (f : Core → Core)
    (h : ∀ k, (f k).tiles = k.tiles ∧ (f k).moves = k.moves ∧ (f k).accs = k.accs ∧ (f k).arrays = k.arrays ∧ (f k).timers = k.timers
      ∧ (f k).bell = k.bell ∧ (f k).dcache = k.dcache) : Kept s (s.updCore c f) t := by
  have hc : ∀ d, (s.updCore c f).core d = if d = c then f (s.core c) else s.core d := fun d => State.setCore_core s c _ d
  refine ⟨fun _ _ => rfl, fun _ => rfl, fun _ => rfl, fun _ => rfl, fun d => ?_, fun d => ?_, fun d => ?_, ⟨rfl, rfl, rfl⟩, rfl, ⟨rfl, rfl⟩,
    ⟨rfl, rfl, rfl⟩, ⟨rfl, rfl, rfl⟩, ⟨rfl, rfl⟩, ⟨rfl, rfl, rfl⟩⟩ <;> rw [hc d] <;> split
  · rename_i e; subst e; exact ⟨(h _).1, (h _).2.1⟩
  · exact ⟨rfl, rfl⟩
  · rename_i e; subst e; exact ⟨(h _).2.2.1, (h _).2.2.2.1⟩
  · exact ⟨rfl, rfl⟩
  · rename_i e; subst e; exact ⟨(h _).2.2.2.2.1, (h _).2.2.2.2.2.1, (h _).2.2.2.2.2.2⟩
  · exact ⟨rfl, rfl, rfl⟩

/-- What a fetch may change besides `Kept`: no thread at all. -/
structure Quiet (s s' : State) (t : Nat) : Prop where
  kept : Kept s s' t
  own : s'.thr t = s.thr t

theorem Quiet.refl (s : State) (t : Nat) : Quiet s s t := ⟨Kept.refl s t, rfl⟩
theorem Quiet.trans {s u w : State} {t : Nat} (h : Quiet s u t) (k : Quiet u w t) : Quiet s w t :=
  ⟨h.kept.trans k.kept, k.own.trans h.own⟩

theorem Quiet.foldl {β : Type} (f : State → β → State) (l : List β) (s : State) (t : Nat)
    (h : ∀ s b, Quiet s (f s b) t) : Quiet s (l.foldl f s) t := by
  induction l generalizing s with
  | nil => exact Quiet.refl s t
  | cons b l ih => exact (h s b).trans (ih (f s b))

theorem State.raise_quiet (s : State) (u : EUnit) (d k cl lo de t : Nat) : Quiet s (s.raise u d k cl lo de) t := by
  unfold State.raise
  dsimp only
  split <;> exact ⟨Kept.ofFields rfl rfl rfl rfl rfl ⟨rfl, rfl, rfl⟩ rfl ⟨rfl, rfl⟩ ⟨rfl, rfl, rfl⟩ ⟨rfl, rfl, rfl⟩ ⟨rfl, rfl⟩
    ⟨rfl, rfl, rfl⟩, rfl⟩

theorem State.reportIn_quiet (s : State) (m g : Nat) (tag : BitVec 7) (t : Nat) : Quiet s (s.reportIn m g tag) t := by
  unfold State.reportIn
  have hc : ∀ (s : State) (m : KMap Word), Quiet s { s with memErr := m } t := fun s m =>
    ⟨Kept.ofFields rfl rfl rfl rfl rfl ⟨rfl, rfl, rfl⟩ rfl ⟨rfl, rfl⟩ ⟨rfl, rfl, rfl⟩ ⟨rfl, rfl, rfl⟩ ⟨rfl, rfl⟩ ⟨rfl, rfl, rfl⟩, rfl⟩
  dsimp only
  split
  · exact Quiet.refl s t
  · exact (hc s _).trans (State.raise_quiet _ _ _ _ _ _ _ t)
  · exact hc s _
  · exact (hc s _).trans (State.raise_quiet _ _ _ _ _ _ _ t)

theorem State.report_quiet (s : State) (g : Nat) (tag : BitVec 7) (t : Nat) : Quiet s (s.report g tag) t :=
  State.reportIn_quiet s _ g tag t

theorem State.send_quiet (s : State) (a n : Nat) (w : Bool) (x : Acs) (t : Nat) : Quiet s (s.send a n w x) t := by
  unfold State.send
  refine Quiet.foldl _ _ _ _ (fun s b => ?_)
  exact ⟨Kept.ofFields rfl rfl rfl rfl rfl ⟨rfl, rfl, rfl⟩ rfl ⟨rfl, rfl⟩ ⟨rfl, rfl, rfl⟩ ⟨rfl, rfl, rfl⟩ ⟨rfl, rfl⟩ ⟨rfl, rfl, rfl⟩, rfl⟩

/-- A read of memory changes neither memory nor any thread. -/
theorem State.touch_quiet (s : State) (a n : Nat) (x : Acs) (t : Nat) : Quiet s (s.touch a n x) t := by
  unfold State.touch
  split
  · exact State.send_quiet s a n false x t
  · exact Quiet.foldl _ _ _ _ (fun s g => State.report_quiet s g x.tag t)
  · exact Quiet.foldl _ _ _ _ (fun s g => State.report_quiet s g x.tag t)
  · exact Quiet.refl s t

/-- A translation by a core leaves its walk's reads and a cached translation. -/
theorem State.xlatNote_quiet (s : State) (c p priv : Nat) (k : Access) (va : Nat) (x : Acs) (t : Nat) :
    Quiet s (s.xlatNote (.core c) p priv k va x) t := by
  unfold State.xlatNote
  have h1 : Quiet s ((s.xlatRead (.core c) p priv k va).2.foldl (fun s a => s.touch a 8 { x with tag := 0, np := false }) s) t :=
    Quiet.foldl _ _ _ _ (fun s a => State.touch_quiet s a 8 _ t)
  dsimp only
  split
  · exact h1
  · split
    · exact h1
    · exact h1.trans ⟨Kept.updCore _ t c (fun k => { k with xlat := _ }) (fun _ => ⟨rfl, rfl, rfl, rfl, rfl, rfl, rfl⟩), rfl⟩

/-- A lookup in the instruction cache. -/
theorem State.lookup_quiet (s : State) (c la w0 w1 t : Nat) : Quiet s (s.lookup c false la w0 w1).2 t := by
  have he : ∀ (s : State) (e : Nat) (x : CEntry), Quiet s (s.setCentry c false e x) t := fun s e x =>
    ⟨Kept.updCore s t c _ (fun k => ⟨rfl, rfl, rfl, rfl, rfl, rfl, rfl⟩), rfl⟩
  unfold State.lookup
  split
  · exact Quiet.refl s t
  · dsimp only
    split
    · exact Quiet.refl s t
    · split
      · exact Quiet.refl s t
      · exact (State.raise_quiet _ _ _ _ _ _ _ t).trans (he _ _ _)
      · split
        · exact (State.raise_quiet _ _ _ _ _ _ _ t).trans (he _ _ _)
        · exact Quiet.refl s t
      · split
        · dsimp only
          split
          · exact State.raise_quiet _ _ _ _ _ _ _ t
          · exact (State.raise_quiet _ _ _ _ _ _ _ t).trans (he _ _ _)
        · exact Quiet.refl s t

/-- A fetch past the instruction cache that delivers. -/
theorem State.fetchPast_quiet (s : State) (t : Nat) (leaf : Word) (pa : Nat) (h : (s.fetchPast t leaf pa).1 = .ready) :
    Quiet s (s.fetchPast t leaf pa).2 t := by
  have hfar : ∀ addr o send, (s.fetchFar t addr o send).1 = .ready → (s.fetchFar t addr o send).2 = s := by
    intro addr o send hf
    unfold State.fetchFar at hf ⊢
    dsimp only at hf ⊢
    split
    · rename_i hn; rw [hn] at hf; simp at hf
    · rename_i f hn
      rw [hn] at hf
      dsimp only at hf
      split
      · rename_i ha; rw [if_pos ha] at hf; simp at hf
      · rename_i ha
        rw [if_neg ha] at hf
        split
        · rfl
        · split <;> rfl
  unfold State.fetchPast at h ⊢
  dsimp only at h ⊢
  split
  · rename_i h1; rw [if_pos h1] at h; rw [hfar _ _ _ h]; exact Quiet.refl s t
  · rename_i h1
    rw [if_neg h1] at h
    split
    · split
      · exact State.touch_quiet s _ _ _ t
      · exact State.touch_quiet s _ _ _ t
    · rename_i h2
      rw [if_neg h2] at h
      split
      · rename_i off hp
        rw [hp] at h
        dsimp only at h
        split
        · rename_i h3; rw [if_pos h3] at h; simp at h
        · rename_i h3
          rw [if_neg h3] at h
          split
          · rename_i h4; rw [dif_pos h4] at h; rw [hfar _ _ _ h]; exact Quiet.refl s t
          · exact Quiet.refl s t
      · exact Quiet.refl s t

/-- A fetch that delivers leaves every thread and memory as they were. -/
theorem State.fetch_quiet (s : State) (t : Nat) (h : (s.fetch t).1 = .ready) : Quiet s (s.fetch t).2 t := by
  unfold State.fetch at h ⊢
  dsimp only at h ⊢
  have hx := State.xlatNote_quiet s (coreOf t) (s.core (coreOf t)).part (stPriv (s.thr t).sr.st) .fetch (s.thr t).pc.toNat
    { cls := (s.thr t).cls, eng := coreEngine (coreOf t) } t
  split
  · exact Quiet.refl s t
  · rename_i h0
    rw [if_neg h0] at h
    split
    · rename_i r l hxl
      rw [hxl] at h
      exact absurd h (by simp)
    · rename_i leaf lv pa hxl
      rw [hxl] at h
      dsimp only at h
      split
      · rename_i hnc
        rw [if_pos hnc] at h
        exact hx.trans (State.fetchPast_quiet _ _ _ _ h)
      · rename_i hnc
        rw [if_neg hnc] at h
        split
        · exact hx.trans (State.lookup_quiet _ _ _ _ _ t)
        · exact hx.trans (State.lookup_quiet _ _ _ _ _ t)
        · rename_i hl1 hl2
          exfalso
          revert h
          split
          · rename_i e he; exact absurd he (hl1 e)
          · rename_i he; exact absurd he hl2
          · intro h; exact absurd h (by simp)

/-! ### Issue -/

/-- An instruction that fires does its effect on the state that its fetch leaves, and then retires. -/
theorem State.issueWith_fires {s : State} {t : ThreadId} {cond : BitVec 4} {br : Bool} (skip body : State → Act)
    (h : Fires s t cond br) :
    s.issueWith t.val cond true br skip body = State.finish t.val (s.thr t.val).pos (body (s.fetch t.val).2) := by
  obtain ⟨h1, h2, h3, h4, h5⟩ := h
  simp [State.issueWith, h1, h2, h3, h4, h5]

theorem State.issue_fires {s : State} {t : ThreadId} {cond : BitVec 4} (body : State → Act) (h : Fires s t cond false) :
    s.issue t.val cond true body = State.finish t.val (s.thr t.val).pos (body (s.fetch t.val).2) :=
  State.issueWith_fires _ _ h

/-- An instruction whose effect is on its thread alone: the thread after it, and everything else as it was. -/
theorem State.issueThr_fires {s : State} {t : ThreadId} {cond : BitVec 4} (f : Thread → Thread) (h : Fires s t cond false) :
    (s.issueThr t.val cond true f).thr t.val = (f (s.thr t.val)).retire ∧ Kept s (s.issueThr t.val cond true f) t.val := by
  unfold State.issueThr
  rw [State.issue_fires _ h]
  have hq := State.fetch_quiet s t.val h.2.1
  refine ⟨?_, ?_⟩
  · simp [State.finish, hq.own]
  · exact hq.kept.trans ((Kept.updThr _ _ _).trans (Kept.updThr _ _ _))

/-- A command for a thread that may not issue changes nothing. -/
theorem State.issueWith_idle (s : State) (t : Nat) (cond : BitVec 4) (legal br : Bool) (skip body : State → Act)
    (h : s.mayIssue t = false) : s.issueWith t cond legal br skip body = s := by
  simp [State.issueWith, h]

end Sys2Proof.Machine
end

