-- ==== Sys2Proof/Laws/Memory.lean ====
section
/-! SUPPORT. Memory byte by byte: what a write leaves at each address, that each operation keeps the canonical form, and that
reads change no byte. -/

namespace Sys2Proof.Machine

/-- A write of bytes leaves byte `k` of them at address `a + k`, and every other address as it was. -/
theorem State.byte_poke (s : State) (a : Nat) (bs : List Byte) (b : Nat) :
    (s.poke a bs).byte b = if a ≤ b ∧ b < a + bs.length then bs.getD (b - a) 0 else s.byte b := by
  unfold State.poke State.byte
  split
  · rename_i h
    rw [kget_ksetMany_mem 0 bs s.mem h.1 h.2]
  · rename_i h
    exact kget_ksetMany_ne 0 bs s.mem (by omega)

/-- A report changes no byte of memory. -/
theorem State.mem_report (s : State) (g : Nat) (tag : BitVec 7) : (s.report g tag).mem = s.mem := by
  unfold State.report State.reportIn State.raise
  split <;> (try rfl) <;> dsimp only <;> split <;> rfl

/-- Setting a detection code changes no byte of memory. -/
theorem State.mem_seal (s : State) (a n g : Nat) (x : Acs) (p : Bool) : (s.seal a n g x p).mem = s.mem := by
  unfold State.seal State.sealAs
  split
  · rfl
  · exact s.mem_report g x.tag

/-- Sending requests changes no byte of memory. -/
theorem State.mem_send (s : State) (a n : Nat) (w : Bool) (x : Acs) : (s.send a n w x).mem = s.mem := by
  unfold State.send
  generalize blocks a n = l
  induction l generalizing s with
  | nil => rfl
  | cons b l ih => exact (ih _).trans rfl

/-- What a read leaves behind changes no byte of memory. -/
theorem State.mem_touch (s : State) (a n : Nat) (x : Acs) : (s.touch a n x).mem = s.mem := by
  have h : ∀ (l : List Nat) (s : State), (l.foldl (fun s g => s.report g x.tag) s).mem = s.mem := by
    intro l
    induction l with
    | nil => exact fun _ => rfl
    | cons g l ih => exact fun s => (ih _).trans (s.mem_report g x.tag)
  unfold State.touch
  split
  · exact s.mem_send a n false x
  · exact h _ s
  · exact h _ s
  · rfl

/-- A store leaves its bytes at its addresses, and every other byte as it was (R316). -/
theorem State.byte_store (s : State) (a : Nat) (bs : List Byte) (x : Acs) (poison : Nat → Bool) (b : Nat) :
    (s.store a bs x poison).byte b = if a ≤ b ∧ b < a + bs.length then bs.getD (b - a) 0 else s.byte b := by
  have h : ∀ (l : List Nat) (s : State), (l.foldl (fun s g => s.seal a bs.length g x (poison g)) s).mem = s.mem := by
    intro l
    induction l with
    | nil => exact fun _ => rfl
    | cons g l ih => exact fun s => (ih _).trans (s.mem_seal a _ g x _)
  have hp : ∀ s1 : State, s1.mem = s.mem →
      (s1.poke a bs).byte b = if a ≤ b ∧ b < a + bs.length then bs.getD (b - a) 0 else s.byte b := by
    intro s1 h1
    rw [State.byte_poke]
    have : s1.byte b = s.byte b := by unfold State.byte; rw [h1]
    simp [this]
  unfold State.store
  dsimp only
  split
  · rename_i h0
    have : ¬ (a ≤ b ∧ b < a + bs.length) := by omega
    simp [this]
  · split
    · have e : ∀ s2 : State, (s2.send a bs.length true x).byte b = s2.byte b := by
        intro s2; unfold State.byte; rw [State.mem_send]
      rw [e]; exact hp _ (h _ s)
    · exact hp _ (h _ s)

/-- Reset memory is canonical. -/
theorem Memory.wf_reset : Memory.wf State.reset.mem = true := by decide

/-- A write of bytes keeps memory canonical. -/
theorem Memory.wf_poke (s : State) (a : Nat) (bs : List Byte) (h : Memory.wf s.mem = true) : Memory.wf (s.poke a bs).mem = true :=
  kwf_ksetMany 0 bs s.mem a h

/-- A store keeps memory, its detection codes and the semaphores canonical. -/
theorem State.canonical_store (s : State) (a : Nat) (bs : List Byte) (x : Acs) (poison : Nat → Bool) (h : s.Canonical) :
    (s.store a bs x poison).Canonical := State_store_canon s a bs x poison h

end Sys2Proof.Machine
end

