-- ==== Sys2Proof/WellFormed.lean ====
section
/-! DEFINITION. The shape of a command: lists as long as the rows of the manual make them. -/

namespace Sys2Proof

/-- A granule of a link message holds 32 bytes (Table LNK-3). -/
def Granule.wellFormed (g : Granule) : Bool := decide (g.bytes.length = 32)

/-- A link message: every data slot is a granule, as many as NSLOT gives when it carries data, and as ARG gives in a Peloton
message (Table LNK-3). -/
def LinkMsg.wellFormed (m : LinkMsg) : Bool :=
  m.data.all Granule.wellFormed
    && (if m.op = 6 ∨ m.op = 7 then decide (m.data.length = m.arg.toNat % 2 ^ 32)
      else decide (m.data = [] ∨ m.data.length = m.nslot.toNat))

/-- A code block of a Peloton message holds 32 E4M3 bytes (R344, Wire format). -/
def codeOk (l : List Byte) : Bool := decide (l.length = 32)

/-- A Peloton message: element blocks of 32 codes, and an arrived count of at most 1,024 (Table PEL-2). -/
def PelMsg.wellFormed (m : PelMsg) : Bool :=
  decide (m.arrived ≤ 1024)
    && m.codes.all (fun c => match c with
        | none => true
        | some l => codeOk l)
    && m.leaves.all (fun e => codeOk e.2)

/-- A frame: its messages are well formed (Table LNK-2). -/
def Frame.wellFormed (f : Frame) : Bool := f.msgs.all LinkMsg.wellFormed

/-- A gearing image holds whole 8-byte words (R409). -/
def Image.wellFormed (i : Image) : Bool := decide (i.bytes % 8 = 0)

/-- An entry of a host queue has 64 bytes: eight words (Table HOST-3). -/
def HqEntry.wellFormed (e : HqEntry) : Bool := decide (e.rest.length = 5)

/-- A command has the shape of its row. -/
def Instr.wellFormed : Instr → Bool
  | .pelExp _ m => m.wellFormed
  | .pelScale _ m => m.wellFormed
  | .pelData _ m => m.wellFormed
  | .pelResult _ m => m.wellFormed
  | .pelGather _ m => m.wellFormed
  | .pelCheck _ m => m.wellFormed
  | .frameReceived _ f => f.wellFormed
  | .lnkRd _ m => m.wellFormed
  | .lnkWr _ m => m.wellFormed
  | .rdrsp m => m.wellFormed
  | .wrack m => m.wellFormed
  | .errrsp m => m.wellFormed
  | .imageValidation img => (match img with
      | some i => i.wellFormed
      | none => true)
  | .hqNop _ e => e.wellFormed
  | .hqXfer _ e => e.wellFormed
  | .hqSig _ e => e.wellFormed
  | .hqWait _ e => e.wellFormed
  | .bar2Write _ bytes _ => decide (bytes.length ≤ 64)
  | _ => true

end Sys2Proof
end

