-- ==== Sys2Proof/Tests/Slice0.lean ====
section
/-! SUPPORT. Tests: the shape checks refuse ill-formed commands, small results taken from the manual's examples and tables, and for each
statement with hypotheses a concrete state and operands that meet them. -/

namespace Sys2Proof.Tests

open Sys2Proof Sys2Proof.Machine

set_option Elab.async false

/-! ### Small states -/

/-- A running thread at 0x1000 whose word is delivered, at privilege S. -/
def th0 : Thread :=
  { st := .running, pc := 0x1000#64, ifetch := some 0x1000#64, g := [(1, 5#64), (2, 7#64), (3, 0x2000#64), (4, 0x2003#64)]
    sr := { st := 0x200#64, tvec := 0x8000#64, entry := 0x9000#64, le0 := 0x7000#64, le1 := 0x7000#64 } }

/-- Thread 0 as given, the clocks running and every domain on. -/
def demo (th : Thread) : State :=
  { State.reset with clkOff := [], threads := [(0, th)], power := { State.reset.power with on := 0xFFFFFFFFFFFFFFFFFFFF#80 }
                     sec := { State.reset.sec with phase := .running } }

def s0 : State := demo th0

/-- The same thread at privilege U. -/
def su : State := demo { th0 with sr := { th0.sr with st := 0#64 } }

/-- A page of local memory at virtual address 0, past the caches when `nc`. -/
def mapped (nc : Bool) (th : Thread) : State :=
  let s : State := { demo th with parts := [(0, { en := true, root := 0, ranges := [{ base := 0, limit := 2 ^ 44, share := false }] })] }
  s.setCore 0 { s.core 0 with xlat := [{ part := 0, level := 2, vpn := 0, leaf := if nc then 0x7D#64 else 0x3D#64 },
    { part := 0, level := 2, vpn := 1, leaf := 0x2000000007D#64 }] }

/-! ### Shapes of commands -/

def msg0 : LinkMsg :=
  { did := 0, sid := 0, op := 1, nslot := 1, cls := 0, xid := 0, addr := 0, ctag := 0, arg := 0, data := [{ bytes := List.replicate 32 0, poison := false }] }
def pel0 : PelMsg :=
  { tree := 0, bucket := 0, src := 0, level := 0, arrived := 1, step := 0, fdig := 0, missing := 0, bytes := [], codes := [none], words := [], leaves := [] }
def frame0 : Frame :=
  { crcGood := true, corrected := 0, uncorrectable := 0, seq := 0, ack := 0, nak := false, vc := 0, half := false, crvc := 0, crh := false
    crn := 0, usemap := 0, msgs := [msg0] }
def entry0 : HqEntry := { word0 := 0, arg0 := 0, arg1 := 0, rest := [0, 0, 0, 0, 0] }

theorem test_wellFormed_link_message : (Instr.rdrsp msg0).wellFormed = true ∧
    (Instr.rdrsp { msg0 with data := [{ bytes := [], poison := false }] }).wellFormed = false ∧
    (Instr.rdrsp { msg0 with nslot := 2 }).wellFormed = false := by decide +kernel
theorem test_wellFormed_peloton_message : (Instr.pelData 0 pel0).wellFormed = true ∧
    (Instr.pelData 0 { pel0 with arrived := 1025 }).wellFormed = false ∧ (Instr.pelData 0 { pel0 with codes := [some [0]] }).wellFormed = false ∧
    (Instr.pelExp 0 { pel0 with leaves := [(0, [])] }).wellFormed = false := by decide +kernel
theorem test_wellFormed_frame : (Instr.frameReceived 0 frame0).wellFormed = true ∧
    (Instr.frameReceived 0 { frame0 with msgs := [{ msg0 with data := [{ bytes := [1], poison := false }] }] }).wellFormed = false := by decide +kernel
theorem test_wellFormed_image : (Instr.imageValidation (some { bytes := 8, words := [] })).wellFormed = true ∧
    (Instr.imageValidation (some { bytes := 9, words := [] })).wellFormed = false := by decide +kernel
theorem test_wellFormed_queue_entry : (Instr.hqNop 0 entry0).wellFormed = true ∧
    (Instr.hqNop 0 { entry0 with rest := [] }).wellFormed = false := by decide +kernel
theorem test_wellFormed_bar2_write : (Instr.bar2Write 0 [1] false).wellFormed = true ∧
    (Instr.bar2Write 0 (List.replicate 65 0) false).wellFormed = false := by decide +kernel

/-- A field of the thread after a command. -/
def after {α : Type} (o : Host.Outcome State Fault Refusal) (g : State → α) : Option α :=
  match o with
  | .next s => some (g s)
  | _ => none

/-- Body of format R: RD, RA, RB, SF. -/
def fR (rd ra rb sf : Nat) : BitVec 52 := BitVec.ofNat 52 (rd * 2 ^ 47 + ra * 2 ^ 42 + rb * 2 ^ 37 + sf * 2 ^ 36)

/-! ### Scalar instructions -/

theorem witness_ScalarArithmetic : Fires s0 0 0 false ∧ Body.resR (fR 3 1 2 1) = 0 ∧ Body.resI (fR 3 1 0 0) = false
    ∧ (Body.resR (fR 0 1 2 0) = 0 ∧ Body.rd (fR 0 1 2 0) = 0 ∧ Body.sfR (fR 0 1 2 0) = false) ∧ Body.rb (fR 3 1 0 1) = 0
    ∧ (fR 3 0 0 0).extractLsb' 32 15 = 0 := by unfold Fires; decide +kernel

/-- Example of R87: 5 - 7 borrows and is negative. -/
theorem test_sub_sets_flags : after (execSub 0 0 (fR 3 1 2 1) s0) (fun s => ((s.thr 0).rg 3, (s.thr 0).sr.st)) = some (0xFFFFFFFFFFFFFFFE#64, 0x20A#64) := by
  decide +kernel
/-- R87: the carry out of bit 63. -/
theorem test_add_wraps : after (execAdd 0 0 (fR 3 1 2 1) (demo { th0 with g := [(1, 0xFFFFFFFFFFFFFFFF#64), (2, 1#64)] }))
    (fun s => ((s.thr 0).rg 3, (s.thr 0).sr.st)) = some (0#64, 0x206#64) := by decide +kernel
/-- R98: BL three words back writes the address after the delay slot and leaves the slot next. -/
theorem test_bl_links : after (execBl 0 0 (BitVec.ofNat 52 (7 * 2 ^ 47 + 2 ^ 47 - 3)) s0) (fun s => ((s.thr 0).rg 7, (s.thr 0).pc, (s.thr 0).delay))
    = some (0x1010#64, 0x1008#64, some { branch := 0x1000#64, target := 0xFE8#64 }) := by decide +kernel

/-- A legal body of each instruction of `sOnly`. -/
def fOnly (n : Nat) : BitVec 52 := BitVec.ofNat 52 ((if n = 3 then 2 else if n = 4 then 4 else if n = 5 then 5 else 0) * 2 ^ 47)
theorem witness_SpecialRegisterAccess : (Fires s0 0 0 false ∧ Body.resR (fR 3 1 9 0) = 0 ∧ Body.rb (fR 3 1 9 0) ≤ 20
      ∧ stPriv (s0.thr 0).sr.st ≠ 0 ∧ Body.rb (fR 3 1 9 0) ≠ 0 ∧ Body.rb (fR 0 1 0 0) = 0)
    ∧ (Fires su 0 0 false ∧ stPriv (su.thr 0).sr.st = 0 ∧ Body.resR (fR 0 1 3 0) = 0 ∧ Body.rb (fR 0 1 3 0) ≤ 20 ∧ ¬ (9 ≤ Body.rb (fR 0 1 3 0) ∧ Body.rb (fR 0 1 3 0) ≤ 18)
      ∧ (∀ n : Fin 6, plainBody n.val (fOnly n.val)) ∧ 9 ≤ Body.rb (fR 0 1 9 0) ∧ Body.rb (fR 0 1 18 0) ≤ 18 ∧ Body.rb (fR 0 1 20 0) = 20) := by
  unfold Fires plainBody; decide +kernel

theorem witness_Branches : Fires s0 0 0 true ∧ Body.resR (fR 0 3 0 0) = 0 ∧ ((s0.thr 0).rg (Body.ra (fR 0 3 0 0))).toNat % 8 = 0
    ∧ ((s0.thr 0).rg (Body.ra (fR 0 4 0 0))).toNat % 8 ≠ 0 := by unfold Fires; decide +kernel

/-- Threads at the ends of loops, in a delay slot and in a shadow. -/
def thLoop1 : Thread := { th0 with sr := { th0.sr with le1 := 0x1000#64, lc1 := 2#32, lb1 := 0x500#64 } }
def thLoop0 : Thread := { th0 with sr := { th0.sr with le0 := 0x1000#64, lc0 := 2#32, lb0 := 0x600#64 } }
def thSlot : Thread := { th0 with delay := some { branch := 0xFF8#64, target := 0x4000#64 } }
def thShadow : Thread := { th0 with shadow := some 0x210#64 }
/-- Body of RPT at level 0: CI, RC, LEN, IMM. -/
def fP (ci rc len imm : Nat) : BitVec 52 := BitVec.ofNat 52 (ci * 2 ^ 50 + rc * 2 ^ 45 + len * 2 ^ 24 + imm)

def thLast1 (n : BitVec 32) : Thread := { thLoop1 with sr := { thLoop1.sr with lc1 := 1, le0 := 0x1000#64, lc0 := n, lb0 := 0x600#64 } }
def thLast0 : Thread := { thLoop0 with sr := { thLoop0.sr with lc0 := 1 } }

/-- A product and a load's value that are due, and one that is not (R89). -/
def pDue (w : RegWrite) (n : Nat) : Pend := { left := n, src := .ready, writes := [w], pos := { pc := 0 }, va := 0 }
theorem witness_due_results :
    (∀ p ∈ ({ th0 with pend := [pDue (.g 5 9#64) 2] } : Thread).pend, ¬ DueNext p)
    ∧ (({ th0 with pend := [pDue (.g 5 9#64) 2, pDue (.prod 1#64 2#64) 1] } : Thread).pend = [pDue (.g 5 9#64) 2] ++ pDue (.prod 1#64 2#64) 1 :: []
      ∧ DueNext (pDue (.prod 1#64 2#64) 1) ∧ DueNext (pDue (.g 5 9#64) 1) ∧ ∀ q ∈ [pDue (.g 5 9#64) 2] ++ [], ¬ DueNext q)
    ∧ (2 ^ 20 ≤ Body.len (fP 0 0 (2 ^ 20) 1) ∧ Body.len (fP 1 0 6 100) < 2 ^ 20 ∧ Body.len (fP 1 0 (2 ^ 20 - 1) 100) < 2 ^ 20
      ∧ 1 ≤ Body.len (fP 1 0 (2 ^ 20 - 1) 100)) := by
  unfold DueNext; decide +kernel

theorem witness_RetirementAndLoops : thSlot.delay = some { branch := 0xFF8#64, target := 0x4000#64 }
    ∧ (thLoop1.delay = none ∧ thLoop1.pc = thLoop1.sr.le1 ∧ thLoop1.sr.lc1.toNat > 1)
    ∧ ((thLast1 0).delay = none ∧ (thLast1 0).pc = (thLast1 0).sr.le1 ∧ (thLast1 0).sr.lc1 = 1 ∧ (thLast1 0).sr.lc0 = 0
      ∧ (thLast1 2).pc = (thLast1 2).sr.le0 ∧ (thLast1 2).sr.lc0 ≠ 0)
    ∧ (thLast0.delay = none ∧ thLast0.pc ≠ thLast0.sr.le1 ∧ thLast0.pc = thLast0.sr.le0 ∧ thLast0.sr.lc0 = 1)
    ∧ (thLoop0.delay = none ∧ (thLoop0.pc ≠ thLoop0.sr.le1 ∨ thLoop0.sr.lc1 = 0) ∧ thLoop0.pc = thLoop0.sr.le0 ∧ thLoop0.sr.lc0.toNat > 1)
    ∧ (th0.delay = none ∧ (th0.pc ≠ th0.sr.le1 ∨ th0.sr.lc1 = 0) ∧ (th0.pc ≠ th0.sr.le0 ∨ th0.sr.lc0 = 0))
    ∧ thShadow.shadow = some 0x210#64
    ∧ (Fires s0 0 0 true ∧ Body.len (fP 1 0 0 100) = 0 ∧ (Body.ci (fP 1 3 6 0) = true ∧ Body.rc (fP 1 3 6 0) ≠ 0) ∧ 1 ≤ Body.len (fP 1 0 6 100) ∧ Body.rc (fP 1 0 6 100) = 0
      ∧ ((fP 1 0 6 100).extractLsb' 0 24).zeroExtend 32 ≠ 0#32 ∧ ((fP 1 0 1 0).extractLsb' 0 24).zeroExtend 32 = 0#32 ∧ 1 ≤ Body.len (fP 1 0 1 0)) := by
  unfold Fires; decide +kernel

/-- A thread in a handler, and one in a handler of a handler. -/
def thX : Thread := { th0 with sr := { th0.sr with st := 0x4200#64, xst := 0#64, xpc := 0x3000#64 } }
def thK : Thread := { th0 with sr := { th0.sr with st := 0xC200#64, sst := 0#64, spc := 0x3000#64 } }

theorem witness_ExceptionsAndReturns :
    ((s0.thr 0).pend.all Pend.isReady = true ∧ (s0.thr 0).sr.st.getLsbD 14 = false ∧ (s0.thr 0).sr.st.getLsbD 15 = false ∧ ({ code := 8, xaddr := 0 } : Exc).code < 256)
    ∧ (((demo thX).thr 0).pend = [] ∧ ((demo thX).thr 0).sr.st.getLsbD 15 = false ∧ ((demo thX).thr 0).sr.st.getLsbD 14 = true)
    ∧ (((demo thK).thr 0).pend = [] ∧ ((demo thK).thr 0).sr.st.getLsbD 15 = true)
    ∧ (Body.noRegs 0 = true ∧ Fires s0 0 0 true ∧ Fires s0 0 0 false ∧ Fires (demo thX) 0 0 true ∧ Fires (demo thK) 0 0 true
      ∧ fld (thX.sr.xst) 10 9 ≤ fld thX.sr.st 10 9 ∧ fld (thK.sr.sst) 10 9 ≤ fld thK.sr.st 10 9
      ∧ Fires (demo { thX with sr := { thX.sr with st := 0x4000#64, xst := 0x200#64 } }) 0 0 true ∧ fld (0x4000#64) 10 9 < fld (0x200#64) 10 9) := by
  unfold Fires; decide +kernel

/-- Example EXC entry (R120, Table EXC-3): an exception in a delay slot saves the branch's address and DS. -/
theorem test_exception_in_slot_saves_branch :
    (let r := ((demo thSlot).takeExc 0 { code := 8, xaddr := 3#64 } thSlot.pos).thr 0
     (r.pc, r.sr.xpc, r.sr.xst, r.sr.st, r.sr.xaddr)) = (0x8000#64, 0xFF8#64, 0x2200#64, 0x4200#64, 3#64) := by decide +kernel

theorem noTake_of {th : Thread} (h : th.wait = none) : NoTake th := by intro w hw; rw [h] at hw; cases hw
theorem witness_noTake : NoTake (s0.thr 0) ∧ NoTake ((demo thX).thr 0) ∧ NoTake ((demo thK).thr 0) := ⟨noTake_of rfl, noTake_of rfl, noTake_of rfl⟩
theorem witness_skippable : Skippable .add 1 ∧ Skippable .dcwb 0 ∧ Skippable .tewMax (BitVec.ofNat 52 (2 * 2 ^ 34)) :=
  ⟨.inl (by simp [condOps, regOps]), .inr ⟨(.dcwb, Body.rd, 0), by simp [selOps], rfl, by decide⟩,
    .inr ⟨(.tewMax, Body.modeA, 2), by simp [selOps], rfl, by decide⟩⟩

/-- A legal body: its instruction leaves another pc than the ILLEGAL entry. -/
theorem legal_of {mk : Mk} {br : Bool} {f : BitVec 52} {t : ThreadId} {s : State} (hf : Fires s t 0#4 br)
    (h : after (exec (mk t 0#4 f) s) (fun s' => (s'.thr t.val).pc)
      ≠ some ((((s.fetch t.val).2.takeExc t.val { code := 3, xaddr := 0 } (s.thr t.val).pos).thr t.val).pc)) : LegalBody mk br f :=
  ⟨t, s, hf, fun e => h (by rw [e]; rfl)⟩

theorem witness_legal_bodies : LegalBody .add false (fR 3 1 2 0) ∧ LegalBody .b true 4 ∧ LegalBody .jr true (fR 0 3 0 0)
    ∧ LegalBody .rpt true (fP 1 0 6 100) ∧ LegalBody .syscall true 0 :=
  ⟨legal_of (t := 0) (s := s0) (by unfold Fires; decide +kernel) (by decide +kernel), legal_of (t := 0) (s := s0) (by unfold Fires; decide +kernel) (by decide +kernel),
    legal_of (t := 0) (s := s0) (by unfold Fires; decide +kernel) (by decide +kernel), legal_of (t := 0) (s := s0) (by unfold Fires; decide +kernel) (by decide +kernel),
    legal_of (t := 0) (s := s0) (by unfold Fires; decide +kernel) (by decide +kernel)⟩

/-- A thread in a delay slot, and one at LE; a false condition; words of opcodes that no table assigns. -/
theorem witness_barred_positions :
    ((demo thSlot).mayIssue 0 = true ∧ ((demo thSlot).fetch 0).1 = .ready ∧ ((demo thSlot).thr 0).delay ≠ none ∧ ((demo thSlot).thr 0).posIllegal true = true)
    ∧ ((demo thLoop1).mayIssue 0 = true ∧ ((demo thLoop1).fetch 0).1 = .ready ∧ ((demo thLoop1).thr 0).atLe = true)
    ∧ (condHolds 1#4 (s0.thr 0).sr.st = false ∧ (s0.thr 0).posIllegal true = false)
    ∧ ∀ k ∈ [0x12, 0x1A, 0x4F, 0xCA, 0xFF], fld (BitVec.ofNat 64 (k * 2 ^ 52)) 59 52 ∉ assignedOps := by decide +kernel

theorem witness_ConditionsAndIllegal :
    (s0.mayIssue 0 = true ∧ (s0.fetch 0).1 = .ready ∧ (1#4 : BitVec 4) ≠ 15#4 ∧ (s0.thr 0).posIllegal false = false
      ∧ condHolds 1#4 (s0.thr 0).sr.st = false)
    ∧ Body.resR 1 ≠ 0 ∧ 6 ≤ Body.rd (fR 6 0 0 0) ∧ 4 ≤ Body.modeA (BitVec.ofNat 52 (4 * 2 ^ 34)) ∧ fld (0x0120000000000000#64) 59 52 = 0x12 := by decide +kernel

/-! ### Memory, caches and strings -/

/-- The translation that `Reaches` names is a success that `P` holds of. -/
def reachOk (s : State) (t : Nat) (f : BitVec 52) (k : Access) (P : Word → Nat → State → Bool) : Bool :=
  match (s.fetch t).2.dataXlat t k (Body.ea f (s.thr t)) with
  | (.ok leaf _ pa, s2) => P leaf pa s2
  | _ => false

theorem reaches_of {s : State} {t : ThreadId} {f : BitVec 52} {k : Access} {P : Word → Nat → State → Bool}
    (h : reachOk s t.val f k P = true) : ∃ leaf pa s2, Reaches s t f k leaf pa s2 ∧ P leaf pa s2 = true := by
  unfold reachOk at h
  unfold Reaches
  split at h
  · exact ⟨_, _, _, ⟨_, ‹_›⟩, h⟩
  · cases h

/-- Body of format M: RD, RA, SZ, SX, OFF. -/
def fM (rd ra sz sx off : Nat) : BitVec 52 := BitVec.ofNat 52 (rd * 2 ^ 47 + ra * 2 ^ 42 + sz * 2 ^ 40 + sx * 2 ^ 39 + off)

/-- Page 0 past the caches, a poisoned granule at 0x2020; and page 0 through a data cache that holds line 0x20 dirty. -/
def sM : State := { mapped true th0 with gran := kset {} [] 0x101 { p := true } }
def sC : State :=
  let s := mapped false th0
  s.setCore 0 { s.core 0 with
    dcache := { (s.core 0).dcache with entries := [(5, { valid := true, la := 0x20, dirty := true, data := 0x1122#2048 })] }
    icache := { (s.core 0).icache with entries := [(7, { valid := true, la := 0x20 })] } }

theorem witness_PlainMemoryAccess :
    (Fires sM 0 0 false ∧ Body.okM (fM 5 3 2 1 0) = true ∧ ¬ (Body.sx (fM 5 3 2 1 0) = true ∧ Body.sz (fM 5 3 2 1 0) = 3)
      ∧ (Body.ea (fM 5 4 2 1 0) (sM.thr 0)).toNat % 4 ≠ 0 ∧ (Body.ea (fM 5 3 2 1 0) (sM.thr 0)).toNat % 4 = 0)
    ∧ (∃ leaf pa s2, Reaches sM 0 (fM 5 3 2 1 0) .read leaf pa s2
        ∧ (decide (s2.way leaf pa = .memory) && !s2.anyBad (localOf pa) 4 (leafTag leaf)) = true)
    ∧ (∃ leaf pa s2, Reaches sM 0 (fM 5 3 2 1 0x20) .read leaf pa s2
        ∧ (decide (s2.way leaf pa = .memory) && s2.anyBad (localOf pa) 4 (leafTag leaf)) = true)
    ∧ (Body.okM (fM 5 3 3 0 8) = true ∧ Body.sx (fM 5 3 3 0 8) = false ∧ (Body.ea (fM 5 4 3 0 8) (sM.thr 0)).toNat % 8 ≠ 0
      ∧ (Body.ea (fM 5 3 3 0 8) (sM.thr 0)).toNat % 8 = 0)
    ∧ (∃ leaf pa s2, Reaches sM 0 (fM 5 3 3 0 8) .write leaf pa s2 ∧ (decide (s2.way leaf pa = .memory) && s2.isMem (localOf pa)) = true) :=
  ⟨by unfold Fires; decide +kernel, reaches_of (t := 0) (by decide +kernel), reaches_of (t := 0) (by decide +kernel), by decide +kernel,
    reaches_of (t := 0) (by decide +kernel)⟩

/-- The page of VA 0 leads to register space, to the host window and to module 1. -/
def sFar (leaf : Word) (bme : Bool) : State :=
  let s := mapped true th0
  { s.setCore 0 { s.core 0 with xlat := [{ part := 0, level := 2, vpn := 0, leaf := leaf }] } with host := { s.host with bme := bme } }

theorem witness_FarAccess :
    (∀ b : Bool, Fires (sFar 0x2200000007D#64 b) 0 0 false ∧ Fires (sFar 0x4000000007D#64 b) 0 0 false ∧ Fires (sFar 0x100000000007D#64 b) 0 0 false)
    ∧ (Body.okM (fM 5 3 3 0 8) = true ∧ (Body.ea (fM 5 3 3 0 8) ((sFar 0 false).thr 0)).toNat % 8 = 0 ∧ Body.okM (fM 5 3 2 0 8) = true
      ∧ Body.sx (fM 5 3 3 0 8) = false ∧ Body.sz (fM 5 3 2 0 8) = 2)
    ∧ (∃ leaf pa s2, Reaches (sFar 0x2200000007D#64 false) 0 (fM 5 3 3 0 8) .read leaf pa s2 ∧ decide (s2.way leaf pa = .regs 0x2008) = true)
    ∧ (∃ leaf pa s2, Reaches (sFar 0x2200000007D#64 false) 0 (fM 5 3 2 0 8) .write leaf pa s2 ∧ decide (s2.way leaf pa = .regs 0x2008) = true)
    ∧ (∃ leaf pa s2, Reaches (sFar 0x4000000007D#64 true) 0 (fM 5 3 3 0 8) .read leaf pa s2
      ∧ (decide (s2.way leaf pa = .host 0x2008) && s2.host.bme) = true)
    ∧ (∃ leaf pa s2, Reaches (sFar 0x4000000007D#64 false) 0 (fM 5 3 3 0 8) .write leaf pa s2
      ∧ (decide (s2.way leaf pa = .host 0x2008) && !s2.host.bme) = true)
    ∧ (∃ leaf pa s2, Reaches (sFar 0x100000000007D#64 false) 0 (fM 5 3 3 0 8) .read leaf pa s2 ∧ decide (s2.way leaf pa = .remote) = true)
    ∧ (∃ leaf pa s2, Reaches (sFar 0x100000000007D#64 false) 0 (fM 5 3 3 0 8) .write leaf pa s2
      ∧ (decide (s2.way leaf pa = .remote) && decide (pa % 64 + 8 ≤ 64)) = true) :=
  ⟨by unfold Fires; decide +kernel, by decide +kernel, reaches_of (t := 0) (by decide +kernel), reaches_of (t := 0) (by decide +kernel),
    reaches_of (t := 0) (by decide +kernel), reaches_of (t := 0) (by decide +kernel), reaches_of (t := 0) (by decide +kernel), reaches_of (t := 0) (by decide +kernel)⟩

theorem witness_CachesAndOperations :
    (Fires sC 0 0 false ∧ Body.okM (fM 5 3 2 1 8) = true ∧ (Body.ea (fM 5 3 2 1 8) (sC.thr 0)).toNat % 4 = 0
      ∧ ¬ (Body.sx (fM 5 3 2 1 8) = true ∧ Body.sz (fM 5 3 2 1 8) = 3) ∧ Body.sx (fM 5 3 2 0 8) = false)
    ∧ (∃ leaf pa s2, Reaches sC 0 (fM 5 3 2 1 8) .read leaf pa s2
        ∧ (decide (s2.way leaf pa = .cached) && decide (s2.findLine 0 true (pa / 256) = some 5) && !(s2.centry 0 true 5).inflight
          && decide ((s2.centry 0 true 5).err = .clean) && decide (pa % 4 = 0)) = true)
    ∧ (∃ leaf pa s2, Reaches sC 0 (fM 5 3 2 0 8) .write leaf pa s2
        ∧ (decide (s2.way leaf pa = .cached) && decide (s2.findLine 0 true (pa / 256) = some 5) && !(s2.centry 0 true 5).inflight
          && decide ((s2.centry 0 true 5).err = .clean) && decide (pa % 4 = 0)) = true)
    ∧ (Body.rd (fM 0 3 0 0 0x100) = 0 ∧ stPriv (sC.thr 0).sr.st ≠ 0)
    ∧ (∃ leaf pa s2, Reaches sC 0 (fM 0 3 0 0 0x100) .read leaf pa s2
        ∧ (!leafNc leaf && s2.isMem (localOf pa) && decide (s2.findLine 0 true (pa / 256) = none)) = true)
    ∧ (∃ leaf pa s2, Reaches sC 0 (fM 0 3 0 0 0) .read leaf pa s2
        ∧ (decide (s2.findLine 0 true (pa / 256) = some 5) && (s2.centry 0 true 5).valid && (s2.centry 0 true 5).dirty
          && decide ((s2.centry 0 true 5).err = .clean) && decide ((s2.centry 0 true 5).la = pa / 256) && s2.isLocal pa
          && s2.isMem (localOf pa / 256 * 256) && decide (s2.findLine 0 false (pa / 256) = some 7) && (s2.centry 0 false 7).valid) = true) :=
  ⟨by unfold Fires; decide +kernel, reaches_of (t := 0) (by decide +kernel), reaches_of (t := 0) (by decide +kernel), by decide +kernel,
    reaches_of (t := 0) (by decide +kernel), reaches_of (t := 0) (by decide +kernel)⟩

/-- R93, R94: SD of four bytes and the sign-extending LD that follows it. -/
theorem test_store_is_little_endian : after (execSd 0 0 (fM 4 3 2 0 8) sM) (fun s => (List.range 5).map (fun i => s.byte (0x2007 + i)))
    = some [0#8, 3#8, 0x20#8, 0#8, 0#8] := by decide +kernel
theorem test_load_extends_sign : after (execLd 0 0 (fM 5 3 0 1 0) { sM with mem := [(0x2000, 0x80#8)] }) (fun s => (s.thr 0).pend.map (fun p => (p.left, p.writes)))
    = some [(2, [.g 5 0xFFFFFFFFFFFFFF80#64])] := by decide +kernel

/-- A line under way in entry 5 of each cache, and a thread with a load under way. -/
def sFill : State :=
  let s := s0.setCore 0 { s0.core 0 with
    dcache := { (s0.core 0).dcache with entries := [(5, { inflight := true, la := 0x20 })] }
    icache := { (s0.core 0).icache with entries := [(5, { inflight := true, la := 0x20 })] } }
  { s with mem := [(0x2001, 7#8)] }
/-- The same line with a waiting store and a load that joined it, and of another module's memory; a poisoned granule in it. -/
def pLine : Pend := { left := 2, src := .line 0x20 0 2 false 1, writes := [.g 5 0#64], pos := { pc := 0 }, va := 0x2000#64 }
def sFillL : State :=
  let s := demo { th0 with pend := [pLine] }
  s.setCore 0 { s.core 0 with dcache := { (s.core 0).dcache with
    entries := [(5, { inflight := true, la := 0x20, stores := [{ off := 1, bytes := [9#8], thread := 0, cls := .step }] })] } }
def sFillR (bad : Bool) : State :=
  s0.setCore 0 { s0.core 0 with dcache := { (s0.core 0).dcache with
    entries := [(5, { inflight := true, la := 0x20, awaits := true, remote := some (List.replicate 8 (List.replicate 32 3#8, bad)) })] } }
def pReady : Pend := { left := 1, src := .ready, writes := [.g 3 1#64], pos := { pc := 0 }, va := 0 }
def pUnit : Pend := { left := 2, src := .unit, writes := [.g 5 9#64], pos := { pc := 0 }, va := 0 }
def sLoad : State := demo { th0 with pend := [pReady, pUnit] }

theorem witness_FillsAndReturns :
    (∀ d : Bool, let x := sFill.centry 0 d 5
      x.inflight = true ∧ x.awaits = false ∧ x.remote = none
      ∧ (∀ i, i < 8 → sFill.bad (localOf (x.la * 256) / 32 + i) x.tag = false) ∧ (sFill.core 0).misses d = []
      ∧ ∀ i, i < 16 → (sFill.thr i).pend = [] ∧ (sFill.thr i).excWait = none ∧ (sFill.thr i).far = [])
    ∧ (let s : State := { sFill with gran := kset {} [] 0x101 { p := true } }
      s.bad (localOf (0x20 * 256) / 32 + 1) 0 = true)
    ∧ (∀ b : Bool, let x := (sFillR b).centry 0 true 5
      x.inflight = true ∧ x.remote = some (List.replicate 8 (List.replicate 32 3#8, b)) ∧ ((sFillR b).core 0).misses true = []
      ∧ ∀ i, i < 16 → ((sFillR b).thr i).pend = [] ∧ ((sFillR b).thr i).excWait = none ∧ ((sFillR b).thr i).far = [])
    ∧ (let x := sFillL.centry 0 true 5
      x.inflight = true ∧ x.awaits = false ∧ x.remote = none ∧ (∀ i, i < 8 → sFillL.bad (localOf (x.la * 256) / 32 + i) x.tag = false)
      ∧ (sFillL.core 0).misses true = [] ∧ (sFillL.thr 0).pend = [pLine] ∧ (sFillL.thr 0).excWait = none ∧ (sFillL.thr 0).far = []
      ∧ (∀ i, i < 16 → i ≠ 0 → (sFillL.thr i).pend = [] ∧ (sFillL.thr i).excWait = none ∧ (sFillL.thr i).far = []) ∧ 0 + 2 ≤ 256)
    ∧ ((sFill.centry 0 true 6).inflight = false ∧ ∀ q ∈ (s0.thr 0).pend, s0.returning 0 q = false)
    ∧ ((sLoad.thr 0).pend = [pReady] ++ pUnit :: [] ∧ (∀ q ∈ [pReady], sLoad.returning 0 q = false) ∧ pUnit.src = .unit ∧ pUnit.left ≠ 0
      ∧ (∀ q ∈ [pReady] ++ [], Pend.due q = false) ∧ (sLoad.thr 0).excWait = none ∧ (sLoad.thr 0).sr.st.getLsbD 12 = false)
    ∧ (let p : Pend := { pUnit with src := .sem 5, left := 0 }
      let s : State := { demo { th0 with pend := [p] } with readReply := [(1, 5, 2#16), (0, 5, 3#16)] }
      (s.thr 0).pend = [] ++ p :: [] ∧ p.writes = [.g 5 9#64] ∧ p.left = 0 ∧ s.readReply = [(1, 5, 2#16)] ++ (0, 5, 3#16) :: []
        ∧ ∀ q ∈ [(1, 5, 2#16)], ¬ (q.1 = 0 ∧ q.2.1 = 5)) := by
  refine ⟨by decide +kernel, by decide +kernel, by decide +kernel, by decide +kernel, by decide +kernel, by decide +kernel, ?_⟩
  dsimp only; and_intros <;> decide +kernel

/-- R507: the fill brings the line, the waiting store is in it and the load that joined it takes its two bytes. -/
theorem test_fill_gives_load : after (execCacheFill 0 true 5 .clean sFillL) (fun s => ((s.centry 0 true 5).dirty, (s.thr 0).pend.map (fun p => (p.src, p.writes))))
    = some (true, [(.ready, [.g 5 0x900#64])]) := by decide +kernel
theorem test_poisoned_fill_is_dropped : after (execCacheFill 0 true 5 .clean (sFillR true)) (fun s => (s.centry 0 true 5).valid) = some false := by decide +kernel

/-- The pieces of a chunk are placed and `P` holds of where and of the state. -/
def placeOk (s : State) (t : Nat) (l : List Piece) (P : List Placed → State → Bool) : Bool :=
  match (s.fetch t).2.placeAll t l with
  | .ok (ps, s2) => P ps s2
  | _ => false
/-- `SoundAt` as a computation. -/
def sound (s : State) (p : Placed) (a : Nat) : Bool :=
  decide (s.way p.leaf p.pa = .memory) && s.isMem a && decide (localOf p.pa = a) && !s.anyBad a p.p.n (leafTag p.leaf)
theorem soundAt_of {s : State} {p : Placed} {a : Nat} (h : sound s p a = true) : SoundAt s p a := by
  simpa [sound, SoundAt, and_assoc] using h

theorem placed_one {s : State} {t : Nat} {l : List Piece} {a : Nat} (h : placeOk s t l (fun ps s2 => match ps with
    | [p] => sound s2 p a
    | _ => false) = true) : ∃ p s2, SoundAt s2 p a ∧ (s.fetch t).2.placeAll t l = .ok ([p], s2) := by
  unfold placeOk at h
  split at h
  · rename_i ps s2 hp
    dsimp only at h
    split at h
    · exact ⟨_, _, soundAt_of h, hp⟩
    · cases h
  · cases h

theorem placed_two {s : State} {t : Nat} {l : List Piece} {a b : Nat} (h : placeOk s t l (fun ps s2 => match ps with
    | [p, q] => sound s2 p a && sound s2 q b
    | _ => false) = true) : ∃ p q s2, SoundAt s2 p a ∧ SoundAt s2 q b ∧ (s.fetch t).2.placeAll t l = .ok ([p, q], s2) := by
  unfold placeOk at h
  split at h
  · rename_i ps s2 hp
    dsimp only at h
    split at h
    · rw [Bool.and_eq_true] at h
      exact ⟨_, _, _, soundAt_of h.1, soundAt_of h.2, hp⟩
    · cases h
  · cases h

/-- Body of format S: RDST, RSRC, RCNT, REP, ESZ. -/
def fS (rd ra rb rep esz : Nat) : BitVec 52 := BitVec.ofNat 52 (rd * 2 ^ 47 + ra * 2 ^ 42 + rb * 2 ^ 37 + rep * 2 ^ 36 + esz * 2 ^ 34)
/-- Sources at G3 (0x2000), destinations at G5 (0x20F8), ten elements (G6) and none (G7), an odd pointer in G4. -/
def sStr : State :=
  { mapped true { th0 with g := [(1, 5#64), (2, 7#64), (3, 0x2000#64), (4, 0x2003#64), (5, 0x20F8#64), (6, 10#64)] } with
    mem := [(0x2000, 1#8), (0x2002, 2#8), (0x20F8, 1#8), (0x20FA, 3#8), (0x20FC, 5#8)] }

theorem witness_StringInstructions :
    (Fires sStr 0 0 false ∧ Body.okS (fS 5 3 7 0 1) = true ∧ StringOk (sStr.thr 0) (fS 5 3 7 0 1) true ∧ (sStr.thr 0).rg (Body.rb (fS 5 3 7 0 1)) = 0
      ∧ ((sStr.thr 0).rg (Body.rd (fS 4 3 7 0 1))).toNat % 2 ≠ 0
      ∧ ((sStr.thr 0).rg (Body.rd (fS 5 4 7 0 1))).toNat % 2 = 0 ∧ ((sStr.thr 0).rg (Body.ra (fS 5 4 7 0 1))).toNat % 2 ≠ 0)
    ∧ (StringOk (sStr.thr 0) (fS 5 1 6 1 1) false ∧ ((sStr.thr 0).rg 6).toNat ≠ 0 ∧ chunkLen 10 0x20F8#64 2 = 4
      ∧ (∃ p s2, SoundAt s2 p 0x20F8 ∧ (sStr.fetch 0).2.placeAll 0 [⟨0x20F8#64, 4 * 2, true⟩] = .ok ([p], s2))
      ∧ (∃ p s2, SoundAt s2 p 0x20F8 ∧ (sStr.fetch 0).2.placeAll 0 [⟨0x20F8#64, 4 * 2, false⟩] = .ok ([p], s2))
      ∧ (elemAt sStr 0x20F8 2 2 = 5 ∧ ∀ i, i < 2 → elemAt sStr 0x20F8 2 i ≠ 5) ∧ (∀ i, i < 4 → elemAt sStr 0x20F8 2 i ≠ 7))
    ∧ (StringOk (sStr.thr 0) (fS 5 3 6 1 1) true ∧ (0x2000 % 256 + 4 * 2 ≤ 256)
      ∧ (∃ p q s2, SoundAt s2 p 0x2000 ∧ SoundAt s2 q 0x20F8
        ∧ (sStr.fetch 0).2.placeAll 0 [⟨0x2000#64, 4 * 2, false⟩, ⟨0x20F8#64, 4 * 2, true⟩] = .ok ([p, q], s2))
      ∧ (∃ p q s2, SoundAt s2 p 0x2000 ∧ SoundAt s2 q 0x20F8
        ∧ (sStr.fetch 0).2.placeAll 0 [⟨0x2000#64, 4 * 2, false⟩, ⟨0x20F8#64, 4 * 2, false⟩] = .ok ([p, q], s2))
      ∧ (elemAt sStr 0x20F8 2 1 ≠ elemAt sStr 0x2000 2 1 ∧ elemAt sStr 0x20F8 2 0 = elemAt sStr 0x2000 2 0)
      ∧ ∀ i, i < 1 → elemAt sStr 0x20F8 2 i = elemAt sStr 0x2000 2 i) :=
  ⟨by unfold Fires StringOk; decide +kernel,
    ⟨by unfold StringOk; decide +kernel, by decide +kernel, by decide +kernel, placed_one (by decide +kernel), placed_one (by decide +kernel), by decide +kernel, by decide +kernel⟩,
    ⟨by unfold StringOk; decide +kernel, by decide +kernel, placed_two (by decide +kernel), placed_two (by decide +kernel), by decide +kernel, by decide +kernel⟩⟩

/-! ### Steps, waits, semaphores, threads, timers and Bells -/

theorem witness_StepTakesFront : ({ State.reset with pending := [.brk 0 0 0] } : State).pending = .brk 0 0 0 :: [] := rfl
theorem witness_IdleTick : State.reset.pending = [] ∧ (∀ q ∈ s0.remotes, q.2.err = 0) ∧ (s0.arr 0 0).busy = none ∧ (s0.arr 0 1).busy = none ∧ s0.pending = [] ∧ dieOf 287 ∉ s0.clkOff ∧ dieOf 287 ∈ State.reset.clkOff := by decide +kernel
theorem witness_StepKeepsCanonical : ∃ s', State.Canonical sM ∧ step { sM with pending := [.semset 0 0 (BitVec.ofNat 52 (2 ^ 22))] } = .next s' :=
  ⟨_, by unfold State.Canonical; decide +kernel, rfl⟩

/-- Body of format W: IDX, VAL, RT, TIMM. -/
def fW (idx val rt timm : Nat) : BitVec 52 := BitVec.ofNat 52 (idx * 2 ^ 38 + val * 2 ^ 22 + rt * 2 ^ 17 + timm)
/-- Semaphore 5 at 3, and a WAIT of thread 0 for it. -/
def sSem (w : Option WaitRec) : State :=
  { demo { th0 with wait := w } with sem := [(5, 3#16)], takeReply := [(9, false), (0, true)] }

theorem witness_WaitInstruction :
    (Fires (sSem none) 0 0 false ∧ Body.rt (fW 5 0 0 7) = 0 ∧ Body.val (fW 5 0 0 7) = 0 ∧ Body.timm (fW 5 3 1 0) = 0
      ∧ (Body.val (fW 5 3 1 0) ≠ 0 ∧ Body.val (fW 5 3 1 0) ≤ ((sSem none).semCount (Body.sem (fW 5 3 1 0))).toNat)
      ∧ (((sSem none).semCount (Body.sem (fW 5 4 0 0))).toNat < Body.val (fW 5 4 0 0) ∧ waitLimit (fW 5 4 0 0) ((sSem none).thr 0) = some 0)
      ∧ (((sSem none).semCount (Body.sem (fW 5 4 0 0x1FFFF))).toNat < Body.val (fW 5 4 0 0x1FFFF)
        ∧ waitLimit (fW 5 4 0 0x1FFFF) ((sSem none).thr 0) ≠ some 0))
    ∧ (let w : WaitRec := { sem := 5, val := 3, limit := some 8, at_ := 0, sent := false, expired := false }
      let s := sSem (some w)
      (s.thr 0).wait = some w ∧ w.sent = false ∧ w.val ≤ (s.semCount w.sem).toNat ∧ s.gated 0 = false ∧ s.latchedFor 0 = false
        ∧ (s.thr 0).excWait = none ∧ s.haltsHere 0 = false ∧ (s.thr 0).st = .running)
    ∧ (let w : WaitRec := { sem := 5, val := 3, limit := some 8, at_ := 0, sent := true, expired := true }
      let s := sSem (some w)
      (s.thr 0).wait = some w ∧ w.sent = true ∧ (s.thr 0).excWait = none ∧ s.takeReply = [(9, false)] ++ (0, true) :: []
        ∧ (∀ p ∈ [(9, false)], p.1 ≠ 0) ∧ w.expired = true ∧ (s.thr 0).haltReq = false) := by
  unfold Fires; decide +kernel
/-- The limit of 8 cycles lies behind, and ahead (R39). -/
def wLate : WaitRec := { sem := 5, val := 3, limit := some 8, at_ := 0, sent := false, expired := false }
def sLate (n : Nat) : State := { sSem (some wLate) with clk := kset 0 [] 0 (BitVec.ofNat 64 n) }
theorem witness_late : Late (sLate 9) 0 wLate ∧ ¬ Late (sLate 8) 0 wLate ∧ (sLate 9).latchedFor 0 = false ∧ ((sLate 9).thr 0).excWait = none
    ∧ (sLate 9).haltsHere 0 = false := by
  refine ⟨⟨8, rfl, by decide +kernel⟩, ?_, by decide +kernel, by decide +kernel, by decide +kernel⟩
  rintro ⟨n, hn, h⟩
  cases hn
  revert h
  decide +kernel

/-- A failed take under HALT: the thread may stop there. -/
theorem witness_wait_halted :
    let w : WaitRec := { sem := 5, val := 3, limit := some 8, at_ := 0, sent := true, expired := true }
    let s : State := (sSem (some w)).setThr 0 { (sSem (some w)).thr 0 with haltReq := true }
    let back : Thread := { s.thr 0 with wait := some { w with sent := false } }
    back.haltReq = true ∧ (s.setThr 0 back).mayStop 0 = true ∧ ((sSem (some w)).thr 0).haltReq = false := by decide +kernel

/-- Requests at semaphores 5 and 6. -/
def sReq : State :=
  { sSem none with
    semQ := [{ sem := 6, who := 0x8000, ask := .signal 1 }, { sem := 5, who := 7, ask := .signal 0xFFFF }, { sem := 5, who := 0, ask := .take 2 }, { sem := 5, who := 2, ask := .read }] }

theorem witness_Semaphores :
    (Fires s0 0 0 false ∧ Body.timm (fW 5 3 0 0) = 0 ∧ Body.rt (fW 5 3 0 0) = 0 ∧ CleanCache s0 0 ∧ Body.val (fW 5 0 4 0) = 0 ∧ Body.timm (fW 5 0 4 0) = 0
      ∧ stPriv (s0.thr 0).sr.st ≠ 0)
    ∧ ((∀ r ∈ sReq.semQ, clearSignal 5 r) ∧ (∀ r ∈ sReq.semQ.filter (fun r => decide (r.sem = 5) && r.ask.isSignal), plainSender r) ∧ (∃ r ∈ sReq.semQ, r.sem = 5 ∧ r.ask.isSignal = true)
      ∧ 0xFFFF < (sReq.semCount 5).toNat + ((sReq.semQ.filter (fun r => decide (r.sem = 5) && r.ask.isSignal)).map (fun r => r.ask.value)).sum
      ∧ (∀ r ∈ sReq.semQ, clearSignal 6 r) ∧ (∃ r ∈ sReq.semQ, r.sem = 6 ∧ r.ask.isSignal = true)
      ∧ (sReq.semCount 6).toNat + ((sReq.semQ.filter (fun r => decide (r.sem = 6) && r.ask.isSignal)).map (fun r => r.ask.value)).sum ≤ 0xFFFF)
    ∧ (sReq.semQ = sReq.semQ.take 2 ++ { sem := 5, who := 0, ask := .take 2 } :: sReq.semQ.drop 3 ∧ (0 < 4608)
      ∧ ∀ q ∈ sReq.semQ.take 2, q.sem ≠ 5 ∨ q.ask.isTake = false)
    ∧ (sReq.semQ = sReq.semQ.take 3 ++ { sem := 5, who := 2, ask := .read } :: sReq.semQ.drop 4
      ∧ ∀ q ∈ sReq.semQ.take 3, q.sem ≠ 5 ∨ q.ask.isRead = false) := by
  unfold Fires CleanCache clearSignal plainSender; decide +kernel
theorem noHostWait_of {s : State} (h : s.host.queues = []) : NoHostWait s := by
  intro q e hr
  simp [State.hq, h, kget, HostQ.running] at hr
theorem witness_no_host_wait : NoHostWait s0 ∧ NoHostWait sReq := ⟨noHostWait_of rfl, noHostWait_of rfl⟩
/-- A store of the thread awaits its fill, so its SIG holds (R37). -/
theorem witness_SIG_holds : sFillL.storeWaits 0 = true ∧ s0.storeWaits 0 = false := by decide +kernel

/-- R113: signals saturate; R112: a take lowers the count. -/
theorem test_signals_saturate : after (execSemSignalApplied 5 4 sReq) (fun s => (s.semCount 5, s.semQ.length)) = some (0xFFFF#16, 3) := by decide +kernel
theorem test_take_lowers_count : after (execSemTakeApplied 5 1 sReq) (fun s => (s.semCount 5, s.takeReply)) = some (1#16, [(9, false), (0, true), (0, true)]) := by
  decide +kernel

/-- A pending arithmetic exception; a load under way; a tile move under way. -/
def sArith (st : Word) : State := demo { th0 with aflags := 1, atrap := 1, sr := { th0.sr with st := st } }
def sTile : State := s0.setCore 0 { s0.core 0 with moves := [{ tile := 1, kind := 0, thread := 0, port := none }] }

theorem witness_FenceAndTileSync :
    (Fires s0 0 0 false ∧ CleanCache s0 0 ∧ (∀ p ∈ (s0.thr 0).pend, p.src = .ready) ∧ s0.storeWaits 0 = false ∧ s0.remoteWrites 0 = []
      ∧ s0.tileWork 0 = false ∧ (s0.thr 0).retire.aflags &&& (s0.thr 0).retire.atrap = 0)
    ∧ (let s := sArith 0x200#64
      Fires s 0 0 false ∧ CleanCache s 0 ∧ (∀ p ∈ (s.thr 0).pend, p.src = .ready) ∧ s.storeWaits 0 = false ∧ s.remoteWrites 0 = [] ∧ s.tileWork 0 = false
      ∧ (s.thr 0).retire.aflags &&& (s.thr 0).retire.atrap ≠ 0 ∧ (s.thr 0).retire.sr.st.getLsbD 14 = false ∧ (s.thr 0).retire.sr.st.getLsbD 15 = false)
    ∧ (Fires (sArith 0x4200#64) 0 0 false ∧ ((sArith 0x4200#64).thr 0).retire.sr.st.getLsbD 14 = true)
    ∧ (Fires sLoad 0 0 false ∧ CleanCache sLoad 0 ∧ (∀ p ∈ (sLoad.thr 0).pend, p.src = .ready ∨ p.src = .unit))
    ∧ (let s := demo { th0 with pend := [{ pUnit with src := .load }] }
      Fires s 0 0 false ∧ CleanCache s 0 ∧ ∃ p ∈ (s.thr 0).pend, p.src ≠ .ready ∧ p.src ≠ .unit)
    ∧ (Fires sTile 0 0 false ∧ CleanCache sTile 0 ∧ sTile.tileWork 0 = true) := by
  unfold Fires CleanCache; dsimp only; and_intros <;> decide +kernel

theorem witness_ThreadControl :
    (RegOpen s0 ∧ s0.coreOn 0 = true ∧ s0.blockedPart (s0.core 0).part = false ∧ (s0.thr 0).st = .running ∧ (s0.thr 1).st = .unallotted ∧ (s0.thr 1).st ≠ .running
      ∧ (s0.thr 1).st ≠ .stopped)
    ∧ (let s := demo { th0 with st := .halted }
      RegOpen s ∧ s.coreOn 0 = true ∧ (s.thr 0).st = .halted ∧ s.blockedPart (s.core 0).part = false)
    ∧ (let s := demo { th0 with st := .stopped }
      RegOpen s ∧ s.coreOn 0 = true ∧ (s.thr 0).st = .stopped ∧ s.blockedPart (s.core 0).part = false)
    ∧ (let s := demo { th0 with haltReq := true }
      RegOpen s ∧ s.coreOn 0 = true ∧ (s.thr 0).haltReq = true ∧ (s.thr 0).st = .running ∧ s.mayStop 0 = true ∧ s.latchedFor 0 = false) := by
  unfold RegOpen; decide +kernel

theorem witness_blocked_partition :
    let s : State := { s0 with gear := { s0.gear with blocked := 1 } }
    RegOpen s ∧ s.coreOn 0 = true ∧ s.blockedPart (s.core 0).part = true := by unfold RegOpen; decide +kernel

/-- Timer 2 of core 0 runs; a contender of the core Bell at 0 and at 63. -/
def sTmr : State := s0.setCore 0 { s0.core 0 with timers := [(2, { count := 1, reload := 9, periodic := true, en := true })] }
theorem witness_TimersAndSoftwareBells : (sTmr.timer 0 2).en = true ∧ (sTmr.timer 0 2).count = 1 ∧ dieOf 0 ∉ sTmr.clkOff ∧ (sTmr.timer 0 2).reload ≠ 0 ∧ RegOpen sTmr ∧ sTmr.coreOn 0 = true
    ∧ (0x90002#64).getLsbD 0 = false ∧ (0x90001#64).getLsbD 0 = true ∧ (sTmr.timer 0 3).count = 0 := by unfold RegOpen; decide +kernel

def sBell (latched : Option (Nat × Nat)) (en : BitVec 64) : State :=
  let s := demo { th0 with sr := { th0.sr with st := 0xA00#64 } }
  s.setCore 0 { s.core 0 with bell := { en := en, pri := [(4, 3), (63, 3)], vec := [(4, 0x4000#64)], pend := 0x10#64, thresh := 2, inputs := [(15, 0x41)], latched := latched } }

theorem witness_CoreBell :
    (let s := sBell none 0x8000000000000010#64
      let b := (s.core 0).bell
      b.latched = none ∧ Contends b 4 ∧ Contends b 63
        ∧ (∀ m, m < 64 → Contends b m → kget 0 b.pri m < kget 0 b.pri 4 ∨ kget 0 b.pri m = kget 0 b.pri 4 ∧ 4 ≤ m) ∧ s.accepts 0 = true)
    ∧ ((sBell (some (4, 4)) 0).core 0).bell.latched ≠ none
    ∧ (∀ m, m < 64 → ¬ Contends ((sBell none 0).core 0).bell m)
    ∧ (let s := sBell (some (4, 4)) 0x10#64
      (s.core 0).bell.latched = some (4, 4) ∧ s.accepts 0 = true ∧ Contends (s.core 0).bell 4)
    ∧ (let s := sBell (some (63, 0x140)) 0x8000000000000000#64
      (s.core 0).bell.latched = some (63, 0x140) ∧ s.accepts 0 = true ∧ Contends (s.core 0).bell 63 ∧ hubLevel (0x140 - 0x100) = false)
    ∧ (let s := sBell (some (4, 4)) 0
      (s.core 0).bell.latched = some (4, 4) ∧ s.accepts 0 = true ∧ ¬ Contends (s.core 0).bell 4) := by
  unfold Contends; dsimp only; and_intros <;> decide +kernel

/-- Example of R137 and R138: the edge source enters at its vector and is no longer pending. -/
theorem test_interrupt_entry : after (execInterruptEntry 0 (sBell (some (4, 4)) 0x10#64)) (fun s => ((s.thr 0).pc, (s.thr 0).sr.xpc, (s.thr 0).sr.xcause, (s.core 0).bell.pend))
    = some (0x4000#64, 0x1000#64, 0x8000000000100004#64, 0#64) := by decide +kernel

/-- A hub source of core 0's input 3, with an acknowledgment under way, the host open to messages. -/
def srcA : HubSrc := { dtype := 1, tgt := 3, en := true, pend := true, pri := 5 }
def sHub : State :=
  { s0 with
    hub := { s0.hub with srcs := [(0x80, srcA)], acks := [(0x41, 0, 1), (0x80, 0, 3)] }
    host := { s0.host with bme := true, msix := true, msixOpen := [(3, true)] } }
theorem sHub_src (m : Nat) : sHub.hubSrc m = if m = 0x80 then srcA else {} := by
  by_cases h : m = 0x80
  · subst h; rfl
  · simp [sHub, State.hubSrc, kget, h]

/-- Function 7 drives EVT_OUT0; the reference clock runs, and is lost. -/
def sPins (r : Bool) : State := { s0 with ref25 := r, hub := { s0.hub with outMap := 0x4000#16 } }
theorem witness_event_pins : RegOpen (sPins true) ∧ (1#64 : Word).getLsbD 0 = true
    ∧ ((sPins true).hub.pinOf 7 = 1 ∨ (sPins true).hub.pinOf 7 = 2) ∧ s0.hub.pinOf 7 = 0 ∧ (sPins true).ref25 = true
    ∧ (sPins false).ref25 = false := by unfold RegOpen; decide +kernel

theorem witness_HubBellAndPins :
    RegOpen sHub ∧ (sHub.host.bme = true ∧ sHub.host.msix = true ∧ kget false sHub.host.msixOpen ((sHub.hubSrc 0x80).tgt % 2048) = true)
    ∧ (sHub.hub.acks = [(0x41, 0, 1)] ++ (0x80, 0, 3) :: [] ∧ ∀ q ∈ [(0x41, 0, 1)], q.1 ≠ 0x80)
    ∧ (kwf {} sHub.hub.srcs = true ∧ RoutedHere (sHub.hubSrc 0x80) 0 3
      ∧ (∀ m, RoutedHere (sHub.hubSrc m) 0 3 → (sHub.hubSrc m).pri < (sHub.hubSrc 0x80).pri ∨ (sHub.hubSrc m).pri = (sHub.hubSrc 0x80).pri ∧ 0x80 ≤ m)
      ∧ (∀ n, ¬ RoutedHere (sHub.hubSrc n) 0 4) ∧ ∀ a ∈ sHub.hub.acks, a.2 ≠ (0, 4)) := by
  refine ⟨by unfold RegOpen; decide +kernel, by decide +kernel, by decide +kernel, by decide +kernel, by unfold RoutedHere; decide +kernel, ?_, ?_, by decide +kernel⟩
  · intro m h
    by_cases hm : m = 0x80
    · subst hm; exact .inr ⟨rfl, Nat.le_refl _⟩
    · rw [sHub_src, if_neg hm] at h; exact absurd h.1 (by decide)
  · intro m h
    rw [sHub_src] at h
    split at h
    · exact absurd h.2.2.2.2.2 (by decide)
    · exact absurd h.1 (by decide)

/-! ### Vectors -/

/-- Body of form V-A: PSEL, VD, VA, VB, VC, ET, ZM, US, FN, RG. -/
def fV (psel vd va vb vc et zm us fn rg : Nat) : BitVec 52 :=
  BitVec.ofNat 52 (psel * 2 ^ 49 + vd * 2 ^ 44 + va * 2 ^ 39 + vb * 2 ^ 34 + vc * 2 ^ 29 + et * 2 ^ 26 + zm * 2 ^ 25 + us * 2 ^ 24 + fn * 2 ^ 16 + rg * 2 ^ 11)

/-- V1 holds 0x80 and 0x7F in its low bytes and is poisoned in granule 1, V2 holds 1 and 1; P1 is elements 0 and 63 of four bytes. -/
def thV : Thread :=
  { th0 with
    v := [(1, { data := 0x7F80#2048, poison := 2#8 }), (2, { data := 0x101#2048 })]
    p := [(1, { bits := 0xF00000000000000000000000000000000000000000000000000000000000000F#256 })]
    g := [(3, 0x2000#64), (4, 0x2003#64)] }
def sV : State := { mapped true thV with mem := [(0x2000, 0x11#8), (0x2001, 0x22#8)] }

theorem witness_VectorIntegers : Fires sV 0 0 false
    ∧ (laneLegal 0 (fV 1 3 1 2 0 0 1 0 1 0) ∧ Body.et (fV 1 3 1 2 0 0 1 0 1 0) ≤ 3) ∧ (laneLegal 3 (fV 0 3 1 2 1 3 0 1 0 0) ∧ Body.et (fV 0 3 1 2 1 3 0 1 0 0) ≤ 3)
    ∧ laneLegal 7 (fV 0 3 1 0 0 2 0 0 0 0) ∧ laneLegal 12 (fV 0 3 1 2 0 2 0 0 0 0)
    ∧ laneLegal 10 (fV 1 3 1 2 0 6 0 0 0 0) ∧ Body.et (fV 1 3 1 2 0 6 0 0 0 0) ≤ 6 := by unfold Fires laneLegal; and_intros <;> decide +kernel

/-- R156: VADD.U8 wraps, and with saturation stays at the bounds. -/
theorem test_vadd_wraps_and_saturates :
    after (execVadd 0 0 (fV 0 3 1 2 0 0 0 0 0 0) (demo { thV with v := [(1, { data := 0x7FFF#2048 }), (2, { data := 0x101#2048 })] })) (fun s => (s.thr 0).pend.map (·.writes))
      = some [[.v 3 { data := 0x8000#2048 }]]
    ∧ after (execVadd 0 0 (fV 0 3 1 2 0 0 0 0 1 0) (demo { thV with v := [(1, { data := 0x7FFF#2048 }), (2, { data := 0x101#2048 })] })) (fun s => (s.thr 0).pend.map (·.writes))
      = some [[.v 3 { data := 0x7F00#2048 }]] := by decide +kernel

theorem witness_VectorFloats : Fires sV 0 0 false
    ∧ (laneLegal 0 (fV 0 3 1 2 0 6 0 0 0 0) ∧ 4 ≤ Body.et (fV 0 3 1 2 0 6 0 0 0 0) ∧ Body.et (fV 0 3 1 2 0 6 0 0 0 0) ≤ 6
      ∧ Body.us (fV 0 3 1 2 0 6 0 0 0 0) = false ∧ ¬ (8 ≤ 0 ∧ 0 ≤ 12))
    ∧ (laneLegal 15 (fV 1 3 1 0 0 4 1 0 0 0) ∧ 4 ≤ Body.et (fV 1 3 1 0 0 4 1 0 0 0) ∧ Body.us (fV 1 3 1 0 0 4 1 0 0 0) = false ∧ ¬ (8 ≤ 15 ∧ 15 ≤ 12)) := by
  unfold Fires laneLegal; and_intros <;> decide +kernel

/-- 1.0 + 2.0 = 3.0 in FP32, from the format's encoding. -/
theorem test_vadd_fp32 : after (execVadd 0 0 (fV 1 3 1 2 0 6 1 0 0 0)
      (demo { thV with v := [(1, { data := 0x3F800000#2048 }), (2, { data := 0x40000000#2048 })] })) (fun s => (s.thr 0).pend.map (fun p => (p.writes, p.flags)))
    = some [([.v 3 { data := 0x40400000#2048 }], 0#7)] := by decide +kernel

theorem witness_RoundingIsNearest : (fp16 ∈ [fp16, bf16, fp32] ∧ (0 : Int) ≤ -3 + (40 : Nat) ∧ 0 ≤ 1 - fp16.bias - fp16.mb + (40 : Nat)
      ∧ (fp16.round .rne (.fin true 0x1005 (-3))).1 % fp16.sign < fp16.infCode ∧ 0x3C00 < fp16.infCode)
    ∧ (fp32 ∈ [fp16, bf16, fp32] ∧ (0 : Int) ≤ 127 + (200 : Nat) ∧ 0 ≤ 1 - fp32.bias - fp32.mb + (200 : Nat)
      ∧ (fp32.round .rne (.fin false 1 127)).1 % fp32.sign < fp32.infCode) := by decide +kernel

theorem witness_VectorMoves :
    (Fires sV 0 0 false ∧ typeOk (fV 1 3 1 2 0 2 0 0 6 0) ∧ vaFields (fV 1 3 1 2 0 2 0 0 6 0) true true true false true false
      ∧ Body.vd (fV 1 3 1 2 0 2 0 0 6 0) < 8 ∧ Body.fn (fV 1 3 1 2 0 2 0 0 6 0) < 7
      ∧ vaFields (fV 1 3 1 2 0 6 0 0 0 0) true true true false false false ∧ Body.zm (fV 1 3 1 2 0 6 0 0 0 0) = false
      ∧ vaFields (fV 1 3 0 0 0 2 1 0 0 4) true false false false false true ∧ vaFields (fV 1 3 1 2 2 2 0 0 63 0) true true true true true false
      ∧ vaFields (fV 1 3 1 2 0 2 0 0 255 0) true true true false true false ∧ typeOk (fV 1 3 1 2 2 2 0 0 63 0))
    ∧ (Body.psel (fV 0 0 1 0 0 0 0 0 0 4) = 0 ∧ Body.zm (fV 0 0 1 0 0 0 0 0 0 4) = false ∧ typeOk (fV 0 0 1 0 0 0 0 0 255 4)
      ∧ Body.fn (fV 0 0 1 0 0 0 0 0 255 4) < 256 / typeWidth 0
      ∧ vaFields (fV 0 0 1 0 0 0 0 0 255 4) false true false false true true ∧ ((sV.thr 0).rv 1).poison.getLsbD (255 * 1 / 32) = false
      ∧ ((sV.thr 0).rv 1).poison.getLsbD (Body.fn (fV 0 0 1 0 0 0 0 0 32 4) * 1 / 32) = true
      ∧ vaFields (fV 0 3 0 0 0 0 0 0 255 4) true false false false true true)
    ∧ (Body.et (fV 0 7 1 2 0 0 0 0 0 0) = 0 ∧ Body.us (fV 0 7 1 2 0 0 0 0 0 0) = false ∧ Body.va (fV 0 7 7 7 0 0 0 0 0 0) < 8
      ∧ vaFields (fV 0 7 7 7 0 0 0 0 0 0) true true true false false false ∧ Body.vd (fV 0 7 7 7 0 0 0 0 0 0) < 8 ∧ Body.vb (fV 0 7 7 7 0 0 0 0 0 0) < 8
      ∧ vaFields (fV 0 0 1 0 0 0 0 0 0 4) false true false false false true) := by
  unfold Fires typeOk vaFields; and_intros <;> decide +kernel

theorem witness_VectorReductionsAndConversions :
    (Fires sV 0 0 false ∧ (typeOk (fV 1 3 1 0 0 2 0 1 0 0) ∧ Body.zm (fV 1 3 1 0 0 2 0 1 0 0) = false
        ∧ vaFields (fV 1 3 1 0 0 2 0 1 0 0) true true false false false false ∧ Body.et (fV 1 3 1 0 0 2 0 1 0 0) ≤ 3)
      ∧ (typeOk (fV 1 3 1 0 0 5 0 0 0 0) ∧ Body.zm (fV 1 3 1 0 0 5 0 0 0 0) = false
        ∧ vaFields (fV 1 3 1 0 0 5 0 0 0 0) true true false false false false ∧ 4 ≤ Body.et (fV 1 3 1 0 0 5 0 0 0 0)))
    ∧ ((let f := fV 1 3 1 0 0 2 0 0 (6 * 16 + 2) 4
        typeOk f ∧ vaFields f true true false false true true ∧ Body.fn f / 16 ≤ 6 ∧ Body.fn f / 4 % 4 = 0 ∧ Body.fn f % 4 = 2
          ∧ typeWidth (Body.et f) = typeWidth (Body.fn f / 16))
      ∧ (let f := fV 0 28 1 0 0 0 0 0 (6 * 16 + 1) 0
        typeOk f ∧ vaFields f true true false false true true ∧ Body.fn f / 16 ≤ 6 ∧ Body.fn f / 4 % 4 = 0 ∧ Body.fn f % 4 ≠ 3 ∧ Body.rg f = 0
          ∧ Body.psel f = 0 ∧ typeWidth (Body.et f) ≠ typeWidth (Body.fn f / 16) ∧ spanOk (Body.va f) (max 1 (1 / 4)) ∧ spanOk (Body.vd f) (max 1 (4 / 1))))
    ∧ ((let f := fV 0 3 4 5 0 6 0 0 (5 * 32) 0
        Body.psel f = 0 ∧ Body.zm f = false ∧ Body.us f = false ∧ vaFields f true true true false true true ∧ Body.et f = 6 ∧ Body.fn f / 32 ≤ 5
          ∧ Body.fn f / 4 % 8 = 0 ∧ Body.fn f % 4 ≠ 3 ∧ Body.rg f = 0 ∧ spanOk (Body.va f) (groupSpan 6))
      ∧ (let f := fV 0 28 1 0 0 6 0 0 0 3
        Body.psel f = 0 ∧ Body.zm f = false ∧ Body.us f = false ∧ vaFields f true true false false true true ∧ Body.et f = 6 ∧ Body.fn f / 32 ≤ 5
          ∧ Body.fn f % 32 = 0 ∧ spanOk (Body.vd f) (groupSpan 6))
      ∧ (let f := fV 0 0 31 0 0 0 0 0 0 3
        Body.psel f = 0 ∧ Body.zm f = false ∧ Body.us f = false ∧ vaFields f false true false false false true ∧ Body.et f = 0 ∧ spanOk (Body.va f) (groupSpan 0))) := by
  unfold Fires typeOk vaFields spanOk; dsimp only; and_intros <;> decide +kernel

/-! ### Vector memory -/

/-- Body of form V-M: PSEL, VD, RG, VB, ET, ZM, IX, OFF. -/
def fX (psel vd rg vb et zm ix off : Nat) : BitVec 52 :=
  BitVec.ofNat 52 (psel * 2 ^ 49 + vd * 2 ^ 44 + rg * 2 ^ 39 + vb * 2 ^ 34 + et * 2 ^ 26 + zm * 2 ^ 25 + ix * 2 ^ 24 + off)

/-- The accesses pass the checks and reach sound memory. -/
def checkOk (s : State) (w : Nat) (store : Bool) (l : List VAcc) : Bool :=
  match (s.fetch 0).2.vcheck 0 w store l with
  | .ok (q, s2) => q.all (fun r => s2.isLocal (r.pa / 32 * 32) && s2.isMem (localOf (r.pa / 32 * 32)) && !s2.bad (localOf (r.pa / 32 * 32) / 32) (leafTag r.leaf))
  | _ => false
theorem checked_of {s : State} {w : Nat} {store : Bool} {l : List VAcc} (h : checkOk s w store l = true) :
    ∃ q s2, (s.fetch 0).2.vcheck 0 w store l = .ok (q, s2) ∧ ∀ x ∈ q, VSound s2 x := by
  unfold checkOk at h
  split at h
  · refine ⟨_, _, ‹_›, fun x hx => ?_⟩
    have := List.all_eq_true.1 h x hx
    simpa [VSound, and_assoc] using this
  · cases h

theorem witness_VectorMemory :
    (Fires sV 0 0 false ∧ Body.resVM (fX 1 28 3 0 2 0 0 8) = 0 ∧ Body.et (fX 1 28 3 0 2 0 0 8) ≠ 7 ∧ Body.vb (fX 1 28 3 0 2 0 0 8) = 0
      ∧ Body.ix (fX 1 28 3 0 2 0 0 8) = false ∧ Body.vd (fX 1 28 3 0 2 0 0 8) + 4 ≤ 32 ∧ Body.zm (fX 1 28 3 0 2 0 0 8) = false)
    ∧ (∀ store : Bool, (∃ q s2, (sV.fetch 0).2.vcheck 0 4 store (linAccs (fX 1 28 3 0 2 0 0 8) thV 4 4) = .ok (q, s2) ∧ ∀ x ∈ q, VSound s2 x)
      ∧ (∃ q s2, (sV.fetch 0).2.vcheck 0 4 store (linAccs (fX 1 31 3 0 2 0 0 0) thV 1 4) = .ok (q, s2) ∧ ∀ x ∈ q, VSound s2 x)
      ∧ (∃ q s2, (sV.fetch 0).2.vcheck 0 4 store (idxAccs (fX 1 31 3 2 2 0 0 0) thV 4) = .ok (q, s2) ∧ ∀ x ∈ q, VSound s2 x)
      ∧ ∃ q s2, (sV.fetch 0).2.vcheck 0 1 store (predAccs (fX 0 7 3 0 0 0 0 0) thV) = .ok (q, s2) ∧ ∀ x ∈ q, VSound s2 x)
    ∧ ((vmBase (fX 1 28 4 0 2 0 0 8) thV).toNat % 4 ≠ 0 ∧ activeAt (thV.rp (Body.psel (fX 1 28 4 0 2 0 0 8))) 4 0)
    ∧ (spanOk (Body.vb (fX 1 31 3 2 2 0 0 0)) (max 1 (256 / 4 * 4 / 256)) ∧ IndexSound (fX 1 31 3 2 2 0 0 0) thV 4)
    ∧ (Body.vb (fX 0 7 3 0 0 0 0 0) = 0 ∧ Body.zm (fX 0 7 3 0 0 0 0 0) = false ∧ Body.ix (fX 0 7 3 0 0 0 0 0) = false ∧ Body.et (fX 0 7 3 0 0 0 0 0) = 0
      ∧ Body.psel (fX 0 7 3 0 0 0 0 0) = 0 ∧ Body.vd (fX 0 7 3 0 0 0 0 0) < 8 ∧ Body.resVM (fX 0 7 3 0 0 0 0 0) = 0) :=
  ⟨by unfold Fires; decide +kernel, fun store => by
      refine ⟨checked_of ?_, checked_of ?_, checked_of ?_, checked_of ?_⟩ <;> cases store <;> decide +kernel,
    by unfold activeAt; decide +kernel, by unfold spanOk IndexSound activeAt; decide +kernel, by decide +kernel⟩

/-! ### Tiles, arrays, saves -/

/-- Near store of core 0 at G10, an owner and attribute word in G11 and its like for thread 31 in G12, row mask in P1. -/
def thT : Thread :=
  { th0 with
    g := [(1, 1#64), (3, 0x2000#64), (10, 0x20000000#64), (11, 0x00080000#64), (12, 0x1F#64)]
    p := [(1, { bits := 2#256 })], v := [(3, { data := 5#2048, poison := 1#8 })] }
/-- Tiles 1 (EMPTY) and 2 (READY) of thread 0, formats without numbers; 4 and 5 BF16, 6 FP32, READY; 7 of thread 1, EMPTY. -/
def tilesT : KMap Tile :=
  [(1, { attr := 0xF0000#64 }), (2, { attr := 0xF0400#64, rows := [(0, { data := 7#1024 })] }), (4, { attr := 0x60400#64 }), (5, { attr := 0x60400#64 }),
    (6, { attr := 0x80400#64 }), (7, { attr := 0xF0001#64 })]
def sT (th : Thread) (g : Core → Core) : State :=
  let s := { mapped true th with threads := [(0, th), (1, { st := .halted })] }
  s.setCore 0 (g { s.core 0 with tiles := tilesT, accs := [(0, { owner := 1 }), (1, { owner := 0 })], gate := true, bankWake := 2 })
def sTi : State := sT thT id
def sTm : State := sT { thT with strBusy := true, sr := { thT.sr with tsr := 4 } } (fun k => { k with
  moves := [{ tile := 3, thread := 2, port := some 1, kind := 0, open_ := true }, { tile := 1, thread := 0, port := some 0, kind := 0, open_ := true }] })

/-- The address is the core's own near store. -/
def nearOk (s : State) (k : Access) (va : Word) : Bool :=
  match (s.fetch 0).2.ownNear 0 k va with
  | (.ok _, _) => true
  | _ => false
theorem near_of {s : State} {k : Access} {va : Word} (h : nearOk s k va = true) : ∃ a leaf s2, (s.fetch 0).2.ownNear 0 k va = (.ok (a, leaf), s2) := by
  unfold nearOk at h
  split at h
  · exact ⟨_, _, _, ‹_›⟩
  · cases h

def mvDone : Move := { tile := 1, thread := 0, port := none, kind := 0, rows := [(0, { data := 3#1024 }), (31, { data := 4#1024 })] }
def mvOpen : Move := { tile := 1, thread := 2, port := some 1, kind := 0, open_ := true }

theorem witness_TileMovesAndCompletions :
    ((
      (let f := fX 0 1 10 0 0 0 0 0 + BitVec.ofNat 52 (5 * 2 ^ 29);
        Fires sTi 0 0 false ∧ Body.resTM f = 0 ∧ stepRows f thT (Body.activeRows f thT thT.sr.tsr.toNat) = 0 :: [1, 2, 3] ∧ MoveReady sTi 0 f true
          ∧ Body.activeRows f thT 4 ≠ [] ∧ ∃ a leaf s2, (sTi.fetch 0).2.ownNear 0 .read (Body.rowAddr f thT 0) = (.ok (a, leaf), s2))
      ∧ (let f := fX 0 2 10 0 0 0 0 0 + BitVec.ofNat 52 (3 * 2 ^ 29)
        Body.resTM f = 0 ∧ stepRows f thT (Body.activeRows f thT thT.sr.tsr.toNat) = 0 :: [1, 2, 3] ∧ MoveReady sTi 0 f false
          ∧ Body.activeRows f thT 4 = [] ∧ 0 < Body.stride f thT ∧ Body.stride f thT % 128 = 0
          ∧ ∃ a leaf s2, (sTi.fetch 0).2.ownNear 0 .write (Body.rowAddr f thT 0) = (.ok (a, leaf), s2))
      ∧ (let f := fX 0 1 10 0 0 0 0 0 + BitVec.ofNat 52 (5 * 2 ^ 29)
        let th := sTm.thr 0
        Fires sTm 0 0 false ∧ stepRows f th (Body.activeRows f th th.sr.tsr.toNat) = 4 :: [5] ∧ MoveReady sTm 0 f true
          ∧ ∃ a leaf s2, (sTm.fetch 0).2.ownNear 0 .read (Body.rowAddr f th 4) = (.ok (a, leaf), s2))
      ∧ (let f := fX 1 3 10 0 0 0 0 0
        (sTi.thr 0).strBusy = false ∧ Body.resTM f = 0 ∧ sTi.owns 0 (Body.tt f) = false ∧ sTi.movePort 0 ≠ none ∧ thT.sr.tsr.toNat ≤ Body.nr f
          ∧ (Body.rowBase f thT).toNat % 128 = 0 ∧ Body.stride f thT % 128 = 0 ∧ stepRows f thT (Body.activeRows f thT thT.sr.tsr.toNat) = []))
    ∧
      (let s := sT thT (fun k => { k with moves := [mvOpen, mvDone] });
        (s.core 0).moves = [mvOpen] ++ mvDone :: [] ∧ mvDone ∉ [mvOpen] ++ ([] : List Move) ∧ mvDone.tile = 1 ∧ mvDone.open_ = false
          ∧ (∀ x ∈ [mvOpen], x.tile ≠ 1 ∨ x.open_ = true) ∧ mvDone.rows.Pairwise (fun x y => x.1 ≠ y.1))
      ∧ (let k := sTi.core 0
        k.gate = true ∧ k.bankOn.getLsbD 3 = true ∧ BankIdle sTi 0 3 ∧ ¬ BankIdle sTi 0 0 ∧ k.bankWake.getLsbD 1 = true)) := by
  constructor
  · unfold Fires MoveReady; dsimp only
    refine ⟨⟨?_, ?_, ?_, ?_, ?_, near_of ?_⟩, ⟨?_, ?_, ?_, ?_, ?_, ?_, near_of ?_⟩, ⟨?_, ?_, ?_, near_of ?_⟩, ?_⟩ <;> decide +kernel
  · unfold BankIdle; dsimp only; and_intros <;> decide +kernel

/-- Body with a tile number at [48:44], G[RG] at [43:39], and AC at bit 36. -/
def fT (j rg ac : Nat) : BitVec 52 := BitVec.ofNat 52 (j * 2 ^ 44 + rg * 2 ^ 39 + ac * 2 ^ 36)
def fTc (j rg ac k : Nat) : BitVec 52 := fT j rg ac + BitVec.ofNat 52 (k * 2 ^ 37)
def sTu : State := sT { thT with sr := { thT.sr with st := 0 } } id

theorem witness_TileRowsAndConfiguration :
    (Fires sTi 0 0 false ∧ Body.psel (fT 1 0 0) = 0 ∧ fld (fT 1 0 0) 43 0 = 0 ∧ sTi.owns 0 1 = true ∧ sTi.settled 0 1 = true ∧ sTi.bankOn 0 1 = true
      ∧ sTi.owns 0 31 = false ∧ fld (fT 31 0 0) 43 0 = 0)
    ∧ (let f := fV 0 3 2 0 0 0 0 0 30 0
      Body.psel f = 0 ∧ Body.fn f < 32 ∧ Body.fn f % 2 = 0 ∧ Body.et f = 0 ∧ Body.zm f = false ∧ Body.us f = false ∧ Body.rg f = 0 ∧ Body.vb f = 0
        ∧ Body.resA f = 0 ∧ Body.vc f = 0 ∧ sTi.owns 0 (Body.va f) = true ∧ sTi.tileSt 0 (Body.va f) = 2)
    ∧ (let f := fV 0 3 0 0 2 0 0 0 0 0
      Body.va f = 0 ∧ sTi.owns 0 (Body.vc f) = true ∧ sTi.tileSt 0 (Body.vc f) = 2 ∧ Body.resA f = 0)
    ∧ (Body.fldT (fT 2 11 0) = 0 ∧ Body.fldT (fTc 2 11 0 1) = 1 ∧ Body.fldT (fTc 2 11 0 2) = 2 ∧ Body.fldT (fTc 2 11 0 3) = 3 ∧ Body.fldT (fTc 1 12 1 2) = 2)
    ∧ (∀ k : Fin 4, let f := fTc 2 11 0 k.val
      let g := thT.rg (Body.rgT f)
      Body.psel f = 0 ∧ fld f 35 0 = 0 ∧ stPriv thT.sr.st ≠ 0 ∧ Body.ac f = false ∧ sTi.bankOn 0 (Body.tt f) = true ∧ attrFits g
        ∧ sTi.settled 0 (Body.tt f) = true ∧ atOwner g < 16 ∧ sTi.alien 0 (atOwner g) = false
        ∧ sTi.alien 0 (atOwner (sTi.tile 0 (Body.tt f)).attr) = false)
    ∧ (let f := fTc 1 12 1 2
      let g := thT.rg (Body.rgT f)
      Body.psel f = 0 ∧ fld f 35 0 = 0 ∧ Body.ac f = true ∧ Body.tt f < 4 ∧ atOwner g = 31 ∧ sTi.alien 0 (atOwner g) = false
        ∧ sTi.alien 0 ((sTi.acc 0 (Body.tt f)).owner) = false ∧ sTi.accBusy 0 (Body.tt f) = false)
    ∧ (Fires sTu 0 0 false ∧ stPriv (sTu.thr 0).sr.st = 0 ∧ atOwner (sTu.tile 0 2).attr = 0 % 16 ∧ attrFits ((sTu.thr 0).rg 11)) := by
  unfold Fires attrFits; dsimp only; and_intros <;> decide +kernel

/-- R181: TCFG reads the attribute word of tile 2. -/
theorem test_tcfg_reads_attribute : after (execTcfgRead 0 0 (fT 2 5 0) sTi) (fun s => (s.thr 0).pend.map (·.writes)) = some [[.g 5 0xF0400#64]] := by decide +kernel

/-- Body of an array operation: PSEL, TA, TB, ACC, MODE, CLR. -/
def fA (psel ta tb acc mode clr : Nat) : BitVec 52 :=
  BitVec.ofNat 52 (psel * 2 ^ 49 + ta * 2 ^ 44 + tb * 2 ^ 39 + acc * 2 ^ 37 + mode * 2 ^ 34 + clr * 2 ^ 33)
/-- An operation on the tiles of `sTi`. -/
def opA (kind : ArrKind) (ta tb : Nat) : ArrOp :=
  { kind := kind, ta := ta, tb := tb, acc := 1, attrA := (sTi.tile 0 ta).attr, attrA1 := 0, attrB := (sTi.tile 0 tb).attr, rows := 3#32, thread := 0, pc := 0 }
def sArr (o : ArrOp) : State := sT thT (fun k => { k with arrays := [(0, { waiting := some o })] })

theorem witness_ArrayOperations :
    (let f := fA 1 4 5 1 0 1;
      let at_ (j : Nat) : Word := (sTi.tile 0 j).attr
      Fires sTi 0 0 false ∧ fld f 32 0 = 0 ∧ (sTi.arr 0 0).waiting = none ∧ tmmaBad at_ 0 4 5 = false ∧ (sTi.acc 0 1).owner = 0 % 16
        ∧ (∀ j ∈ tmmaTiles 0 4 5 ++ tmmaSides at_ 0 4 5, sTi.owns 0 j = true) ∧ pairG 0 (atFmt (at_ 1)) (atFmt (at_ 2)) = 0
        ∧ (sTi.acc 0 2).owner ≠ 0 % 16 ∧ atFmt (at_ 6) = 8 ∧ atFmt (at_ 5) ≠ 8)
    ∧ (let f := fA 0 2 0 1 0 0
      Body.psel f = 0 ∧ fld f 43 39 = 0 ∧ fld f 36 34 = 0 ∧ f.getLsbD 33 = false ∧ fld f 32 0 = 0 ∧ (sTi.acc 0 (fld f 38 37)).owner = 0 % 16
        ∧ sTi.owns 0 (Body.tt f) = true ∧ sTi.bankOn 0 (Body.tt f) = true ∧ sTi.owns 0 (Body.tt (fA 0 9 0 1 0 0)) = false)
    ∧ (∀ o ∈ [opA .tldacc 2 0, opA .tdrain 1 0, opA (.tew 2) 6 0, opA (.tmma 0 true) 4 5],
        ((sArr o).arr 0 0).busy = none ∧ ((sArr o).arr 0 0).waiting = some o ∧ (sArr o).arrReady 0 0 o = true ∧ ((sArr o).core 0).latch = false)
    ∧ DenseTmma (opA (.tmma 0 true) 4 5) 0 true
    ∧ (∀ o ∈ [opA .tdrain 1 0, { opA .tldacc 2 0 with nv := true, holds := [2] }],
        let s := sT thT (fun k => { k with arrays := [(0, { busy := some o })] })
        let s1 := sT thT (fun k => { k with arrays := [(0, { tail := [o, opA .tdrain 2 0] })] })
        (s.arr 0 0).busy = some o ∧ (s.arr 0 0).tail = [] ∧ o.dur ≤ (s.count (dieOf 0) - o.begun).toNat
          ∧ (s1.arr 0 0).tail = o :: [opA .tdrain 2 0])
    ∧ (let f := fA 1 6 0 1 2 0
      fld f 43 39 = 0 ∧ f.getLsbD 33 = false ∧ fld f 36 34 = 2 ∧ fld f 32 0 = 0 ∧ (sTi.arr 0 0).waiting = none
        ∧ atFmt (sTi.tile 0 (Body.tt f)).attr = 8 ∧ (sTi.acc 0 (fld f 38 37)).owner = 0 % 16 ∧ sTi.owns 0 (Body.tt f) = true) := by
  unfold Fires DenseTmma; dsimp only; and_intros <;> decide +kernel

/-- The tiles of an operation are READY; one of them is not, and TDRAIN's bank is on. -/
theorem witness_array_operation_fires :
    sTi.arrReady 0 0 (opOf sTi 0 (fA 1 4 5 1 0 1) (.tmma 0 true)) = true
    ∧ sTi.arrReady 0 0 (opOf sTi 0 (fA 0 2 0 1 0 0) .tldacc) = true ∧ sTi.arrReady 0 0 (opOf sTi 0 (fA 0 1 0 1 0 0) .tldacc) = false
    ∧ sTi.arrReady 0 0 (opOf sTi 0 (fA 0 2 0 1 0 0) .tdrain) = true
    ∧ sTi.arrReady 0 0 (opOf sTi 0 (fA 1 6 0 1 2 0) (.tew 2)) = true := by decide +kernel

/-- The lines of a save area translate. -/
def areaOk (s : State) (k : Access) (va : Word) (n : Nat) (P : List (Nat × Word) → State → Bool) : Bool :=
  match areaLines (s.areaXlat 0 k va n).1 with
  | .ok lines => P lines (s.areaXlat 0 k va n).2
  | _ => false
theorem area_of {s : State} {k : Access} {va : Word} {n : Nat} {P : List (Nat × Word) → State → Bool} (h : areaOk s k va n P = true) :
    ∃ l s2 lines, s.areaXlat 0 k va n = (l, s2) ∧ areaLines l = .ok lines ∧ P lines s2 = true := by
  unfold areaOk at h
  split at h
  · exact ⟨_, _, _, rfl, ‹_›, h⟩
  · cases h

/-- Save area at VA 0x20000000, near-store offset 0: format 1, tile 7 and accumulator 0 named. -/
def sSave : State := { sTi with mem := [(0x20000000000, 1#8), (0x20000000008, 0x80#8), (0x2000000000C, 1#8)] }
def soundLines (s : State) (lines : List (Nat × Word)) : Bool :=
  lines.all (fun x => decide (x.1 % 256 = 0) && (List.range 8).all (fun i => !s.bad (x.1 / 32 + i) (leafTag x.2)))

theorem witness_SaveAndRestore :
    (Fires sSave 0 0 false ∧ SaveAllowed sSave 0 (fR 0 1 10 0) 1 ∧ savedTileList sSave 1 = [] ∧ savedAccList sSave 1 = [0]
      ∧ (∀ j, j < 32 → atOwner (sSave.tile 0 j).attr = 1 % 16 → sSave.settled 0 j = true) ∧ (∀ a ∈ savedAccList sSave 1, sSave.accBusy 0 a = false)
      ∧ ∃ l s2 lines, (sSave.fetch 0).2.areaXlat 0 .write 0x20000000#64 52 = (l, s2) ∧ areaLines l = .ok lines
        ∧ (decide (lines.Pairwise (fun x y => x.1 + 256 ≤ y.1 ∨ y.1 + 256 ≤ x.1)) && decide (lines.length = 52)) = true)
    ∧ (∃ l0 s2 base, (sSave.fetch 0).2.areaXlat 0 .read 0x20000000#64 36 = (l0, s2) ∧ areaLines l0 = .ok base
      ∧ (decide (numAt sSave (areaAt base 8) 8 = 0x100000080) && decide (numAt sSave (areaAt base 0) 2 = 1) && soundLines s2 base
        && areaOk s2 .read 0x20000000#64 68 (fun lines s3 => soundLines s2 lines && soundLines s3 (base ++ lines))) = true)
    ∧ (sSave.bankOn 0 7 = true ∧ sSave.tileSt 0 7 = 0 ∧ (sSave.acc 0 0).owner = 1 % 16 ∧ sSave.accBusy 0 0 = false) := by
  unfold Fires SaveAllowed; dsimp only
  refine ⟨⟨?_, ?_, ?_, ?_, ?_, ?_, area_of (P := fun lines _ => decide (lines.Pairwise (fun x y => x.1 + 256 ≤ y.1 ∨ y.1 + 256 ≤ x.1)) && decide (lines.length = 52)) ?_⟩, area_of (P := fun base s2 =>
    decide (numAt sSave (areaAt base 8) 8 = 0x100000080) && decide (numAt sSave (areaAt base 0) 2 = 1) && soundLines s2 base
        && areaOk s2 .read 0x20000000#64 68 (fun lines s3 => soundLines s2 lines && soundLines s3 (base ++ lines))) ?_, ?_⟩ <;> decide +kernel

/-! ### Stream Engines -/

/-- A COPY descriptor of four bytes from VA 0x4000 to VA 0x6000, three elements, class CAD, for the context's 256 bytes; `op` its OP. -/
def descWords (op : Nat) : List Word :=
  [BitVec.ofNat 64 (op * 2 ^ 59 + 2 * 2 ^ 56), 0x4000#64, 0x6000#64, 0, 0x100000003#64, 0x100000001#64, 1#64, 4#64, 0, 0, 0, 0, 4#64, 0, 0, 0, 0,
    0, 0, 0, 0x3300#64, 0, 0, 0, 0, 0, 0, 0, 0, 0, 0, 0]
def run0 : DescRun := { addr := 0x3000, words := descWords 0 }
/-- Context 0 with the page of VA 0 mapped to local memory past the caches. -/
def sEng (k : Ctx) : State :=
  let s := mapped true th0
  let s := { s with ctxs := [(0, k)], sem := [(7, 1#16)] }
  (s.setEngine 0 { s.engine 0 with xlat := [{ part := 0, level := 2, vpn := 0, leaf := 0x7D#64 }] }).poke 0x3000 (wordBytes (descWords 0))
def kIdle : Ctx := { st := .idle, head := 0x3000#64 }
def kOn : Ctx := { st := .active, head := 0x3000#64, next := 0x3000#64 }
def sOp (op : Nat) : State := (sEng kOn).poke 0x3000 (wordBytes (descWords op))

/-- A run that waits for IN_FULL credit of semaphore 7, and one for OUT_EMPTY credit of semaphore 8. -/
def runIn : DescRun := { run0 with words := (descWords 0).set 3 (BitVec.ofNat 64 (2 ^ 57 + 7 * 2 ^ 28)) }
def runOut : DescRun := { run0 with words := (descWords 0).set 3 (BitVec.ofNat 64 (2 ^ 56 + 8 * 2 ^ 14)) }

/-- What a descriptor fetch gives. -/
def fetchOk (s : State) (P : List Byte → Bool → Nat → Bool) : Bool :=
  match s.fetchVa 0 (s.ctx 0).next.toNat 256 descFetch with
  | .got bs p c _ => P bs p c
  | _ => false
theorem fetch_of {s : State} {P : List Byte → Bool → Nat → Bool} (h : fetchOk s P = true) :
    ∃ bs p c s1, s.fetchVa 0 (s.ctx 0).next.toNat 256 descFetch = .got bs p c s1 ∧ P bs p c = true := by
  unfold fetchOk at h
  split at h
  · exact ⟨_, _, _, _, ‹_›, h⟩
  · cases h
def readRun (s : State) (bs : List Byte) : DescRun := { addr := (s.ctx 0).next.toNat, words := wordsOf 32 bs, seq := (s.ctx 0).count }

theorem witness_EngineControlAndDescriptors :
    ((let k := (sEng kIdle).ctx 0;
        RegOpen (sEng kIdle) ∧ k.st = .idle ∧ k.head ≠ 0 ∧ (sEng kIdle).gear.blocked.getLsbD k.part = false ∧ k.st ≠ .active)
      ∧ ((sEng {}).ctx 0).st ≠ .idle ∧ ((sEng {}).ctx 0).head = 0
      ∧ (RegOpen (sEng kOn) ∧ ((sEng kOn).ctx 0).st = .active ∧ ((sEng kOn).ctx 0).runs = [] ∧ SeQuiet (sEng kOn) 0)
      ∧ (let s := sEng { kOn with runs := [runIn, run0] }
        (s.ctx 0).runs = runIn :: [run0] ∧ s.ctxLive 0 = true ∧ runIn.wants false = true ∧ s.semCount (fld (runIn.w 0x18) 41 28) ≠ 0)
      ∧ (let s := sEng { kOn with runs := [runOut] }
        (s.ctx 0).runs = runOut :: [] ∧ s.ctxLive 0 = true ∧ runOut.wants true = true ∧ s.semCount (fld (runOut.w 0x18) 27 14) = 0))
    ∧ (∀ op : Fin 5, ((sOp op.val).ctxMay 0 = true ∧ ((sOp op.val).ctx 0).next ≠ 0 ∧ ((sOp op.val).ctx 0).runs = []
        ∧ ((sOp op.val).issued 0).desc = true)
      ∧ ∃ bs p c s1, (sOp op.val).fetchVa 0 ((sOp op.val).ctx 0).next.toNat 256 descFetch = .got bs p c s1
        ∧ (!p && decide (c = 0) && decide (fld ((readRun (sOp op.val) bs).w 0) 61 59 = op.val)
          && (sOp op.val).badDesc 0 (readRun (sOp op.val) bs) == decide (3 ≤ op.val)) = true)
    ∧ (let s := { sEng kOn with gran := [(0x180, { p := true })] }
      ∃ bs p c s1, s.fetchVa 0 (s.ctx 0).next.toNat 256 descFetch = .got bs p c s1 ∧ (p && decide (c ≠ 0)) = true)
    ∧ (let s := sEng { kOn with next := 0x900000000#64 }
      ∃ bs p c s1, s.fetchVa 0 (s.ctx 0).next.toNat 256 descFetch = .got bs p c s1 ∧ decide (c = 1) = true) := by
  refine ⟨by unfold RegOpen SeQuiet; dsimp only; and_intros <;> decide +kernel,
    fun op => ⟨by revert op; decide +kernel, fetch_of (P := fun bs p c => !p && decide (c = 0) && decide (fld ((readRun (sOp op.val) bs).w 0) 61 59 = op.val)
          && (sOp op.val).badDesc 0 (readRun (sOp op.val) bs) == decide (3 ≤ op.val)) (by revert op; decide +kernel)⟩,
    fetch_of (P := fun _ p c => p && decide (c ≠ 0)) (by decide +kernel), fetch_of (P := fun _ _ c => decide (c = 1)) (by decide +kernel)⟩

theorem witness_engine_blocked :
    let s (k : Ctx) : State := { sEng k with gear := { (sEng k).gear with blocked := 1 } }
    (RegOpen (s kOn) ∧ ((s kOn).ctx 0).st ≠ .unallotted ∧ (s kOn).gear.blocked.getLsbD ((s kOn).ctx 0).part = true)
    ∧ (RegOpen (sEng kOn) ∧ (sEng kOn).gear.blocked.getLsbD ((sEng kOn).ctx 0).part = false ∧ ((sEng kOn).ctx 0).st ≠ .idle) := by
  unfold RegOpen; decide +kernel

def xlatIs (s : State) (k : Access) (va : Nat) (P : Word → Nat → Bool) : Bool :=
  match s.xlat (.engine 0) 0 0 k va with
  | .ok leaf _ pa => P leaf pa
  | _ => false
theorem xlat_of {s : State} {k : Access} {va : Nat} {P : Word → Nat → Bool} (h : xlatIs s k va P = true) :
    ∃ leaf level pa, s.xlat (.engine 0) 0 0 k va = .ok leaf level pa ∧ P leaf pa = true := by
  unfold xlatIs at h
  split at h
  · exact ⟨_, _, _, ‹_›, h⟩
  · cases h

/-- A DISPATCH descriptor that is bad for its missing experts, with a record at 0x7000. -/
def sBad : State := (sEng kOn).poke 0x3000 (wordBytes ((descWords 3).set 21 0x7000#64))
def badAt (s : State) : Bool :=
  match s.fetchVa 0 (s.ctx 0).next.toNat 256 descFetch with
  | .got bs p c s1 => let d := readRun s bs
    !p && decide (c = 0) && s.badDesc 0 d && decide (fld (d.w 0) 61 59 = 3) && decide (d.w 0xA8 = 0x7000#64)
      && (match s1.xlat (.engine 0) 0 0 .write 0x7000 with
        | .ok _ _ pa => s1.isLocal pa && s1.isMem (localOf pa)
        | _ => false)
  | _ => false
theorem witness_bad_descriptor : sBad.ctxMay 0 = true ∧ (sBad.ctx 0).next ≠ 0 ∧ (sBad.ctx 0).runs = [] ∧ (sBad.issued 0).desc = true
    ∧ badAt sBad = true := by decide +kernel

def elem0 : Elem := { bytes := [1#8, 2#8, 3#8, 4#8], poison := false, cause := 0, act := 0, dst := 0x6000 }
/-- A run of each OP over rows of three elements: indexes or routing entries at 0x5000, the map at 0x5800, 4 experts 0x100 apart, 2 rows each. -/
def runOp (op : Nat) : DescRun :=
  { run0 with words := ((((((descWords op).set 8 64#64).set 13 64#64).set 17 0x5000#64).set 22 0x5800#64).set 23 0x100#64).set 24 (BitVec.ofNat 64 (2 ^ 33 + 2 * 2 ^ 8 + 4)) }
/-- Two rows of expert 0 are given. -/
def runFull : DescRun := { runOp 3 with rowsGiven := [(0, 2)] }
/-- A COPY whose source is tile 2 of core 0, and one whose destination is tile 1, made READY by it. -/
def runFrom : DescRun := { run0 with words := (((descWords 0).set 0 (BitVec.ofNat 64 (2 * 2 ^ 56 + 2 ^ 54))).set 1 2#64) }
def runTo (te : Bool) (j : Nat) : DescRun :=
  { run0 with words := (((descWords 0).set 0 (BitVec.ofNat 64 (2 * 2 ^ 56 + 2 ^ 53 + (if te then 2 ^ 52 else 0)))).set 2 (BitVec.ofNat 64 j)), buf := [{ elem0 with dst := 8 }], wr := 2, rd := 3 }
def sRun (d : DescRun) : State :=
  let s := (sEng { kOn with runs := [d] }).poke 0x4000 [9#8, 8#8, 7#8, 6#8]
  s.setCore 0 { s.core 0 with tiles := [(1, { attr := 0xF0000#64 }), (2, { attr := 0xF0400#64, rows := [(0, { data := 7#1024 })] })], gate := true, bankWake := 3 }
def sRead : State := sRun run0
def sWrite : State := sRun { run0 with buf := [elem0], rd := 1 }

/-- `ReadsNext` and `WritesNext` as computations. -/
def readsB (d : DescRun) : Bool :=
  let s := sRun d
  decide ((s.ctx 0).runs = [d]) && decide (d.fail = 0) && !d.bmk && !d.inEn && !d.outEn && decide (d.lead = 0) && s.ctxLive 0
    && decide ((s.ctx 0).far = []) && decide ((s.ctx 0).farW = 0) && decide (s.remotes = []) && (List.range 5).all (fun i => decide (d.len i ≠ 0))
    && decide (d.ulvl ≤ 4) && decide (d.ezCode ≤ 5) && decide (d.rd < d.total) && decide (d.row = none) && decide (d.rdLim = none)
    && s.readIssued 0 && decide (d.wr + d.buf.length = d.rd) && decide (d.outSig * d.unitSize ≤ d.wr)
theorem readsNext_of {d : DescRun} (h : readsB d = true) : ReadsNext (sRun d) 0 d := by
  simp only [readsB, Bool.and_eq_true, decide_eq_true_eq, Bool.not_eq_true', List.all_eq_true, List.mem_range] at h
  obtain ⟨⟨⟨⟨⟨⟨⟨⟨⟨⟨⟨⟨⟨⟨⟨⟨⟨⟨h1, h2⟩, h3⟩, h4⟩, h5⟩, h6⟩, h7⟩, h8⟩, h9⟩, h10⟩, h11⟩, h12⟩, h13⟩, h14⟩, h15⟩, h16⟩, h17⟩, h18⟩, h19⟩ := h
  exact ⟨h1, h2, h3, h4, h5, h6, h7, ⟨h8, h9, by simp [h10]⟩, h11, h12, h13, h14, h15, by simp [h16], h17, h18, h19⟩
def writesB (d : DescRun) (el : Elem) : Bool :=
  let s := sRun d
  decide ((s.ctx 0).runs = [d]) && decide (d.fail = 0) && !d.bmk && !d.inEn && !d.outEn && decide (d.lead = 0) && s.ctxLive 0
    && decide ((s.ctx 0).far = []) && decide ((s.ctx 0).farW = 0) && decide (s.remotes = []) && (List.range 5).all (fun i => decide (d.len i ≠ 0))
    && decide (d.ulvl ≤ 4) && decide (d.ezCode ≤ 5) && decide (d.buf = [el]) && decide (d.wr + 1 = d.rd) && decide (d.rd ≤ d.total)
    && decide (el.act = 0) && decide (el.cause = 0) && !el.poison && decide (el.map = none) && decide (d.wrLim = none) && decide (el.bytes.length = d.esz)
    && decide (d.w 0xA8 = 0) && !d.nen && decide ((s.issued 0).writes ≠ 0) && decide (el.dst % d.esz = 0)
theorem writesNext_of {d : DescRun} {el : Elem} (h : writesB d el = true) : WritesNext (sRun d) 0 d el := by
  simp only [writesB, Bool.and_eq_true, decide_eq_true_eq, Bool.not_eq_true', List.all_eq_true, List.mem_range] at h
  obtain ⟨⟨⟨⟨⟨⟨⟨⟨⟨⟨⟨⟨⟨⟨⟨⟨⟨⟨⟨⟨⟨⟨⟨⟨⟨h1, h2⟩, h3⟩, h4⟩, h5⟩, h6⟩, h7⟩, h8⟩, h9⟩, h10⟩, h11⟩, h12⟩, h13⟩, h14⟩, h15⟩, h16⟩, h17⟩, h18⟩, h19⟩, h20⟩, h21⟩,
    h22⟩, h23⟩, h24⟩, h25⟩, h26⟩ := h
  exact ⟨h1, h2, h3, h4, h5, h6, h7, ⟨h8, h9, by simp [h10]⟩, h11, h12, h13, h14, h15, h16, h17, h18, h19, h20, by simp [h21], h22, h23, h24, h25, h26⟩

/-- The side datum at `va` is sound and has property `P`, in the state that its read leaves. -/
def sideIs (s : State) (va n : Nat) (P : Nat → State → Bool) : Bool :=
  match s.side 0 va n with
  | .ok (v, 0, s1) => P v s1
  | _ => false
theorem side_of {s : State} {va n : Nat} {P : Nat → State → Bool} (h : sideIs s va n P = true) :
    ∃ v s1, s.side 0 va n = .ok (v, 0, s1) ∧ P v s1 = true := by
  unfold sideIs at h
  split at h
  · exact ⟨_, _, ‹_›, h⟩
  · cases h
/-- The element at source address `va` is in sound memory of this module. -/
def srcOk (s : State) (va : Nat) : Bool := xlatIs s .read va (fun leaf pa => s.isLocal pa && s.isMem (localOf pa) && !s.anyBad (localOf pa) 4 (leafTag leaf))
/-- A sound entry of 4 experts and ranks below 2. -/
def entryOk (v : Nat) : Bool := decide (v / 2 ^ 43 % 32 = 0) && decide (expertOf v < 4) && decide (rankOf v < 2)
/-- The map word 0x5800 of COMBINE, absent. -/
def sGone : State := (sRun (runOp 4)).poke 0x5800 (List.replicate 4 255#8)

theorem witness_reads_next : ReadsNext sRead 0 run0 ∧ ReadsNext (sRun (runOp 1)) 0 (runOp 1) ∧ ReadsNext (sRun (runOp 2)) 0 (runOp 2)
    ∧ ReadsNext (sRun (runOp 3)) 0 (runOp 3) ∧ ReadsNext (sRun runFull) 0 runFull ∧ ReadsNext (sRun (runOp 4)) 0 (runOp 4)
    ∧ ReadsNext (sRun runFrom) 0 runFrom := by
  refine ⟨readsNext_of ?_, readsNext_of ?_, readsNext_of ?_, readsNext_of ?_, readsNext_of ?_, readsNext_of ?_, readsNext_of ?_⟩ <;> decide +kernel

theorem witness_EngineElements :
    (∀ d ∈ [run0, runOp 1, runOp 2, runOp 3, runFull, runOp 4], d.dstTile = false ∧ d.srcTile = false)
    ∧ (run0.op = 0 ∧ copyAddr run0 false 0 = 0x4000 ∧ srcOk sRead 0x4000 = true)
    ∧ ((runOp 1).op = 1 ∧ (runOp 2).op = 2 ∧ (runOp 1).ixw = false ∧ srcOk (sRun (runOp 1)) 0x4000 = true
      ∧ ∃ v s1, (sRun (runOp 1)).side 0 0x5000 4 = .ok (v, 0, s1) ∧ (decide (v = 0) && srcOk s1 0x4000) = true)
    ∧ ((runOp 3).op = 3 ∧ kget 0 (runOp 3).rowsGiven 0 < (runOp 3).cap ∧ (runOp 3).cap ≤ kget 0 runFull.rowsGiven 0 ∧ (runOp 3).nexp = 4 ∧ (runOp 3).k = 2
      ∧ ∃ v s1, (sRun (runOp 3)).side 0 0x5000 8 = .ok (v, 0, s1) ∧ (entryOk v && s1.writable 0 0x5800 && srcOk s1 0x4000) = true)
    ∧ ((runOp 4).op = 4 ∧ (∃ v s1, (sRun (runOp 4)).side 0 0x5000 8 = .ok (v, 0, s1)
        ∧ (entryOk v && sideIs s1 0x5800 4 (fun m s2 => decide (m < 0xFFFFFFFE) && srcOk s2 0x4000)) = true)
      ∧ ∃ v s1, sGone.side 0 0x5000 8 = .ok (v, 0, s1) ∧ (entryOk v && sideIs s1 0x5800 4 (fun m _ => decide (m = 0xFFFFFFFF))) = true)
    ∧ (runFrom.op = 0 ∧ runFrom.srcTile = true ∧ runFrom.srcHeld = false ∧ (sRun runFrom).tileSt 0 2 = 2 ∧ copyAddr runFrom false 0 = 2)
    ∧ (∃ leaf level pa, sRead.xlat (.engine 0) 0 0 .read 0x5000 = .ok leaf level pa
      ∧ (sRead.isLocal pa && sRead.isMem (localOf pa) && !sRead.anyBad (localOf pa) 8 (leafTag leaf)) = true)
    ∧ (∃ leaf level pa, sWrite.xlat (.engine 0) 0 0 .write (elem0.dst % 2 ^ 64).toNat = .ok leaf level pa
      ∧ (sWrite.isLocal pa && sWrite.isMem (localOf pa)) = true)
    ∧ (let k : Ctx := { kOn with st := .cancelling, sink := [none, none] }
      ((sEng k).ctx 0).st = .cancelling ∧ 1 < ((sEng k).ctx 0).sink.length ∧ ((sEng k).ctx 0).runs = []) := by
  refine ⟨by decide +kernel, by decide +kernel, ⟨by decide +kernel, by decide +kernel, by decide +kernel, by decide +kernel,
      side_of (P := fun v s1 => decide (v = 0) && srcOk s1 0x4000) (by decide +kernel)⟩,
    ⟨by decide +kernel, by decide +kernel, by decide +kernel, by decide +kernel, by decide +kernel,
      side_of (P := fun v s1 => entryOk v && s1.writable 0 0x5800 && srcOk s1 0x4000) (by decide +kernel)⟩,
    ⟨by decide +kernel, side_of (P := fun v s1 => entryOk v && sideIs s1 0x5800 4 (fun m s2 => decide (m < 0xFFFFFFFE) && srcOk s2 0x4000)) (by decide +kernel),
      side_of (P := fun v s1 => entryOk v && sideIs s1 0x5800 4 (fun m _ => decide (m = 0xFFFFFFFF))) (by decide +kernel)⟩,
    by decide +kernel, xlat_of (P := fun leaf pa => sRead.isLocal pa && sRead.isMem (localOf pa) && !sRead.anyBad (localOf pa) 8 (leafTag leaf)) (by decide +kernel),
    xlat_of (P := fun _ pa => sWrite.isLocal pa && sWrite.isMem (localOf pa)) (by decide +kernel), by decide +kernel⟩

theorem witness_writes_next : WritesNext sWrite 0 { run0 with buf := [elem0], rd := 1 } elem0
    ∧ WritesNext (sRun (runTo true 1)) 0 (runTo true 1) { elem0 with dst := 8 } ∧ WritesNext (sRun (runTo false 2)) 0 (runTo false 2) { elem0 with dst := 8 }
    ∧ (∀ p ∈ [(true, 1), (false, 2)], let d := runTo p.1 p.2
      d.dstTile = true ∧ d.dstHeld = false ∧ (d.wr + 1) % d.unitSize = 0 ∧ (sRun d).tileSt 0 p.2 = (if d.te then 0 else 2) ∧ (sRun d).bankOn 0 p.2 = true) := by
  refine ⟨writesNext_of ?_, writesNext_of ?_, writesNext_of ?_, ?_⟩ <;> decide +kernel

/-- R261, R277: the element's four bytes land at its destination. -/
theorem test_se_write_lands : after (execSeWriteAccepted 0 sWrite) (fun s => (s.bytes 0x5FFF 6, (s.ctx 0).done)) = some ([0#8, 1#8, 2#8, 3#8, 4#8, 0#8], 1#64) := by
  decide +kernel

/-! ### The memory system and step control -/

def req0 : MemReq := { block := 0x100, write := false, cls := .cad, np := false, checks := [(0#7, true, true)] }
def reqW : MemReq := { req0 with write := true, checks := [] }
/-- Die 0 with `r` at the head of the lookups, `cfg` as POOL_CFG and `l` as the lines of its set. -/
def sPool (r : MemReq) (cfg : BitVec 16) (l : List PLine) : State :=
  { s0 with lookupQ := [(0, [r, reqW])], poolCfg := [(0, cfg)], poolLines := [(setKey 0 16 r.block, l)] }

/-- One interleaved region over the low addresses. -/
def sReg : State := { s0 with regions := [(0, { en := true, base := 0, size := 0x1800000000, mode := true, igc := 0 })] }

theorem witness_MemorySystem :
    ((let s := sPool req0 0xFFFF#16 [];
        kget [] s.lookupQ 0 = req0 :: [reqW] ∧ sliceCount s 0 = 0)
      ∧ (let s := sPool req0 0 [{ block := 1, dirty := false }, { block := 0x100, dirty := false }, { block := 2, dirty := true }]
        kget [] s.lookupQ 0 = req0 :: [reqW] ∧ 0 < sliceCount s 0
          ∧ kget [] s.poolLines (setKey 0 (sliceCount s 0) 0x100) = [{ block := 1, dirty := false }] ++ { block := 0x100, dirty := false } :: [{ block := 2, dirty := true }]
          ∧ ∀ q ∈ [({ block := 1, dirty := false } : PLine)] ++ [{ block := 2, dirty := true }], q.block ≠ 0x100)
      ∧ (let s := sPool { req0 with np := true } 0 []
        kget [] s.lookupQ 0 = { req0 with np := true } :: [reqW] ∧ 0 < sliceCount s 0 ∧ kget [] s.poolLines (setKey 0 (sliceCount s 0) 0x100) = [])
      ∧ (let s := sPool reqW 0x8000 [{ block := 1, dirty := false }]
        kget [] s.lookupQ 0 = reqW :: [reqW] ∧ sliceCount s 0 = 15 ∧ reqW.write = true ∧ reqW.part = false ∧ reqW.np = false)
      ∧ (∀ dirty : Bool, let l : List PLine := { block := 1, dirty := dirty } :: List.replicate 15 { block := 2, dirty := false }
        let s := sPool reqW 0 l
        kget [] s.lookupQ 0 = reqW :: [reqW] ∧ 0 < sliceCount s 0 ∧ kget [] s.poolLines (setKey 0 (sliceCount s 0) 0x100) = l ∧ (∀ q ∈ l, q.block ≠ 0x100)
          ∧ 16 ≤ l.length ∧ reqW.write = true ∧ reqW.part = false ∧ reqW.np = false))
    ∧ ((∀ p ∈ [(255, false), (255, true), (256, false)], let s := { s0 with front := [(3, [req0])], bkts := [(3 * 4 + Cls.cad.code, { level := p.1, borrow := p.2 })] }
        kget [] s.front 3 = [req0] ∧ (s.bank (bankOf s req0)).queue = [] ∧ (s.bkt 3 req0.cls).level = p.1 ∧ (s.bkt 3 req0.cls).borrow = p.2)
      ∧ (let s := { sReg with banks := [(0, { queue := [req0] }), (1, { open_ := some (rowOf sReg req0 + 1), queue := [{ req0 with block := 0x7FFFFFF, passed := 7 }, req0] })] }
        (s.bank 0).queue = [req0] ∧ ReqSound s req0 ∧ (s.bank 1).queue = [{ req0 with block := 0x7FFFFFF, passed := 7 }, req0]
          ∧ ReqSound s { req0 with block := 0x7FFFFFF, passed := 7 } ∧ (∀ w, (s.bank 1).open_ = some w → w ≠ rowOf s req0))
      ∧ (let o : MemReq := { req0 with block := 0x7FFFFFF, passed := 7 }
        let s := { sReg with banks := [(1, { open_ := some (rowOf sReg req0), queue := [o, req0] })] }
        (s.bank 1).queue = [o, req0] ∧ req0 ≠ o ∧ o.passed < 8 ∧ (s.bank 1).open_ = some (rowOf s req0) ∧ rowOf s o ≠ rowOf s req0)
      ∧ 8 ≤ ({ req0 with block := 0x7FFFFFF, passed := 8 } : MemReq).passed
      ∧ ((s0.count 0x20).toNat % 2600 = 2600 * (0 % 6) / 6 ∧ (s0.count 0x20).toNat % 2600 ≠ 2600 * (1 % 6) / 6)) := by
  unfold ReqSound; dsimp only; and_intros <;> decide +kernel

theorem witness_MemoryServices :
    (RegOpen s0 ∧ (0x10005#64).getLsbD 0 = true ∧ (s0.xinvOf 4).busy = false ∧ (s0.xinvOf 0).busy = false)
    ∧ (let s := { s0 with xinv := [(4, { busy := true })] }
      (s.xinvOf 4).busy = true)
    ∧ (let s := { s0 with ref25 := true, power := { s0.power with training := true } }
      s.power.training = true ∧ s.ref25 = true ∧ s.sec.phase = .running)
    ∧ (let s := { s0 with ref25 := true, power := { s0.power with trained := true }, gear := { s0.gear with image := some { bytes := 8, words := [] } } }
      s.gear.image = some { bytes := 8, words := [] } ∧ s.power.trained = true ∧ s.gear.memReady = false ∧ s.ref25 = true ∧ s.sec.phase = .running)
    ∧ (bit s0.power.on 72 = true ∧ s0.power.down = false ∧ bit State.reset.power.on 72 = false ∧ 85 ≤ 85 ∧ 85 < 86) := by unfold RegOpen; decide +kernel

theorem witness_StepControl :
    (RegOpen s0 ∧ s0.stepc.applied = 0 ∧ s0.stepc.evalOpen = false)
    ∧ (let s := { s0 with stepc := { s0.stepc with applied := 1, evalOpen := true, limit := 5 } }
      RegOpen s ∧ s.stepc.applied ≠ 0 ∧ s.stepc.evalOpen = true ∧ s.stepc.limit ≠ 0)
    ∧ (fld (0x8000000000#64) 39 37 ≤ 4 ∧ fld (0x8000000000#64) 35 34 ≠ 3 ∧ fld (0x8000000000#64) 33 32 ≠ 3)
    ∧ (5 ≤ fld (0xA000000000#64) 39 37 ∧ fld (0xC00000000#64) 35 34 = 3 ∧ fld (0x300000000#64) 33 32 = 3)
    ∧ (let s := { s0 with seqEntry := [(1023, 0x200000007#64)] }
      kwf 0 s.seqEntry = true ∧ ∀ p ∈ s.seqEntry, p.1 < 1024) := by unfold RegOpen; decide +kernel

/-- R334: one DONE entry of 7 tokens. -/
theorem test_step_tokens : after (execStepTokensRead { s0 with seqEntry := [(1023, 0x200000007#64)] }) (fun s => s.out.head?)
    = some (some (.regRead 0x4F0028 0x10000000007#64)) := by decide +kernel

/-! ### Peloton -/

/-- Tree 2 of four ranks, rank r on die r, bucket 0; `x` the node of die 2, whose child is rank 3, `y` that of die 0. -/
def tree0 : Tree := { en := true, intra := true, n := 4, stg := 1, ranks := [(0, 1), (1, 2), (2, 3), (3, 4)] }
def sPel (w : Tree) (x y : Node) (mem : KMap Byte) : State :=
  { mapped true th0 with
    trees := [(2, { w with nodes := [(0, y), (2, x)] })], pelXlat := [{ part := 0, level := 2, vpn := 0, leaf := 0x7D#64 }]
    stepc := { s0.stepc with step := 5 }, mem := mem }
def msgP (src : Fin 1024) (step : BitVec 32) : PelMsg :=
  { tree := 2, bucket := 0, src := src, level := 0, arrived := 1, step := step, fdig := 0, missing := 0, bytes := [0x40#8], codes := [none], words := [], leaves := [] }
/-- The descriptor of bucket 0 for die 2 at VA 0x400: one block; with `g`, the gradient in tile 1 of core 0. -/
def descMem (g : Bool) : KMap Byte := if g then [(0x402, 4#8), (0x404, 1#8), (0x408, 1#8)] else [(0x404, 1#8)]
def sAt (x : Node) : State := sPel tree0 x {} []
theorem pelOpen_at {w : Tree} {x y : Node} {mem : KMap Byte} (h : w.intra = true) : PelOpen (sPel w x y mem) 2 := .inl h
def sAt0 (y : Node) (k : List PelChk) : State := sPel { tree0 with checks := k } {} y []

theorem witness_PelotonArithmetic : (List.replicate 32 (0x3F800000#32 : F32)).length = 32 ∧ 2 ≤ 2 ∧ 1024 ≤ 1024
    ∧ (expByte (List.replicate 32 (0x3F800000#32 : F32))).toNat ≤ (0x90#8 : Byte).toNat ∧ liveByte 0x90#8 = true := by decide +kernel

/-- A read hand-off of die 2: its descriptor, of one block at VA 0, and what was found of it. -/
def read0 : Node := { reading := true, got := true, desc := 0x100000000#64 :: List.replicate 31 0, unf := [0] }
/-- One whose gradient stands in lent tile 1 of core 0. -/
def lent0 : Node := { read0 with desc := 0x100040000#64 :: 1#64 :: List.replicate 30 0 }
/-- The tree's pages stand in module 1. -/
def awayAt (x : Node) : State := { sAt x with pelXlat := [{ part := 0, level := 2, vpn := 0, leaf := 0x100000000007D#64 }] }
def lentAt (x : Node) (st : Nat) (on : Bool) : State :=
  let s := sAt x
  s.setCore 0 { s.core 0 with tiles := [(1, { attr := atWith 0xF0100#64 st })], bankOn := if on then 15 else 14 }
def onTimeB (s : State) : Bool :=
  !s.pastDl 2 0 2 (s.tree 2).dlExp && !s.pastDl 2 0 2 (s.tree 2).dlData && !s.pastDl 2 0 2 (s.tree 2).dlRes

theorem onTime_of {s : State} (h : onTimeB s = true) : OnTime s 2 0 2 := by
  simp only [onTimeB, Bool.and_eq_true, Bool.not_eq_true'] at h
  exact ⟨.inl h.1.1, .inl h.1.2, .inl h.2⟩

/-- `PelNear` as a test. -/
def nearB (s : State) (t : Nat) (l : List (Nat × Nat)) : Bool :=
  l.all (fun q => (blocks q.1 q.2).all (fun b => match s.pelAt t (b * 64 % 2 ^ 64) .read with
    | .away _ _ => false
    | .host _ _ => false
    | _ => true))
theorem pelNear_of {s : State} {t : Nat} {l : List (Nat × Nat)} (h : nearB s t l = true) : PelNear s t l := by
  intro q hq b hb
  have := List.all_eq_true.mp (List.all_eq_true.mp h q hq) b hb
  revert this; split <;> simp_all

/-- Nodes that are on time: one past every deadline whose work at them is done, and those of the hand-off's premises. -/
theorem witness_onTime :
    OnTime (sAt {}) 2 0 2 ∧ OnTime (sAt { scaled := true }) 2 0 2 ∧ OnTime (sAt { expSent := true }) 2 0 2 ∧ OnTime (awayAt {}) 2 0 2
      ∧ OnTime (sPel tree0 { expIn := [(3, msgP 3 5)] } {} (descMem false)) 2 0 2
      ∧ OnTime (sAt { started := true, cyc0 := 0xFFFFFFFFFFFFFFFF#64, own := 1, expSent := true, dataSent := true, resSaid := true }) 2 0 2
      ∧ ((sPel { tree0 with ranks := [(0, 1)] } {} {} []).tree 2).rank 2 = none := by
  refine ⟨onTime_of ?_, onTime_of ?_, onTime_of ?_, onTime_of ?_, onTime_of ?_, ⟨.inr ?_, .inr ?_, .inr (.inl ?_)⟩, ?_⟩ <;> decide +kernel

theorem witness_PelotonHandoff :
    (RegOpen (sAt {}) ∧ (fld (0x4000#64) 11 0 = 0 ∧ fld (0x4000#64) 14 13 = 2)
      ∧ (∀ k, Writer.thread 0 = .thread k → ((sAt {}).thr k.val).pass = .upd ∨ ((sAt {}).thr k.val).pass = .sys)
      ∧ (let s := { sAt {} with threads := [(0, { th0 with pass := .fwd })] }
        RegOpen s ∧ (s.thr 0).pass ≠ .upd ∧ (s.thr 0).pass ≠ .sys)
      ∧ ((sPel { tree0 with en := false } {} {} []).tree 2).en = false ∧ ((sPel { tree0 with ranks := [(0, 1)] } {} {} []).tree 2).rank 2 = none
      ∧ (((sAt {}).tree 2).en = true ∧ ((sAt {}).tree 2).rank 2 = some 2 ∧ bit (sAt {}).gear.blocked ((sAt {}).tree 2).part = false)
      ∧ (let s := { sAt {} with gear := { (sAt {}).gear with blocked := 1 } }
        RegOpen s ∧ (s.tree 2).en = true ∧ bit s.gear.blocked (s.tree 2).part = true)
      ∧ 0 * 4 + 2 ∈ ((sPel { tree0 with applied := [2] } {} {} []).tree 2).applied
      ∧ ((sAt { res := some (msgP 0 5) }).node 2 0 2).res ≠ none
      ∧ (0 * 4 + 2 ∉ ((sAt {}).tree 2).applied ∧ ((sAt {}).node 2 0 2).res = none ∧ ((sAt {}).node 2 0 2).expSent = false
        ∧ ((sAt {}).node 2 0 2).scaled = false ∧ ((sAt {}).node 2 0 2).tile = false)
      ∧ (((sAt { scaled := true, started := true }).node 2 0 2).scaled = true ∧ ((sAt { scaled := true, started := true }).node 2 0 2).started = true)
      ∧ ((sAt { scaled := true }).node 2 0 2).started = false ∧ ((sAt { expSent := true }).node 2 0 2).expSent = true
      ∧ (let s := awayAt {}
        let y := (s.readDesc 2 0 2 { s.node 2 0 2 with reading := true, absent := true, own := 1 }).1
        y.got = false)
      ∧ (let s := sAt {}
        let y := (s.readDesc 2 0 2 { s.node 2 0 2 with reading := true, absent := true, own := 1 }).1
        y.got = true ∧ y.rej = true)
      ∧ (let s := sPel tree0 { expIn := [(3, msgP 3 5)] } {} (descMem false)
        let y := (s.readDesc 2 0 2 { s.node 2 0 2 with reading := true, absent := true, own := 1 }).1
        y.got = true ∧ y.rej = false ∧ s.overStg 2 y = false ∧ y.gtile = false ∧ childrenOf (s.tree 2).n 2 = [3] ∧ hasOf (s.node 2 0 2).expIn 3))
    ∧ (((sAt {}).tree 2).rank 2 = some 2 ∧ OnTime (sAt {}) 2 0 2 ∧ ((sAt {}).node 2 0 2).reading = false
      ∧ (let s := awayAt { reading := true }
        (s.tree 2).rank 2 = some 2 ∧ OnTime s 2 0 2 ∧ (s.node 2 0 2).reading = true ∧ (s.readDesc 2 0 2 (s.node 2 0 2)).1.got = false)
      ∧ (∀ st ∈ [tReady, tEmpty], let s := lentAt lent0 st true
        let y := s.node 2 0 2
        (s.tree 2).rank 2 = some 2 ∧ y.reading = true ∧ y.got = true ∧ y.gtile = true ∧ y.tile = false ∧ y.rej = false ∧ y.absent = false ∧ s.tileFit y = 0
          ∧ y.gradA / 32 % 512 = 0 ∧ y.gradA % 32 = 1 ∧ s.bankOn 0 1 = true ∧ (s.tileSt 0 1 = tReady ↔ st = tReady))
      ∧ OnTime (lentAt lent0 tReady true) 2 0 2 ∧ OnTime (lentAt lent0 tEmpty true) 2 0 2
      ∧ (OnTime (lentAt lent0 tReady false) 2 0 2 ∧ (lentAt lent0 tReady false).bankOn 0 1 = false)
      ∧ (∀ x ∈ [{ read0 with rej := true }, { read0 with absent := true, own := 1 }, read0], let s := sAt x
        let y := s.node 2 0 2
        (s.tree 2).rank 2 = some 2 ∧ y.reading = true ∧ y.got = true ∧ y.gtile = false ∧ s.overStg 2 y = false ∧ (s.pelAsk 2 y.gradSpans).2 = true)
      ∧ OnTime (sAt { read0 with rej := true }) 2 0 2 ∧ OnTime (sAt { read0 with absent := true, own := 1 }) 2 0 2 ∧ OnTime (sAt read0) 2 0 2
      ∧ (let s := awayAt read0
        OnTime s 2 0 2 ∧ (s.node 2 0 2).got = true ∧ (s.pelAsk 2 (s.node 2 0 2).gradSpans).2 = false)) := by
  have h : ∀ k, Writer.thread 0 = .thread k → ((sAt {}).thr k.val).pass = .upd ∨ ((sAt {}).thr k.val).pass = .sys := fun k h => by cases h; decide +kernel
  unfold RegOpen hasOf; dsimp only
  refine ⟨⟨?_, ?_, h, ?_, ?_, ?_, ?_, ?_, ?_, ?_, ?_, ?_, ?_, ?_, ?_, ?_⟩, ?_⟩ <;> and_intros <;> first | exact onTime_of (by decide +kernel) | decide +kernel

theorem witness_PelotonStepsAndAgreement :
    (((sPel { tree0 with en := false } {} {} []).tree (msgP 3 5).tree.val).en = false
      ∧ (((sAt {}).tree (msgP 3 4).tree.val).en = true ∧ (msgP 3 4).step.toNat < (sAt {}).stepc.step.toNat ∧ (sAt {}).stepc.step.toNat < (msgP 3 6).step.toNat)
      ∧ ((msgP 3 5).step = (sAt {}).stepc.step ∧ ((sAt {}).tree 2).rank 2 = some 2 ∧ (msgP 3 5).src.val ∈ childrenOf ((sAt {}).tree 2).n 2 ∧ OnTime (sAt {}) 2 0 2)
      ∧ (sPel { tree0 with applied := [2] } {} {} []).pelClosed 2 0 2 = true
      ∧ (let x := (sAt { expSent := true, dataSent := true, kidMiss := [3], expIn := [(3, msgP 3 5)], dataIn := [(3, msgP 3 5)] }).node 2 0 2
        x.expSent = true ∧ x.dataSent = true ∧ 3 ∈ x.kidMiss ∧ hasOf x.expIn 3 ∧ hasOf x.dataIn 3)
      ∧ OnTime (sAt { expSent := true, dataSent := true, kidMiss := [3], expIn := [(3, msgP 3 5)], dataIn := [(3, msgP 3 5)] }) 2 0 2)
    ∧ ((let s := sAt {}
        AtRank s 2 (msgP 3 5) 2 ∧ 3 ∈ childrenOf (s.tree 2).n 2 ∧ (s.node 2 0 2).expSent = false ∧ (s.node 2 0 2).scaled = false
          ∧ 3 ∉ (s.node 2 0 2).kidMiss ∧ ¬ hasOf (s.node 2 0 2).expIn 3 ∧ (s.node 2 0 2).started = false ∧ OnTime s 2 0 2 ∧ PelOpen s 2)
      ∧ (let s := sAt { started := true, own := 0, exps := [0x41#8], unf := [0], x := [List.replicate 32 0x3F800000#32] }
        let x := s.node 2 0 2
        let ex := x.expIn ++ [(3, msgP 3 5)]
        AtRank s 2 (msgP 3 5) 2 ∧ OnTime s 2 0 2 ∧ PelOpen s 2 ∧ x.started = true ∧ x.own ≤ 1 ∧ (∀ k ∈ childrenOf (s.tree 2).n 2, hasOf ex k)
          ∧ (∀ p ∈ ex, p.1 ∈ childrenOf (s.tree 2).n 2) ∧ (∀ p ∈ ex, p.2.fdig = x.fdig) ∧ x.scaled = false ∧ x.own = 0 ∧ bit (msgP 0 5).missing 2 = false)) := by
  have a : ∀ x, AtRank (sAt x) 2 (msgP 3 5) 2 := fun x => ⟨rfl, rfl, rfl, rfl⟩
  unfold hasOf; dsimp only
  refine ⟨?_, ⟨a _, ?_⟩, ⟨a _, ?_⟩⟩ <;> and_intros <;> first | exact .inl rfl | exact onTime_of (by decide +kernel) | decide +kernel

/-- A check of bucket 0 whose ranks `miss` are missing. -/
def chk0 (miss : BitVec 1024) : PelChk := { bucket := 0, step := 5, blocks := [(0, none)], missing := miss, leaves := [] }

theorem witness_PelotonReductionAndGather :
    ((let s := sAt {};
        AtRank s 2 (msgP 3 5) 2 ∧ OnTime s 2 0 2 ∧ PelOpen s 2 ∧ 3 ∈ childrenOf (s.tree 2).n 2 ∧ (s.node 2 0 2).dataSent = false ∧ 3 ∉ (s.node 2 0 2).kidMiss ∧ ¬ hasOf (s.node 2 0 2).dataIn 3
          ∧ (s.node 2 0 2).scaled = false ∧ (s.node 2 0 2).res = none)
      ∧ (let s := sPel tree0 { scaled := true, leaf := some [List.replicate 32 1#8] } {} []
        AtRank s 2 (msgP 3 5) 2 ∧ (s.node 2 0 2).scaled = true ∧ childrenOf (s.tree 2).n 2 = [3] ∧ (s.node 2 0 2).dataIn = [] ∧ (s.node 2 0 2).kidMiss = []
          ∧ bit (s.node 2 0 2).xmiss 2 = false)
      ∧ bit ((sAt { scaled := true, xmiss := 4 }).node 2 0 2).xmiss 2 = true
      ∧ (let s := sAt { scaled := true, got := true, desc := [1] }
        AtRank s 2 { msgP 0 5 with arrived := 0 } 2 ∧ OnTime s 2 0 2 ∧ PelOpen s 2 ∧ (s.node 2 0 2).res = none ∧ (s.node 2 0 2).scaled = true
          ∧ (s.node 2 0 2).got = true ∧ (s.node 2 0 2).applied = false ∧ (s.node 2 0 2).desc ≠ [] ∧ PelNear s 2 ((s.node 2 0 2).stateSpans 4 2 1)))
    ∧ ((let s := sAt {}
        AtRank s 2 (msgP 3 5) 2 ∧ 3 ∈ subtreeOf (s.tree 2).n 2 ∧ 3 ≠ 2 ∧ 3 ∉ (s.node 2 0 2).gatherUp ∧ 3 ∉ (s.node 2 0 2).gathered)
      ∧ (let s := sAt { gathered := [1] }
        AtRank s 2 (msgP 1 5) 2 ∧ 1 ∉ subtreeOf (s.tree 2).n 2 ∧ 1 ∈ (s.node 2 0 2).gathered)
      ∧ (let s := sAt0 {} []
        AtRank s 0 (msgP 3 5) 0 ∧ (s.node 2 0 0).started = false ∧ PelOpen s 2 ∧ (∀ k ∈ (s.tree 2).checks, k.bucket ≠ 0) ∧ (s.node 2 0 0).res = none ∧ 3 ∉ (s.node 2 0 0).gathered
          ∧ 3 ∉ (s.node 2 0 0).kidMiss)
      ∧ (((sAt0 {} [chk0 0]).tree 2).checks = [chk0 0] ∧ ((sAt0 {} [chk0 7]).tree 2).checks = [chk0 7] ∧ (chk0 0).blocks = [(0, none)] ∧ (chk0 7).bucket = 0 ∧ (chk0 7).step = 5
        ∧ ({ chk0 0 with leaves := [(3, [])] } : PelChk).full 4 = false ∧ ({ chk0 7 with leaves := [(3, [])] } : PelChk).full 4 = true)) := by
  have a : ∀ x m, m.tree = 2 → m.bucket = 0 → m.step = 5 → AtRank (sAt x) 2 m 2 := fun x m h1 h2 h3 => by
    refine ⟨?_, ?_, ?_, ?_⟩ <;> first | rw [h1] | rw [h3]
    · rfl
    · rfl
    · rfl
    · rw [h2]; rfl
  unfold hasOf; dsimp only
  refine ⟨⟨⟨a _ _ rfl rfl rfl, ?_⟩, ⟨a _ _ rfl rfl rfl, ?_⟩, ?_, ⟨a _ _ rfl rfl rfl, ?_⟩⟩, ⟨⟨a _ _ rfl rfl rfl, ?_⟩, ⟨a _ _ rfl rfl rfl, ?_⟩, ⟨⟨rfl, rfl, rfl, rfl⟩, ?_⟩, ?_⟩⟩
    <;> and_intros <;> first | exact .inl rfl | exact pelNear_of (by decide +kernel) | exact onTime_of (by decide +kernel) | decide +kernel

/-- The checks that are not past DL_CHK stay; a leaf of the root's child 2, declared missing, is late, and so is one after the RESULT. -/
theorem witness_check_late :
    (let s := sAt0 {} [chk0 4];
      ((s.runChecks 2 4 (s.chkPast 2)).tree 2).checks = [chk0 4] ∧ 2 ∈ childrenOf 4 0 ∧ bit (chk0 4).missing 2 = true
        ∧ ¬ (3 ∈ childrenOf 4 0 ∧ bit (chk0 4).missing 3 = true))
    ∧ (let s := sAt0 { res := some (msgP 0 5) } []
      (s.runChecks 2 4 (s.chkPast 2)).trees = s.trees ∧ (s.node 2 0 0).res ≠ none)
    ∧ (let s := sAt0 { kidMiss := [2] } []
      (s.node 2 0 0).res = none ∧ 2 ∈ (s.node 2 0 0).kidMiss) := by decide +kernel

/-- Die 2 with one live node past every deadline of 0 cycles: its cycle 0 lies a cycle behind HCLK's count. -/
def late0 : Node := { started := true, cyc0 := 0xFFFFFFFFFFFFFFFF#64, own := 1 }
/-- A node whose RESULT is applied. -/
def applied0 : Node := { res := some (msgP 0 5), applied := true, desc := 0x80000#64 :: List.replicate 11 0 ++ [0x4000#64] }

theorem witness_PelotonEnds :
    ((let s := sAt {};
      (s.tree 2).rank 2 = some 2 ∧ PelOpen s 2 ∧ (s.node 2 0 2).started = false ∧ (s.node 2 0 2).res = none)
    ∧ (let s := sAt late0
      let x := s.node 2 0 2
      PelOpen s 2 ∧ x.started = true ∧ (s.tree 2).dlExp.toNat < (s.count 0x40 - x.cyc0).toNat ∧ (s.tree 2).dlData.toNat < (s.count 0x40 - x.cyc0).toNat
        ∧ (s.tree 2).dlRes.toNat < (s.count 0x40 - x.cyc0).toNat ∧ x.expSent = false ∧ x.dataSent = false ∧ 3 ∈ childrenOf (s.tree 2).n 2
        ∧ ¬ hasOf x.expIn 3 ∧ ¬ hasOf x.dataIn 3 ∧ x.own ≠ 0 ∧ x.scaled = false ∧ x.resSaid = false)
    ∧ ((sAt { late0 with resSaid := true }).node 2 0 2).resSaid = true
    ∧ (let s := sAt { late0 with scaled := true, expSent := true, dataSent := true, res := some (msgP 0 5) }
      (s.node 2 0 2).scaled = true ∧ (s.node 2 0 2).res ≠ none ∧ (s.node 2 0 2).expSent = true ∧ (s.node 2 0 2).dataSent = true)
    ∧ (let s := sAt0 {} [chk0 0, { chk0 0 with at_ := 0xFFFFFFFFFFFFFFFF#64 }]
      (s.tree 2).rank 0 = some 0 ∧ PelOpen s 2
        ∧ (s.tree 2).checks.filter (fun k => !(decide (k.bucket = 0) && decide ((s.tree 2).dlChk.toNat < (s.count 0x40 - k.at_).toNat))) = [chk0 0])
    ∧ (let s := sAt { applied0 with desc := [1] }
      (s.node 2 0 2).res = some (msgP 0 5) ∧ (s.node 2 0 2).applied = true)
    ∧ ((sAt { applied0 with desc := [0x10000100000#64] }).node 2 0 2).finished 4 = true
    ∧ (let s := { sAt applied0 with remotes := [(1, { kind := .pelWrite 2 })] }
      (s.node 2 0 2).wrote = false ∧ s.pelWrites 2 = true))
    ∧ (let s := awayAt applied0
      let x := s.node 2 0 2
      x.finished 4 = true ∧ x.desc ≠ [] ∧ x.wrote = false ∧ s.pelWrites 2 = false ∧ (s.writeResult 2 0 2 2 x (msgP 0 5)).pelWrites 2 = true)
    ∧ (let s := sPel { tree0 with applied := [0, 1, 3] } applied0 {} []
      let x := s.node 2 0 2
      x.finished 4 = true ∧ s.pelWrites 2 = false ∧ (s.writeResult 2 0 2 2 x (msgP 0 5)).pelWrites 2 = false ∧ x.nen = true ∧ x.asen = true
        ∧ (∀ e, e < 4 → (s.tree 2).rank e = none ∨ e = 2 ∨ 0 * 4 + e ∈ (s.tree 2).applied) ∧ cfgNbkt s.stepc.cfg = 0 ∧ cfgFtree s.stepc.cfg ≠ 2)
    ∧ ((sAt { applied0 with wrote := true }).node 2 0 2).wrote = true ∧ ((sAt { applied0 with desc := [] }).node 2 0 2).desc = []
    ∧ (let s := sPel { tree0 with applied := [0, 1, 3] } applied0 {} []
      let s := { s with stepc := { s.stepc with cfg := 8 } }
      (s.node 2 0 2).finished (s.tree 2).n = true ∧ cfgFtree s.stepc.cfg = 2 ∧ cfgNbkt s.stepc.cfg = 0) := by
  unfold hasOf; dsimp only; and_intros <;> first | exact .inl rfl | decide +kernel

/-! ### Links -/

/-- Port 3 as given, this module being device 0. -/
def sLnk (x : Port) : State :=
  { s0 with ports := [(3, x)], exports := [(0, { en := true, w := true, r := true, sid := 9, base := 0x4000, limit := 0x6000 })], mem := [(0x4001, 7#8)] }
/-- A flit of half 0 that has been replayed `n` times. -/
def flit0 (seq : BitVec 12) (n : Nat) : Flit := { seq := seq, vc := 0, half := 0, hdrmap := 1, usemap := 1, bytes := List.replicate 256 0, tries := n }
def pUp : Port := { en := true, st := .up, peer := 5, degrade := true, replay := [flit0 0 0, flit0 1 6], rxSeq := 4 }

theorem witness_LinkPorts :
    (let x : Port := { st := .training, peer := 5, width := 2 };
      ((sLnk x).port 3).st = .training ∧ ((5 : BitVec 10).toNat = ((sLnk x).port 3).peer) ∧ (6 : BitVec 10).toNat ≠ ((sLnk x).port 3).peer)
    ∧ ({ sLnk pUp with ports := [(7, { st := .training, width := 2 })], cad := { s0.cad with cfg := 0x8000000000000000#64 } } : State).cad.enabled = true
    ∧ (RegOpen (sLnk pUp) ∧ ((sLnk pUp).port 3).st ≠ .training ∧ ((sLnk pUp).port 3).st ≠ .down ∧ ((sLnk pUp).port 3).st ≠ .disabled)
    ∧ (RegOpen (sLnk {}) ∧ ((sLnk {}).port 3).st = .disabled ∧ ((sLnk {}).port 3).live = false ∧ ((sLnk { st := .down }).port 3).st = .down)
    ∧ (let x := (sLnk pUp).port 3
      x.live = true ∧ 0x11#8 &&& lanesOf x.widthNow ≠ 0 ∧ 0 &&& lanesOf x.widthNow = 0 ∧ x.widthNow = 0 ∧ x.degrade = true
        ∧ (x.lanef ||| (0x10#8 &&& lanesOf x.widthNow)) &&& 0x0F#8 = 0 ∧ (x.lanef ||| (0x01#8 &&& lanesOf x.widthNow)) &&& 0xF0#8 = 0
        ∧ (x.lanef ||| (0x11#8 &&& lanesOf x.widthNow)) &&& 0x0F#8 ≠ 0 ∧ (x.lanef ||| (0x11#8 &&& lanesOf x.widthNow)) &&& 0xF0#8 ≠ 0) := by
  unfold RegOpen; dsimp only; and_intros <;> decide +kernel

/-- The domain of the ports is on, and OFF. -/
theorem witness_lit : (sLnk pUp).power.on.getLsbD (74 + 3 / 4) = true ∧ (sLnk { st := .training, peer := 5 }).power.on.getLsbD 74 = true
    ∧ State.reset.power.on.getLsbD 74 = false := by decide +kernel

theorem witness_LinkFrames :
    (((sLnk {}).port 3).live = false ∧ ((sLnk pUp).port 3).live = true ∧ ({ frame0 with crcGood := false } : Frame).crcGood = false
      ∧ ({ frame0 with uncorrectable := 1 } : Frame).uncorrectable ≠ 0)
    ∧ (frame0.crcGood = true ∧ frame0.uncorrectable = 0 ∧ frame0.nak = false ∧ frame0.usemap = 0)
    ∧ (let f := { frame0 with usemap := 1, seq := 5 }
      let taken := (((sLnk pUp).linkCount 3 0 f.corrected).linkCount 3 1 f.uncorrectable).updPort 3 (fun y => (y.acked f.ack).credited (f.crvc.val * 2 + b2n f.crh) f.crn)
      f.usemap ≠ 0 ∧ f.seq = (taken.port 3).rxSeq + 1 ∧ (6 : BitVec 12) ≠ (taken.port 3).rxSeq + 1)
    ∧ (let f := { frame0 with nak := true, ack := 0xFFF }
      let l (x : Port) : List Flit :=
        ((((sLnk x).linkCount 3 0 f.corrected).updPort 3 (fun y => (y.acked f.ack).credited (f.crvc.val * 2 + b2n f.crh) f.crn)).port 3).replay
      f.crcGood = true ∧ f.uncorrectable = 0 ∧ f.usemap = 0 ∧ ((sLnk pUp).port 3).live = true
        ∧ (l pUp).map (·.tries) = [0, 6] ∧ l { pUp with replay := [] } = [] ∧ (l { pUp with replay := [flit0 0 1, flit0 1 7] }).map (·.tries) = [1, 7])
    ∧ (pUp.replay ≠ [] ∧ (∀ e ∈ pUp.replay, e.tries < 7) ∧ ({ pUp with replay := [] } : Port).replay = []
      ∧ ∃ e ∈ ({ pUp with replay := [flit0 0 1, flit0 1 7] } : Port).replay, 7 ≤ e.tries)
    ∧ (kget [] ({ pUp with queue := [(2, [msg0])] } : Port).queue 2 ≠ [] ∧ 2 ∉ pUp.stalled) := by
  dsimp only; and_intros <;> decide +kernel

def msgRd : LinkMsg := { did := 0, sid := 9, op := 0, nslot := 2, cls := 0, xid := 7, addr := 0x4000, ctag := 0, arg := 2, data := [] }
def msgWr : LinkMsg := { msgRd with op := 2, data := List.replicate 2 { bytes := List.replicate 32 1#8, poison := false } }

theorem witness_RemoteService :
    (let s := sLnk pUp;
      ({ msgRd with did := 1 } : LinkMsg).did ≠ s.lnkId ∧ msgRd.did = s.lnkId ∧ badHeader { msgRd with nslot := 1 } = true
        ∧ (badHeader { msgRd with addr := 0x18000000000 } = false ∧ memSpace 0x18000000000 = false)
        ∧ (badHeader { msgRd with addr := 0x6000 } = false ∧ memSpace 0x6000 = true ∧ s.exported 9 false 0x6000 64 = false ∧ s.exported 9 true 0x6000 64 = false)
        ∧ (badHeader msgRd = false ∧ memSpace 0x4000 = true ∧ s.exported 9 false 0x4000 64 = true ∧ ∀ b ∈ blocks 0x4000 64, s.isMem (b * 64) = true)
        ∧ (badHeader msgWr = false ∧ msgWr.op = 2 ∧ s.exported 9 true 0x4000 64 = true ∧ (∀ g ∈ msgWr.data, g.bytes.length = 32)))
    ∧ (let s := { sLnk pUp with exports := [(0, { en := true, w := true, r := true, any := true, base := 0, limit := 0x30000000000 })] }
      s.exported 9 false 0x21000000000 64 = true ∧ memSpace 0x21000000000 = true ∧ ∃ b ∈ blocks 0x21000000000 64, s.isMem (b * 64) = false) := by
  decide +kernel

/-- Requests outstanding: 5 a thread's store, 6 a fill, 7 a write-back. -/
def sRem : State :=
  let s := { sLnk pUp with remotes := [(5, { kind := .store 0, addr := 0x80000004000 }), (6, { kind := .fill 0 true 5, addr := 0x80000002000 }), (7, { kind := .wback 0 }), (8, { kind := .store 0, err := 4 })] }
  s.setCore 0 { s.core 0 with dcache := { (s.core 0).dcache with entries := [(5, { inflight := true, la := 0x8000000020, awaits := true })] } }

theorem witness_RemoteAnswers :
    ({ msg0 with did := 3 } : LinkMsg).did ≠ sRem.lnkId ∧ msg0.did = sRem.lnkId ∧ (kget ({} : Remote) sRem.remotes 0).kind = .none
    ∧ ((kget ({} : Remote) sRem.remotes 8).err = 4 ∧ (kget ({} : Remote) sRem.remotes 7).err = 0)
    ∧ ((kget ({} : Remote) sRem.remotes 5).kind = .store 0 ∧ (kget ({} : Remote) sRem.remotes 5).kind ≠ .none
      ∧ (∀ x, (kget ({} : Remote) sRem.remotes 5).kind ≠ .seWrite x ∧ (kget ({} : Remote) sRem.remotes 5).kind ≠ .seMap x))
    ∧ (kget ({} : Remote) sRem.remotes 7).kind = .wback 0
    ∧ ((kget ({} : Remote) sRem.remotes 6).kind = .fill 0 true 5 ∧ (sRem.centry 0 true 5).inflight = true) :=
  ⟨by decide +kernel, by decide +kernel, by decide +kernel, by decide +kernel, ⟨by decide +kernel, by decide +kernel, fun _ => ⟨fun h => (by cases h), fun h => (by cases h)⟩⟩, by decide +kernel, by decide +kernel⟩

/-- R378: the enabled byte 1 of the write lands, its neighbours stay. -/
theorem test_remote_write_enables : after (execLnkWr 3 msgWr (sLnk pUp)) (fun s => s.bytes 0x4000 4) = some [0#8, 1#8, 0#8, 0#8] := by decide +kernel

/-! ### Cadence port and gearing -/

/-- A raster of 10 by 100 counts, ten slices a frame; frame 7 began at count 7000 and it is count 7000 + `e`. -/
def cad0 : Cad :=
  { cfg := 0x8000000080014050#64, raster := 0x005000010064000A#64, chans := [(1, { en := true, fmt := 0, nslot := 16, actw := 8, ring := 0x10000 })]
    gl := .locked, link := true, fnum := 7, relock := true, pll := true, edge := some 6000 }
def sCad (k : Cad) (e : Nat) : State := { s0 with cad := k, clk := [(0x70, BitVec.ofNat 64 (7000 + e))] }

theorem witness_CadenceGenlock :
    (cad0.ftotal = 1000 ∧ cad0.synctol = 5 ∧ cad0.fs = 7000 ∧ RegOpen (sCad cad0 5))
    ∧ (let k : Cad := { cad0 with gl := .acquire, edge := some 6002 };
      k.gl = .acquire ∧ k.pll = true ∧ k.rlpend = false
        ∧ ((sCad k 7).vnow ≤ 6002 + k.ftotal + k.synctol ∧ 6002 + k.ftotal ≤ (sCad k 7).vnow + k.synctol)
        ∧ ¬ ((sCad k 8).vnow ≤ 6002 + k.ftotal + k.synctol ∧ 6002 + k.ftotal ≤ (sCad k 8).vnow + k.synctol) ∧ frameTotal k.raster = k.ftotal)
    ∧ ((sCad cad0 5).ref25 = true ∧ ({ sCad cad0 5 with ref25 := false } : State).ref25 = false)
    ∧ (cad0.lanesTrain = false ∧ ({ cad0 with lanesTrain := true, gl := .locked } : Cad).lanesTrain = true ∧ (1 : BitVec 4) ≠ 0 ∧ cad0.link = true)
    ∧ (cad0.gl = .locked ∧ (cad0.offset (sCad cad0 5).vnow).1.natAbs ≤ cad0.synctol ∧ cad0.synctol < (cad0.offset (sCad cad0 6).vnow).1.natAbs
      ∧ cad0.fs + cad0.synctol ≤ (sCad cad0 5).vnow ∧ 6000 + cad0.synctol < cad0.fs)
    ∧ (let k : Cad := { cad0 with gl := .holdover };
      k.gl ≠ .locked ∧ (k.gl ≠ .acquire ∨ k.pll = false))
    ∧ (s0.power.on.getLsbD 77 = true)
    ∧ (cad0.relock = true ∧ cad0.gl ≠ .off ∧ cad0.fs + cad0.ftotal ≤ (sCad cad0 1000).vnow ∧ cad0.rlpend = false ∧ (sCad cad0 999).vnow < cad0.fs + cad0.ftotal)
    ∧ (let k : Cad := { cad0 with rlpend := true, jobs := [{ pool := 0, chan := 1, frame := 20, first := 0, nsl := 2, start := 0, desc := 0 }] };
      k.rlpend = true ∧ k.refclk = true ∧ ∃ j ∈ k.jobs, ((sCad k 1000).vnow : Int) < ({ k with fnum := 8 } : Cad).check j.frame (j.first + j.nsl - 1))
    ∧ (let k : Cad := { cad0 with rlpend := true };
      k.rlpend = true ∧ k.refclk = true ∧ ∀ j ∈ k.jobs, ({ k with fnum := 8 } : Cad).check j.frame (j.first + j.nsl - 1) ≤ ((sCad k 1000).vnow : Int)) := by
  unfold RegOpen; dsimp only; and_intros <;> decide +kernel

/-- Slices of frame 7: 3 complete, 4 not, 5 with an error, 6 poisoned; a job covers 9. -/
def cadS : Cad :=
  { cad0 with
    slices := [{ chan := 1, frame := 7, slice := 3, complete := true }, { chan := 1, frame := 7, slice := 4 }, { chan := 1, frame := 7, slice := 5, hwerr := true },
      { chan := 1, frame := 7, slice := 6, complete := true, poison := true }]
    jobs := [{ pool := 0, chan := 1, frame := 7, first := 9, nsl := 1, start := 0, desc := 0 }] }
theorem witness_CadenceSlices :
    (let s := sCad cadS 0;
      RegOpen s ∧ s.cad.enabled = true ∧ (s.chan 1).en = true ∧ (s.chan 0).en = false ∧ s.cad.spf = 10 ∧ s.checkPassed 7 9 = false ∧ s.checkPassed 6 9 = true
        ∧ (∃ x ∈ s.cad.slices, x.chan = 1 ∧ s.cadSlot 1 x.frame x.slice = s.cadSlot 1 7 4) ∧ ¬ ∃ x ∈ s.cad.slices, x.chan = 1 ∧ s.cadSlot 1 x.frame x.slice = s.cadSlot 1 7 9)
    ∧ (let s := sCad cadS 0
      (s.cad.slices = cadS.slices.take 1 ++ { chan := 1, frame := 7, slice := 4 } :: cadS.slices.drop 2
        ∧ (∀ y ∈ cadS.slices.take 1, ¬ (y.chan = 1 ∧ y.complete = false)) ∧ ∀ x ∈ s.cad.slices, ¬ (x.chan = 0 ∧ x.complete = false)))
    ∧ (let s := sCad cadS 2000
      let k := s.cad
      (k.relock = true ∧ k.gl ≠ .off ∧ (9 : BitVec 16).toNat < k.spfNow ∧ k.check 7 9 < s.vnow ∧ k.decided = none) ∧ ¬ ((10 : BitVec 16).toNat < k.spfNow)
        ∧ k.link = true ∧ (∃ j ∈ k.jobs, j.covers 1 7 9 = true) ∧ (∀ x ∈ k.slices, ¬ (x.chan = 1 ∧ x.frame = 7 ∧ x.slice = 9))
        ∧ (∀ n, n < 4 → (k.slices[n]?).map (fun x => (x.hwerr, x.complete, x.poison)) = [some (false, true, false), some (false, false, false), some (true, false, false), some (false, true, true)].getD n none))
    ∧ (∃ j ∈ ({ cadS with cfg := 0x8001003200014050#64 } : Cad).jobs, j.covers 1 7 9 = true ∧ (sCad { cadS with cfg := 0x8FFF000080014050#64 } 0).underFloor j.pool = true)
    ∧ (¬ ∃ j ∈ cadS.jobs, j.covers 1 7 9 = true ∧ (sCad cadS 0).underFloor j.pool = true) ∧ cadS.jobs.any (fun j => j.covers 1 7 8) = false
    ∧ ({ cad0 with relock := false } : Cad).relock = false ∧ ({ cadS with link := false } : Cad).link = false := by
  unfold RegOpen; dsimp only; and_intros <;> decide +kernel

/-- A slice completed at the check instant itself, and one completed after it. -/
theorem witness_completed_late :
    let s := sCad cadS 2000
    let at_ (n : Nat) : List Slice := [{ chan := 1, frame := 7, slice := 3, complete := true, at_ := n }]
    (∀ x ∈ at_ (s.cad.check 7 3).toNat, x.at_ ≤ s.cad.check 7 3) ∧ (∀ x ∈ at_ (s.cad.check 7 3 + 1).toNat, s.cad.check 7 3 < x.at_) := by decide +kernel

/-- A submission at 0x4000: slices 0 and 1 of frame 8 on channel 1 for pool 2, one count of work. -/
def sSub (blocked : BitVec 4) (pool : Pool) : State :=
  let s := sCad { cad0 with submits := [0x4000#64, 0x8000#64], pools := [(2, pool)] } 0
  ({ s with gear := { s.gear with blocked := blocked }, parts := [(0, { en := true, ranges := [{ base := 0, limit := 2 ^ 40, share := false }] })] } : State).poke 0x4000
    (wordBytes [BitVec.ofNat 64 (2 * 2 ^ 32 + 2 * 2 ^ 8 + 1), 8#64, 0, 0, 1#64, 0, 0, 0])
def pool2 : Pool := { en := true, qdepth := 4 }

theorem witness_CadenceJobs :
    (RegOpen (sSub 0 pool2) ∧ (sSub 0 pool2).cad.submits.length < 64 ∧ cad0.submits = []
      ∧ ¬ ({ cad0 with submits := List.replicate 64 0#64 } : Cad).submits.length < 64)
    ∧ ((sSub 0 pool2).cad.submits = 0x4000#64 :: [0x8000#64] ∧ (0x4000#64).toNat % 64 = 0 ∧ (sSub 0 pool2).isMem 0x4000 = true)
    ∧ (let s := sSub 1 pool2
      (s.pool 2).en = true ∧ bit s.gear.blocked (s.pool 2).part = true)
    ∧ (∀ p ∈ [(pool2, 0), ({ pool2 with en := false }, 1)], let s := sSub 0 p.1
      let w := (List.range 8).map (fun i => BitVec.ofNat 64 (s.word (0x4000 + 8 * i) 8))
      fld (w.getD 0 0) 11 8 = 2 ∧ ¬ ((s.pool 2).en = true ∧ bit s.gear.blocked (s.pool 2).part = true)
        ∧ (s.cadVerdict 0x4000 w (s.anyBad 0x4000 64 0)).code = p.2)
    ∧ (let j : Job := { pool := 2, chan := 1, frame := 8, first := 0, nsl := 2, start := 7000, desc := 0x4000 }
      let s := sCad { cad0 with jobs := [{ j with started := true }, j] } 0
      s.cad.jobs = [{ j with started := true }] ++ j :: [] ∧ (∀ i ∈ [{ j with started := true }], ¬ (i.pool = 2 ∧ i.started = false)) ∧ j.pool = 2 ∧ j.started = false
        ∧ j.start ≤ s.vnow ∧ s.vnow < ({ j with start := 7001 } : Job).start ∧ ∀ i ∈ s.cad.jobs, ¬ (i.pool = 3 ∧ i.started = false)) := by
  unfold RegOpen; dsimp only; and_intros <;> decide +kernel

/-- The words of the submission; every check of Table CAD-7 passes, and with the pool absent the second is the first to fail. -/
def subWords (s : State) : List Word := (List.range 8).map (fun i => BitVec.ofNat 64 (s.word (0x4000 + 8 * i) 8))
theorem witness_job_checks :
    (∀ e ∈ jobChecks (sSub 0 pool2) 0x4000 (subWords (sSub 0 pool2)), ¬ e.fails)
    ∧ (∃ c, (jobChecks (sSub 0 { pool2 with en := false }) 0x4000 (subWords (sSub 0 { pool2 with en := false })))[1]? = some c ∧ c.fails)
    ∧ ∀ m < 1, ∀ e, (jobChecks (sSub 0 { pool2 with en := false }) 0x4000 (subWords (sSub 0 { pool2 with en := false })))[m]? = some e → ¬ e.fails := by
  refine ⟨?_, ⟨_, rfl, by decide +kernel⟩, ?_⟩
  · intro e he
    simp only [jobChecks, List.mem_cons, List.not_mem_nil, or_false] at he
    obtain rfl | rfl | rfl | rfl | rfl | rfl | rfl | rfl | rfl | rfl | rfl := he <;> dsimp only <;> decide +kernel
  · intro m hm e he
    obtain rfl : m = 0 := by omega
    simp only [jobChecks, List.getElem?_cons_zero, Option.some.injEq] at he
    subst he
    dsimp only
    decide +kernel
theorem witness_job_signals : (BitVec.ofNat 64 (2 ^ 48 + 2 * 2 ^ 32 + 2 * 2 ^ 8 + 1)).getLsbD 48 = true := by decide +kernel

def sGear (g : Gear) : State := { s0 with gear := g }
def img0 : Image := { bytes := 8, words := [] }

theorem witness_GearingImage :
    (State.reset.sec.phase ≠ .running ∧ (sGear {}).sec.phase = .running ∧ (sGear {}).gear.st = .noImage ∧ (sGear { st := .active }).gear.st = .active
      ∧ (sGear { st := .waiting }).gear.st = .waiting ∧ (sGear { st := .applying }).gear.st ≠ .noImage ∧ (0x3#64).getLsbD 2 = false)
    ∧ ((sGear {}).ref25 = true ∧ (sGear {}).power.down = false ∧ ({ sGear {} with ref25 := false } : State).ref25 = false)
    ∧ (let s : State := { sGear {} with power := { s0.power with down := true } }
      s.power.down = true)
    ∧ ((sGear { st := .validating }).gear.st = .validating ∧ (none : Option Image) = none
      ∧ (sGear { st := .validating, loadLen := 8 }).imageFail img0 8 true = some { code := 1 })
    ∧ ((sGear { st := .waiting, waitp := 2 }).gear.st = .waiting ∧ (sGear { st := .waiting, waitp := 2 }).allQuiet = true ∧ s0.allQuiet = true)
    ∧ (let s := sGear { st := .applying, loading := some img0 }
      s.gear.st = .applying ∧ s.gear.loading = some img0 ∧ s.gear.store = false ∧ s.power.warmWait = false)
    ∧ (let s := { sGear { st := .applying, loading := some img0, store := true, memReady := true } with power := { s0.power with warmWait := true } }
      s.gear.st = .applying ∧ s.gear.store = true ∧ s.power.warmWait = true) := by decide +kernel

/-- An image that passes validation does so while the controller is validating it, with nothing in effect or with itself in effect: the
clauses of `GearLoads` about an accepted image are met by every image that passes. (That one passes rests on its signatures, which
`Config.ed25519Verify` decides.) -/
theorem witness_GearingImage_accepted (s : State) (i : Image) (h : s.imageFail i i.bytes true = none) :
    (let s1 : State := { s with gear := { s.gear with st := .validating, flash := false, loadLen := i.bytes } };
      s1.gear.st = .validating ∧ s1.imageFail i i.bytes true = none ∧ (s.gear.image = none → s1.changesNothing i = false)
        ∧ (s.gear.image = some i → imgHas i 10 = false → s1.changesNothing i = true)) := by
  refine ⟨rfl, h, fun hn => ?_, fun hi hp => ?_⟩
  · simp [State.changesNothing, hn]
  · simp [State.changesNothing, hi, hp, State.globalDiff, partAffected, secDiff, coreDiff, named]

/-! ### Host interface -/

/-- Configuration of a queue of 16 slots, depth 2, context 10241; a queue with it, and its context. -/
def hqCfg : Word := 0x8000000000020001#64
def hq0 : HostQ := { cfg := hqCfg, st := .idle, head := 3, tail := 5, cqbase := 0x10000#64, phase := true }
def sHq (x : HostQ) (k : Ctx) : State := { s0 with host := { s0.host with queues := [(4, x)], bme := true }, ctxs := [(10241, k)] }
def kBulk : Ctx := { st := .idle, cls := .bulk }
def eNop : HqEntry := { entry0 with word0 := 0x50000#64 }
def eXfer : HqEntry := { entry0 with word0 := 0x50001#64, arg0 := 0x3000#64 }
def eSig : HqEntry := { entry0 with word0 := 0x50002#64, arg0 := 0x10007#64 }
def eWait : HqEntry := { entry0 with word0 := 0x50003#64, arg0 := 0x10007#64, arg1 := 9#64 }
def eBad : HqEntry := { entry0 with word0 := 0x50004#64 }

theorem witness_HostQueues :
    ((RegOpen (sHq {} kBulk) ∧ hqCfg.getLsbD 63 = true ∧ (sHq {} kBulk).hqOk 4 hqCfg = true ∧ (sHq {} {}).hqOk 4 hqCfg = false ∧ (0#64).getLsbD 63 = false
        ∧ fld (0x1F#64) 15 0 ≥ hq0.slots)
      ∧ (let x := (sHq hq0 kBulk).hq 4
        (x.st ≠ .off ∧ x.st ≠ .stopping ∧ x.head ≠ x.tail ∧ (sHq hq0 kBulk).host.bme = true) ∧ x.accepted < x.depth ∧ x.started = false ∧ x.blocked = []
          ∧ x.fetched = [] ∧ ((sHq hq0 kBulk).ctx x.ctx).st = .idle ∧ x.free = true)
      ∧ ((sHq { hq0 with cqtail := 3, cqhead := 4 } kBulk).hq 4).free = false
      ∧ (let x := (sHq { hq0 with accepted := 2 } kBulk).hq 4
        x.depth ≤ x.accepted ∧ ((sHq hq0 kBulk).ctx x.ctx).cls = .bulk ∧ ((sHq hq0 { st := .idle, cls := .step }).ctx x.ctx).cls ≠ .bulk)
      ∧ ({ hq0 with started := true } : HostQ).started = true ∧ (sHq { hq0 with head := 5 } kBulk).hq 4 = { hq0 with head := 5 }
      ∧ (HqEntry_bad eBad = true ∧ 3 < fld eBad.word0 7 0 ∧ HqEntry_bad eNop = false ∧ fld eNop.word0 7 0 = 0 ∧ HqEntry_bad eXfer = false ∧ fld eXfer.word0 7 0 = 1
        ∧ HqEntry_bad eSig = false ∧ fld eSig.word0 7 0 = 2 ∧ HqEntry_bad eWait = false ∧ fld eWait.word0 7 0 = 3 ∧ fld eWait.arg0 29 14 ≠ 0
        ∧ HqEntry_bad { eWait with arg0 := 7#64 } = false ∧ fld ({ eWait with arg0 := 7#64 } : HqEntry).arg0 29 14 = 0))
    ∧ (((sHq hq0 kBulk).hq 4).running = none
      ∧ (∀ e ∈ [eXfer, eSig, eWait], let x : HostQ := { hq0 with st := .running, started := true, fetched := [(2, e)] }
        let s := sHq x kBulk
        (s.hq 4).started = true ∧ (s.hq 4).fetched = [(2, e)] ∧ (s.hq 4).st = .running ∧ (s.hq 4).blocked = [] ∧ s.host.bme = true ∧ RegOpen s ∧ (s.hq 4).free = true)
      ∧ (kBulk.st ≠ .active ∧ kBulk.st ≠ .cancelling ∧ fld eWait.arg1 47 0 ≠ 2 ^ 48 - 1 ∧ fld ({ eWait with arg1 := 0xFFFFFFFFFFFF#64 } : HqEntry).arg1 47 0 = 2 ^ 48 - 1)
      ∧ (RegOpen (sHq hq0 kBulk) ∧ hq0.st ≠ .off ∧ hq0.st ≠ .stopping ∧ hq0.fetched = [] ∧ hq0.blocked = [] ∧ ({} : HostQ).st = .off ∧ ({ hq0 with st := .stopping } : HostQ).st = .stopping)
      ∧ (let r : HqRec := { status := 0, tag := 5, entry := 2, irq := false, yield := 0, elements := 0, nfault := 0, overrun := 0 }
        let x : HostQ := { hq0 with st := .running, blocked := [r], cqtail := 3, cqhead := 4 }
        x.blocked = [r] ∧ x.fetched = [] ∧ x.st ≠ .off ∧ x.st ≠ .stopping ∧ ({ x with cqhead := fld (5#64) 15 0 } : HostQ).free = true
          ∧ ({ x with cqhead := fld (4#64) 15 0 } : HostQ).free = false)) := by
  unfold RegOpen; dsimp only; and_intros <;> decide +kernel

/-- The WAIT of queue 4 for a count of 4 of semaphore 7 within 9 cycles, and its take. -/
def hqRun : HostQ := { hq0 with st := .running, started := true, fetched := [(2, eWait)] }
def hqTake : SemReq := { sem := 7, who := 0xD004, ask := .take 4 }
def sHqW (x : HostQ) (n : Nat) (c : BitVec 16) (q : List SemReq) : State :=
  { sHq x kBulk with clk := [(0x40, BitVec.ofNat 64 n)], sem := [(7, c)], semQ := q }
def hqLate (s : State) : Bool := decide (fld eWait.arg1 47 0 ≠ 2 ^ 48 - 1) && decide (fld eWait.arg1 47 0 < (s.count 0x40 - (s.hq 4).waitAt).toNat)
theorem witness_host_wait :
    (hqLate (sHqW hqRun 10 0 []) = true ∧ hqLate (sHqW hqRun 9 0 []) = false ∧ ((sHqW hqRun 10 0 []).semQ = [] ∧ (sHqW hqRun 10 0 [hqTake]).semQ ≠ []))
    ∧ (fld eWait.arg0 13 0 = 7 ∧ fld eWait.arg0 29 14 = 4 ∧ (sHqW hqRun 10 0 [hqTake]).semQ = [hqTake] ∧ hqTake.sem = 7 ∧ hqTake.who = 0xD000 + 4 ∧ hqTake.ask = .take 4)
    ∧ (4 ≤ ((sHqW hqRun 10 4 [hqTake]).semCount 7).toNat ∧ ((sHqW hqRun 10 3 [hqTake]).semCount 7).toNat < 4
      ∧ ((sHqW { hqRun with expired := true } 9 3 [hqTake]).hq 4).expired = true ∧ ((sHqW hqRun 9 3 [hqTake]).hq 4).expired = false)
    ∧ (∀ x ∈ [hqRun, { hqRun with expired := true }], (x.started = true ∧ x.fetched = [(2, eWait)] ∧ x.st = .running ∧ x.blocked = [])) := by decide +kernel

/-- The link up, BAR2 of 2^36 bytes at local address 0, memory ready, a read of the window under way. -/
def sBar (prots : KMap Prot) : State :=
  { s0 with
    host := { s0.host with linkUp := true, bar2Size := 2 ^ 36, atc := [(3, 30), (7, 70)], ide := true
                           reads := [{ tag := 2, who := .ctx 0, addr := 0x7000, size := 8 }, { tag := 1, who := .thread 0, addr := 0x5000, size := 8 }] }
    gear := { s0.gear with memReady := true }, prots := prots }

theorem witness_HostAccess :
    (let s := sBar [];
      s.fnReady = true ∧ 64 ≠ 0 ∧ (0xFFFFFFFC0#48).toNat + 64 ≤ s.host.bar2Size ∧ ¬ (0xFFFFFFFC1#48).toNat + 64 ≤ s.host.bar2Size ∧ s.bar2Off = false
        ∧ s.bar2Mem (s.bar2Addr 0xFFFFFFFC0) 64 = true ∧ [1#8] ≠ [] ∧ 0x40 / 64 = (0x40 + 64 - 1) / 64)
    ∧ (let s := { sBar [] with power := { s0.power with down := true } }
      s.fnReady = true ∧ s.bar2Off = true)
    ∧ s0.fnReady = false
    ∧ (let s := sBar [(0, { en := true, base := 0, limit := 0x1000, nohost := true })]
      s.bar2Off = false ∧ s.bar2Mem (s.bar2Addr 0) 8 = false)
    ∧ (let s := sBar []
      (∀ r ∈ s.host.reads, r.tag ≠ 9) ∧ s.host.reads = s.host.reads.take 1 ++ { tag := 1, who := .thread 0, addr := 0x5000, size := 8 } :: []
        ∧ (∀ x ∈ s.host.reads.take 1, x.tag ≠ 1) ∧ (List.replicate 8 (0#8 : Byte)).length = 8 ∧ (∀ q, q < 64 → (s.hq q).started = false)
        ∧ (∀ x ∈ s.host.atc, x.1 ≠ 2) ∧ (∃ x ∈ s.host.atc, x.1 = 3) ∧ (∀ r ∈ s.host.reads, s.busAddr r.addr / 4096 ≠ 3) ∧ (∃ x ∈ s.host.atc, x.1 = 7) ∧ (∃ r ∈ s.host.reads, s.busAddr r.addr / 4096 = 7) ∧ s.host.ide = true) := by
  dsimp only; and_intros <;> decide +kernel

/-- A read of the host window for the TAP is under way. -/
theorem witness_host_read_of_tap :
    let s : State := { sBar [] with host := { (sBar []).host with reads := [{ tag := 1, who := .host, addr := 0x5000, size := 8 }] } }
    s.host.reads = [] ++ { tag := 1, who := .host, addr := 0x5000, size := 8 } :: [] ∧ (∀ x ∈ ([] : List HostRead), x.tag ≠ 1)
      ∧ (s.host.reads.map (fun r => (r.pel, r.size))) = [(none, 8)] := by decide +kernel

/-! ### Security Controller, start-up, power, test access, registers, events -/

def sSec (c : Sec) : State := { s0 with sec := c, host := { s0.host with linkUp := true } }
/-- The firmware runs, confirmed, with an I3C address; a request waits at BAR4. -/
def cRun : Sec := { s0.sec with phase := .running, i3cDyn := some 9, mbxBusy := true }

theorem witness_Attestation :
    (State.reset.spdmLive .mctp = false ∧ s0.spdmLive .doe = false ∧ (sSec cRun).spdmLive .doe = true ∧ (sSec cRun).spdmLive .mctp = true)
    ∧ (((sSec cRun).sec.spdm .doe).version = false ∧ ((sSec cRun).sec.spdm .doe).caps = false ∧ ((sSec cRun).sec.spdm .doe).algs = false
      ∧ ((sSec cRun).sec.spdm .doe).session ≠ 1 ∧ ((sSec cRun).sec.spdm .doe).session ≠ 2)
    ∧ (let x := (sSec { cRun with doe := { version := true, caps := true, algs := true, session := 2 } }).sec.spdm .doe
      x.version = true ∧ x.caps = true ∧ x.algs = true ∧ x.session = 2)
    ∧ ((1 : Fin 8) ≠ 0 ∧ (5#8 : Byte).toNat ≤ 5 ∧ (0xFF#8 : Byte).toNat = 0xFF ∧ 5 < (6#8 : Byte).toNat ∧ (6#8 : Byte).toNat ≠ 0xFF)
    ∧ (∀ bs n, Config.finishOk bs n = true → let s : State := { sSec { cRun with doe := { session := 1 } } with fresh := n }
      s.spdmLive .doe = true ∧ (s.sec.spdm .doe).session = 1 ∧ Config.finishOk bs s.fresh = true) := by
  refine ⟨by decide +kernel, by decide +kernel, by decide +kernel, by decide +kernel, fun bs n h => ⟨?_, rfl, h⟩⟩
  rfl

/-- A session of eight bytes over I3C. What ends a session or counts a signed message as good rests on signatures, which
`Config.ed25519Verify` decides: those clauses are met under the premise that one verifies. -/
def ses (sag : Bool) : Session := { sag := sag, path := .i3c, len := 8, staging := List.replicate 8 0 }
theorem witness_MailboxSessions :
    (State.reset.mbxLive .i3c = false ∧ s0.mbxLive .bar4 = false ∧ (sSec { cRun with mbxBusy := false }).mbxLive .bar4 = false ∧ (sSec cRun).mbxLive .bar4 = true ∧ (sSec { cRun with phase := .sag }).mbxLive .i3c = true)
    ∧ (cRun.phase = .running ∧ ({ cRun with phase := .sag } : Sec).phase = .sag ∧ (sSec cRun).sec.session = none ∧ 2 ^ 26 < 2 ^ 26 + 1 ∧ 2 ^ 26 ≤ 2 ^ 26)
    ∧ (∀ sag : Bool, let s := sSec { cRun with phase := if sag then .sag else .running, session := some (ses sag) }
      s.sec.session ≠ none ∧ s.sessionOf sag .i3c = some (ses sag) ∧ s.sessionOf sag .bar4 = none ∧ (ses sag).len < 8 + [1#8].length ∧ 7 + [1#8].length ≤ (ses sag).len)
    ∧ (({ cRun with session := none } : Sec).endUpdate (ses false).staging).2 ≠ 0
    ∧ (({ cRun with phase := .sag } : Sec).slotCheck (ses true).staging ≠ 0)
    ∧ ((cRun.slot true).st ≠ .pending ∧ (cRun.slot true).st ≠ .good ∧ (({ cRun with slotB := { st := .pending } } : Sec).slot true).st = .pending)
    ∧ (∀ c l, Sec.slotCheck c l = 0 → let s := sSec { c with phase := .sag, flashWp := false, session := some { ses true with staging := l } }
      s.sec.phase = .sag ∧ s.sessionOf true .i3c = some { ses true with staging := l } ∧ s.sec.slotCheck l = 0 ∧ s.sec.flashWp = false)
    ∧ (∀ c l bad, l.length ≤ 2 ^ 25 → Sec.slotCheck c l = 0 → let s := sSec { c with phase := .sag, flashWp := false, flashBadA := bad, flashBadB := true, session := some { ses true with staging := l } }
      s.sec.slotCheck (l.take (2 ^ 25)) = 0 ∧ s.sec.flashBadA = bad ∧ s.sec.flashBadB = true) := by
  refine ⟨by decide +kernel, by decide +kernel, by decide +kernel, by decide +kernel, by decide +kernel, by decide +kernel, fun c l h => ⟨rfl, rfl, h, rfl⟩,
    fun c l bad hl h => ⟨?_, rfl, rfl⟩⟩
  rw [List.take_of_length_le hl]; exact h

def keyA : Key := { role := .owner, key := 1 }
theorem witness_MailboxKeys :
    ((sSec cRun).mbxLive .bar4 = true ∧ (sSec { cRun with phase := .sag }).mbxLive .i3c = true ∧ ({ cRun with phase := .sag } : Sec).phase ≠ .running ∧ cRun.phase = .running)
    ∧ (cRun.enrollSigned .owner 1 [] = false ∧ cRun.byBoth [] [] = false ∧ cRun.byOwner [] [] = false)
    ∧ (∀ sig, Config.ed25519Verify 1 (cRun.covered (Config.mbxBody 0x07 1 1)) sig = true →
      cRun.enrollSigned .owner 1 [{ role := .owner, key := 1, sig := sig }] = true ∧ keyA ∉ cRun.keys ∧ (cRun.keysOf .owner).length < 4
        ∧ ({ cRun with flashWp := false } : Sec).enrollSigned .owner 1 [{ role := .owner, key := 1, sig := sig }] = true)
    ∧ (∀ (c : Sec) (body : List Byte) (sigs : List MbxSig) (k : Key), c.byBoth body sigs = true → ∀ wp, let c1 : Sec := { c with phase := .running, flashWp := wp }
      c1.byBoth body sigs = true ∧ c1.flashWp = wp ∧ (k ∈ c1.keys ↔ k ∈ c.keys) ∧ (k.role = .operator → ¬ (k.role = .owner ∧ (c1.keysOf .owner).length ≤ 1)))
    ∧ (∀ (c : Sec) (body : List Byte) (sigs : List MbxSig), c.byOwner body sigs = true → ∀ wp, let c1 : Sec := { c with phase := .running, flashWp := wp, gearSvn := 5 }
      c1.byOwner body sigs = true ∧ c1.flashWp = wp ∧ (4#32).toNat < c1.gearSvn.toNat ∧ c1.gearSvn.toNat ≤ (5#32).toNat) := by
  refine ⟨by decide +kernel, by decide +kernel, fun sig h => ⟨?_, by decide +kernel, by decide +kernel, ?_⟩, fun c body sigs k h wp => ⟨h, rfl, Iff.rfl, fun hr ho => ?_⟩,
    fun c body sigs h wp => ⟨h, rfl, (by decide : (4#32).toNat < (5#32).toNat), (by decide : (5#32).toNat ≤ (5#32).toNat)⟩⟩
  · simpa [Sec.enrollSigned, Sec.keysOf, Sec.covered, cRun, Role.code, List.any, s0, demo, State.reset] using h
  · simpa [Sec.enrollSigned, Sec.keysOf, Sec.covered, cRun, Role.code, List.any, s0, demo, State.reset] using h
  · rw [hr] at ho; exact absurd ho.1 (by decide)

theorem witness_MailboxSessionsAndKeys : (sSec cRun).mbxLive .bar4 = true ∧ (sSec cRun).sec.session = none ∧ (sSec cRun).sec.phase = .running
    ∧ (sSec cRun).sec.enrollSigned .owner 1 [] = false :=
  ⟨witness_MailboxSessions.1.2.2.2.1, witness_MailboxSessions.2.1.2.2.1, witness_MailboxSessions.2.1.1, witness_MailboxKeys.2.1.1⟩

theorem witness_StartUp :
    (State.reset.power.pwrOk = false ∧ (let s := { s0 with power := { s0.power with pwrOk := true } }
      s.power.pwrOk = true ∧ s.power.inRange = false) ∧ s0.power.pwrOk = false)
    ∧ (s0.power.down = false ∧ s0.power.on.getLsbD 72 = true)
    ∧ (let s : State := { s0 with power := { s0.power with down := true }, events := { queues := [(.sc, [{ code := 0x504, cls := 5, domain := 0x80, counter := 0, location := 0, detail := 0 }])] } }
      s.power.down = true ∧ s.events.queues.length = 1 ∧ (s.ring (s.events.ringFor 5)).lost = 0)
    ∧ (s0.romReady = false ∧ (let s := { s0 with power := { s0.power with pwrOk := true }, sec := { s0.sec with phase := .off } }
      s.romReady = true ∧ s.sec.sagPin = false ∧ s.sec.chooseSlot.1 = none))
    ∧ (let s := { s0 with sec := { cRun with watchdog := true, slotA := { st := .pending, fails := 2 } }, power := { s0.power with perstHigh := true }, host := { s0.host with linkUp := true } }
      s.sec.watchdog = true ∧ s.power.perstHigh = true ∧ s.sec.phase = .running ∧ s.host.linkUp = true ∧ 3 ≤ (s.sec.slot s.sec.running).fails + 1)
    ∧ (s0.sec.watchdog = false)
    ∧ (∀ c l, Sec.slotCheck c l = 0 → ∀ st, st ≠ .empty → st ≠ .failed →
      ({ c with sagPin := false, next := false, slotA := { st := st, bytes := l } } : Sec).chooseSlot.1 = some false
        ∧ ({ c with sagPin := false, next := true, slotA := { st := st, bytes := l }, slotB := {} } : Sec).chooseSlot.1 = some false) := by
  refine ⟨by decide +kernel, by decide +kernel, by decide +kernel, by decide +kernel, by decide +kernel, by decide +kernel, fun c l h st h1 h2 => ⟨?_, ?_⟩⟩
  · have : ({ c with sagPin := false, next := false, slotA := { st := st, bytes := l } } : Sec).slotCheck l = 0 := h
    simp [Sec.chooseSlot, Sec.try1, Sec.slot, h1, h2, this]
  · have : ({ c with sagPin := false, next := true, slotA := { st := st, bytes := l }, slotB := {} } : Sec).slotCheck l = 0 := h
    simp [Sec.chooseSlot, Sec.try1, Sec.slot, h1, h2, this]

theorem witness_ResetsAndLink :
    (s0.power.perstHigh = false ∧ s0.power.down = false ∧ s0.power.warmWait = false ∧ s0.power.loadDue = false)
    ∧ (let s := { s0 with power := { s0.power with perstHigh := true } }
      s.power.perstHigh = true ∧ s.power.down = false ∧ s.gear.st ≠ .applying ∧ s.power.on.getLsbD 73 = true ∧ s.sec.phase ≠ .off)
    ∧ (let s := { s0 with power := { s0.power with perstHigh := true, down := true } }
      s.power.perstHigh = true ∧ s.power.down = true)
    ∧ (let s := { s0 with power := { s0.power with perstHigh := true }, gear := { s0.gear with st := .applying } }
      s.power.perstHigh = true ∧ s.power.down = false ∧ s.gear.st = .applying)
    ∧ (let s := { s0 with power := { s0.power with trained := true } }
      s.power.perstHigh = false ∧ s.power.loadDue = false ∧ s.power.trained = true)
    ∧ (let s := { s0 with power := { s0.power with loadDue := true }, ref25 := true }
      s.power.perstHigh = false ∧ s.power.loadDue = true ∧ s.ref25 = true ∧ s.sec.phase = .running ∧ s.power.down = false ∧ s.power.warmWait = false ∧ s.gear.image = none ∧ s.gear.stored = none ∧ s.power.on.getLsbD 72 = true)
    ∧ (let s : State := { s0 with power := { s0.power with loadDue := true }, sec := { s0.sec with phase := .sag } }
      s.power.perstHigh = false ∧ s.power.loadDue = true ∧ s.power.down = false ∧ s.power.warmWait = false ∧ s.sec.phase ≠ .running)
    ∧ ({ s0 with ref25 := false } : State).ref25 = false := by decide +kernel

theorem witness_LimitsAndProtection :
    (State.reset.sec.phase ≠ .running ∧ s0.sec.phase = .running ∧ s0.power.down = false)
    ∧ (let s := { s0 with power := { s0.power with plim := 1000, on := 0xFFFFFFFFFFFFFEFFFF#80, ptgt := [(0, 3000)] } }
      s.power.on.getLsbD (0 * 18 + 16) = false ∧ s.power.on.getLsbD (1 * 18 + 16) = true ∧ s.power.plim < 1001 ∧ 969 * 100 < s.power.plim * 97
        ∧ 970 ≤ s.power.plim ∧ s.power.plim * 97 ≤ 970 * 100)
    ∧ (¬ (115 < 115 ∨ s0.hub.thermN = true ∨ s0.power.on.getLsbD 72 = false) ∧ 114 < 115)
    ∧ (s0.power.on.getLsbD 72 = true ∧ s0.ref25 = true ∧ State.reset.power.on.getLsbD 72 = false) := by decide +kernel

theorem witness_TestAccess :
    (State.reset.power.on.getLsbD 72 = false ∧ s0.power.on.getLsbD 72 = true ∧ s0.ref25 = true ∧ ({ s0 with ref25 := false } : State).ref25 = false ∧ s0.gear.dbg = 0 ∧ s0.tapPermits 0xFF = false ∧ s0.tapPermits 1 = true)
    ∧ (∀ n : Fin 4, let s := { s0 with gear := { s0.gear with dbg := n.val }, prots := [(0, { en := true, sconly := true, base := 0x1000, limit := 0x2000 })] }
      s.gear.dbg = n.val ∧ (0x1000#48).toNat % 8 = 0 ∧ s.isMem (0x1000#48).toNat = true ∧ s.scOnly 0x1000 = true ∧ s.scOnly 0x2000 = false ∧ s.isMem 0x2000 = true) := by
  decide +kernel

/-- A debug read of the host window. -/
theorem witness_debug_host_window :
    let s : State := { s0 with gear := { s0.gear with dbg := 1 }, host := { s0.host with bme := true } }
    s.power.on.getLsbD 72 = true ∧ (0x40000002008#48).toNat % 8 = 0 ∧ 1 ≤ s.gear.dbg ∧ s.scOnly (0x40000002008#48).toNat = false
      ∧ s.place (0x40000002008#48).toNat = .host 0x2008 ∧ s.host.bme = true := by decide +kernel

theorem witness_RegisterAccess :
    (let s := { s0 with host := { s0.host with linkUp := true } };
      RegOpen s ∧ s.fnReady = true ∧ ¬ ((Writer.host = .host ∧ s.fnReady = false) ∨ s.scReg 0x40008 = true) ∧ (regAt 0x40008).isSome = true ∧ regAt 0x40001 = none
        ∧ s.prots = [] ∧ s.scReg 0x500208 = false ∧ (∀ x, Writer.host ≠ .ctx x) ∧ (regAt 0x40008).any (fun r => s.served r) = true)
    ∧ (let s := { s0 with power := { s0.power with down := true }, host := { s0.host with linkUp := true } }
      (regAt 0x40008).any (fun r => !s.served r) = true)
    ∧ (Writer.host = .host ∧ s0.fnReady = false ∧ regAt 0x40008 ≠ some .cadCommit)
    ∧ ((0x70#12).toNat ∈ clockIds ∧ (0x71#12).toNat ∉ clockIds ∧ s0.snapBusy = false)
    ∧ (let s := { s0 with snapBusy := true, snapWait := [0x50, 0x60] }
      s.snapBusy = true ∧ (0x60#12).toNat ∈ s.snapWait ∧ (0x70#12).toNat ∉ s.snapWait) := by
  refine ⟨⟨by unfold RegOpen; decide +kernel, by decide +kernel, by decide +kernel, by decide +kernel, by decide +kernel, by decide +kernel, by decide +kernel,
    by intro x h; exact Writer.noConfusion h, by decide +kernel⟩, by decide +kernel, by decide +kernel, by decide +kernel, by decide +kernel⟩

/-- One record of class 3 or 5 in a unit's queue, ring 0 as given. -/
def ev0 (cls : Nat) : Event := { code := 0x102, cls := cls, domain := 0x40, counter := 9, location := 1, detail := 2 }
def sEv (cls : Nat) (x : Ring) : State :=
  { s0 with gear := { s0.gear with memReady := true }, host := { s0.host with bme := true }
            events := { queues := [(.hub, [ev0 cls, ev0 3])], rings := [(0, x)], ringOf := 0 } }

theorem witness_EventRings :
    (State.reset.clkOff.contains 0x40 = true ∧ (∀ q ∈ s0.events.queues, q.2 = []))
    ∧ (let s := sEv 3 { en := true, space := true, base := 0x10000#64 }
      s.clkOff.contains 0x40 = false ∧ s.events.queues = [(.hub, ev0 3 :: [ev0 3])] ∧ s.events.ringFor 3 = 0 ∧ ¬ ((ev0 3).cls ≠ 5 ∧ bit s.events.dis 3 = true)
        ∧ s.ringOk (s.ring 0) = true ∧ (s.ring 0).room ≠ 0 ∧ (s.ring 0).since = 0 ∧ (s.ring 0).space = true ∧ RegOpen s)
    ∧ (let s := sEv 5 {}
      (ev0 5).cls = 5 ∧ s.events.fatalValid = false ∧ s.ringOk (s.ring 0) = false ∧ ∃ q ∈ s.events.queues, q.2 = ev0 5 :: [ev0 3] ∧ (ev0 5).cls = 5)
    ∧ (let s := { sEv 3 {} with events := { (sEv 3 {}).events with dis := 0x3F, fatalValid := true } }
      (ev0 3).cls ≠ 5 ∧ bit s.events.dis (ev0 3).cls = true ∧ s.events.fatalValid = true)
    ∧ (let s := sEv 3 { en := true, base := 0x10000#64, since := 1, tail := 62, lost := 0 }
      s.ringOk { s.ring 0 with tail := (s.ring 0).tail + 1 } = true)
    ∧ (let s := sEv 3 { en := true, space := true, size := 2, base := 0x17FFFFFF000#64, since := 1, head := 100, tail := 127, lost := 0 }
      s.ringOk (s.ring 0) = true ∧ 2 ≤ (s.ring 0).room ∧ s.ringOk { s.ring 0 with tail := (s.ring 0).tail + 1 } = false)
    ∧ (∀ q ∈ [(62, 2), (63, 1)], let s := sEv 3 { en := true, base := 0x10000#64, since := 1, tail := BitVec.ofNat 32 q.1, lost := 0xFFFFFFFF }
      s.ringOk (s.ring 0) = true ∧ (s.ring 0).since ≠ 0 ∧ (s.ring 0).room = q.2 ∧ (s.ring 0).space = false)
    ∧ ((sEv 3 { en := true, base := 0x10000#64, tail := 64 }).ring 0).room = 0
    ∧ ((sEv 3 {}).events.choice.map (·.2.cls) = some 3) ∧ ((0x8000000000000000#64).getLsbD 63 = true ∧ (0#64).getLsbD 63 = false) := by
  unfold RegOpen; dsimp only; and_intros <;> decide +kernel
end Sys2Proof.Tests
end

section
/-! SUPPORT. Branches and jumps (R98, R99): what register writes, boundaries and branches leave of a thread's position, the operands
of a branch as bit vectors, and what B, BL, JR and JLR do once they fire. -/

namespace Sys2Proof.Machine

/-! ### A thread's position -/

@[simp] theorem Thread.wg_pos (th : Thread) (r : Nat) (v : Word) : (th.wg r v).pos = th.pos := by
  unfold Thread.wg; split <;> rfl

@[simp] theorem Thread.wp_pos (th : Thread) (r : Nat) (x : PReg) : (th.wp r x).pos = th.pos := by
  unfold Thread.wp; split <;> rfl

@[simp] theorem RegWrite.apply_pos (th : Thread) (w : RegWrite) : (RegWrite.apply th w).pos = th.pos := by
  cases w with
  | g r y => exact th.wg_pos r y
  | v r x => rfl
  | p r x => exact th.wp_pos r x
  | prod hi lo => rfl

@[simp] theorem Thread.apply_pos (th : Thread) (l : List RegWrite) : (th.apply l).pos = th.pos := by
  induction l generalizing th with
  | nil => rfl
  | cons w l ih => exact (ih _).trans (RegWrite.apply_pos th w)

/-- Results that become visible at a boundary are register writes: the thread stays where it is. -/
@[simp] theorem Thread.commit_pos (th : Thread) : th.commit.pos = th.pos := by
  have hfold : ∀ (l : List Pend) (x : Thread), (l.foldl (fun y p => y.apply p.writes) x).pos = x.pos := by
    intro l
    induction l with
    | nil => exact fun _ => rfl
    | cons p l ih => exact fun x => (ih _).trans (x.apply_pos p.writes)
  exact hfold _ th

@[simp] theorem Thread.unshadow_shadow (th : Thread) : th.unshadow.shadow = none := by
  unfold Thread.unshadow
  split
  · rfl
  · assumption

/-- After a branch, taken or not, the thread stands at the delay slot, outside any shadow (R99). -/
theorem Thread.takeBranch_pos (th : Thread) (tg : Option Word) :
    (th.takeBranch tg).pos
      = { pc := th.pc + 8#64, delay := some { branch := th.pc, target := tg.getD (th.pc + 16#64) }, shadow := none } :=
  (Thread.commit_pos _).trans (by simp [Thread.pos])

@[simp] theorem Thread.takeBranch_pc (th : Thread) (tg : Option Word) : (th.takeBranch tg).pc = th.pc + 8#64 :=
  congrArg Pos.pc (th.takeBranch_pos tg)

@[simp] theorem Thread.takeBranch_delay (th : Thread) (tg : Option Word) :
    (th.takeBranch tg).delay = some { branch := th.pc, target := tg.getD (th.pc + 16#64) } :=
  congrArg Pos.delay (th.takeBranch_pos tg)

/-! ### Operands of a branch -/

theorem sxt_toNat {n : Nat} (x : BitVec n) : sxt n x.toNat = x.toInt := by
  rw [sxt, BitVec.toInt_eq_toNat_cond, Nat.mod_eq_of_lt x.isLt]
  by_cases hx : 2 * x.toNat < 2 ^ n
  · simp [hx]
  · simp [hx, Nat.not_lt.mp hx]

theorem sx64_toNat {n : Nat} (x : BitVec n) : sx64 n x.toNat = x.signExtend 64 := by
  rw [sx64, sxt_toNat, BitVec.signExtend]

theorem Body.disp_eq_extractLsb' (f : BitVec 52) : Body.disp f = (f.extractLsb' 0 47).toNat := by
  simp [Body.disp, fld]

/-- The target of B and BL with DISP sign-extended as a bit vector (R98). -/
theorem Body.target_eq_signExtend (f : BitVec 52) (pc : Word) :
    Body.target f pc = pc + (f.extractLsb' 0 47).signExtend 64 * 8#64 := by
  rw [Body.target, Body.disp_eq_extractLsb', sx64_toNat]

/-- The model's test of the three lowest bits is the test for a multiple of 8. -/
theorem and_seven_eq_zero_iff (a : Word) : a &&& 7#64 = 0 ↔ a.toNat % 8 = 0 := by
  rw [← BitVec.toNat_inj, BitVec.toNat_and]
  exact iff_of_eq (congrArg (· = 0) (Nat.and_two_pow_sub_one_eq_mod a.toNat 3))

/-! ### Branches and jumps that fire -/

/-- What the fetch of a branch leaves, with the link register written (R98). -/
def State.linked (s : State) (t : Nat) (f : Body) : State :=
  (s.fetch t).2.setThr t ((s.thr t).wg f.rd ((s.thr t).pc + 16#64))

theorem State.linked_thr (s : State) (t : Nat) (f : Body) : (s.linked t f).thr t = (s.thr t).wg f.rd ((s.thr t).pc + 16#64) :=
  State.setThr_thr_same _ _ _

section Firing

variable {s : State} {t : ThreadId} {cond : BitVec 4}

theorem Fires.fetch_quiet {br : Bool} (h : Fires s t cond br) : Quiet s (s.fetch t.val).2 t.val := by
  obtain ⟨-, hready, -⟩ := h
  exact State.fetch_quiet s t.val hready

theorem Fires.kept_linked {br : Bool} (h : Fires s t cond br) (f : Body) : Kept s (s.linked t.val f) t.val :=
  h.fetch_quiet.kept.trans (Kept.setThr _ _ _)

theorem State.issueBranch_fires (body : State → Act) (h : Fires s t cond true) :
    s.issueBranch t.val cond true body = State.finish t.val (s.thr t.val).pos (body (s.fetch t.val).2) :=
  State.issueWith_fires _ body h

/-- A branch whose body makes `g` of its thread and keeps the rest: the thread becomes `g` of what it was, and the delay slot follows. -/
theorem threadBy_takeBranch {i : Instr} {w : State} {q : Pos} {g : Thread → Thread} {tg : Option Word} (hkept : Kept s w t.val)
    (hown : w.thr t.val = g (s.thr t.val)) (hi : exec i s = .next (State.finish t.val q (.branch w tg))) :
    ThreadBy i s t (fun th => (g th).takeBranch tg) := by
  refine ⟨w.updThr t.val (Thread.takeBranch · tg), hi, ?_, hkept.trans (Kept.updThr w t.val _)⟩
  rw [State.updThr_thr_same, hown]

variable (f : BitVec 52)

theorem exec_b_fires (h : Fires s t cond true) :
    exec (.b t cond f) s = .next (State.finish t.val (s.thr t.val).pos
      (.branch (s.fetch t.val).2 (some (Body.target f (s.thr t.val).pc)))) := by
  have hexec : exec (.b t cond f) s = execB t cond f s := rfl
  rw [hexec, execB, State.issueBranch_fires _ h, h.fetch_quiet.own]

theorem exec_bl_fires (h : Fires s t cond true) :
    exec (.bl t cond f) s = .next (State.finish t.val (s.thr t.val).pos
      (.branch (s.linked t.val f) (some (Body.target f (s.thr t.val).pc)))) := by
  have hexec : exec (.bl t cond f) s = execBl t cond f s := rfl
  rw [hexec, execBl, State.issueBranch_fires _ h, h.fetch_quiet.own, State.linked]

theorem exec_jr_fires (h : Fires s t cond true) (hr : Body.resR f = 0) :
    exec (.jr t cond f) s = .next (State.finish t.val (s.thr t.val).pos
      (if ((s.thr t.val).rg (Body.ra f)).toNat % 8 = 0 then .branch (s.fetch t.val).2 (some ((s.thr t.val).rg (Body.ra f)))
        else .exc (s.fetch t.val).2 (excOf exAlign ((s.thr t.val).rg (Body.ra f))))) := by
  have hexec : exec (.jr t cond f) s = execJr t cond f s := rfl
  rw [hexec, execJr, decide_eq_true hr, State.issueBranch_fires _ h, h.fetch_quiet.own]
  simp only [ne_eq, and_seven_eq_zero_iff, ite_not]

theorem exec_jlr_fires (h : Fires s t cond true) (hr : Body.resR f = 0) :
    exec (.jlr t cond f) s = .next (State.finish t.val (s.thr t.val).pos
      (if ((s.thr t.val).rg (Body.ra f)).toNat % 8 = 0 then
        .branch (s.linked t.val f) (some ((s.thr t.val).rg (Body.ra f)))
        else .exc (s.fetch t.val).2 (excOf exAlign ((s.thr t.val).rg (Body.ra f))))) := by
  have hexec : exec (.jlr t cond f) s = execJlr t cond f s := rfl
  rw [hexec, execJlr, decide_eq_true hr, State.issueBranch_fires _ h, h.fetch_quiet.own]
  simp only [ne_eq, and_seven_eq_zero_iff, ite_not, State.linked]

end Firing

/-! ### The statement -/

/-- Settles O8: a fetch that delivers leaves the thread as it was, so each of the four acts on the registers and the address that the
thread had; a branch then stands at its delay slot, and a misaligned register is the address of an ALIGN fault. -/
theorem branches : Obligations.Branches := by
  unfold Obligations.Branches
  refine ⟨fun th tg => ⟨th.takeBranch_pc _, th.takeBranch_delay _⟩, fun t cond f s h => ?_⟩
  dsimp only
  rw [← Body.target_eq_signExtend]
  have hq := h.fetch_quiet
  have hlink : (s.linked t.val f).thr t.val = (fun th => th.wg (Body.rd f) ((s.thr t.val).pc + 16#64)) (s.thr t.val) :=
    s.linked_thr t.val f
  refine ⟨threadBy_takeBranch (g := id) hq.kept hq.own (exec_b_fires f h),
    threadBy_takeBranch (h.kept_linked f) hlink (exec_bl_fires f h), fun hr ha => ?aligned, fun hr ha => ?misaligned⟩
  case aligned =>
    have hjr := exec_jr_fires f h hr
    have hjlr := exec_jlr_fires f h hr
    rw [if_pos ha] at hjr hjlr
    exact ⟨threadBy_takeBranch (g := id) hq.kept hq.own hjr, threadBy_takeBranch (h.kept_linked f) hlink hjlr⟩
  case misaligned =>
    have hjr := exec_jr_fires f h hr
    have hjlr := exec_jlr_fires f h hr
    rw [if_neg ha] at hjr hjlr
    exact ⟨hjr, hjlr⟩

end Sys2Proof.Machine
end

section
/-! SUPPORT. Element-wise vector instructions (R144, R145, R149, R151, R156): the elements and poison bits of a register that is put
together from them, the law of `lanewise`, what every instruction of `laneOps` does once it fires, and its integer results. -/

namespace Sys2Proof.Machine

/-! ### Elements of a register -/

theorem etWidth_pos (et : Nat) : 0 < etWidth et := by
  unfold etWidth
  split <;> decide

/-- Table VEC-2, as the statements write it. -/
theorem etWidth_eq {et : Nat} (h : et ≤ 6) :
    etWidth et = if et = 4 ∨ et = 5 then 2 else if et = 6 then 4 else 2 ^ et := by
  interval_cases et <;> rfl

/-- An element of a register is a digit of its data, to the base of the element's size. -/
theorem laneOf_eq_digit {w : Nat} (hw : 0 < w) (d : BitVec 2048) (k : Nat) :
    laneOf w d k = d.toNat / (2 ^ (8 * w)) ^ k % 2 ^ (8 * w) := by
  have hwidth : 8 * w * (k + 1) - 1 + 1 - 8 * w * k = 8 * w := by rw [Nat.mul_succ]; omega
  rw [laneOf, fld, hwidth, Nat.pow_mul]

theorem laneOf_lt {w : Nat} (hw : 0 < w) (d : BitVec 2048) (k : Nat) : laneOf w d k < 2 ^ (8 * w) := by
  rw [laneOf_eq_digit hw]
  exact Nat.mod_lt _ (Nat.two_pow_pos _)

theorem toNat_ofNat_ofDigits {b n : Nat} (hb : b ≠ 0) {l : List Nat} (hfit : b * l.length ≤ n) (hl : ∀ x ∈ l, x < 2 ^ b) :
    (BitVec.ofNat n (Nat.ofDigits (2 ^ b) l)).toNat = Nat.ofDigits (2 ^ b) l := by
  have hlt : Nat.ofDigits (2 ^ b) l < 2 ^ n :=
    calc Nat.ofDigits (2 ^ b) l < (2 ^ b) ^ l.length := Nat.ofDigits_lt_base_pow_length (Nat.one_lt_two_pow hb) hl
      _ = 2 ^ (b * l.length) := (Nat.pow_mul ..).symm
      _ ≤ 2 ^ n := Nat.pow_le_pow_right Nat.two_pos hfit
  rw [BitVec.toNat_ofNat, Nat.mod_eq_of_lt hlt]

theorem packLanes_toNat {w : Nat} (hw : 0 < w) {l : List Nat} (hfit : 8 * w * l.length ≤ 2048) (hl : ∀ x ∈ l, x < 2 ^ (8 * w)) :
    (packLanes w l).toNat = Nat.ofDigits (2 ^ (8 * w)) l := by
  rw [packLanes, ← toNat_ofNat_ofDigits (by omega) hfit hl, Nat.ofDigits_eq_foldr]
  rfl

theorem laneOf_packLanes {w : Nat} (hw : 0 < w) {l : List Nat} (hfit : 8 * w * l.length ≤ 2048) (hl : ∀ x ∈ l, x < 2 ^ (8 * w))
    {k : Nat} (hk : k < l.length) : laneOf w (packLanes w l) k = l[k] := by
  rw [laneOf_eq_digit hw, packLanes_toNat hw hfit hl, Nat.ofDigits_div_pow_eq_ofDigits_drop k (Nat.two_pow_pos _) l hl,
    List.drop_eq_getElem_cons hk, Nat.ofDigits_cons, Nat.add_mul_mod_self_left, Nat.mod_eq_of_lt (hl _ (List.getElem_mem hk))]

/-! ### Poison bits -/

theorem sum_bits_lt (p : Nat → Bool) (n : Nat) : ((List.range n).map (fun g => if p g then 2 ^ g else 0)).sum < 2 ^ n := by
  induction n with
  | zero => exact Nat.one_pos
  | succ n ih =>
    rw [List.range_succ, List.map_append, List.sum_append, Nat.pow_succ]
    simp only [List.map_cons, List.map_nil, List.sum_cons, List.sum_nil]
    split <;> omega

theorem testBit_sum_bits (p : Nat → Bool) {n g : Nat} (hg : g < n) :
    ((List.range n).map (fun g => if p g then 2 ^ g else 0)).sum.testBit g = p g := by
  induction n with
  | zero => exact absurd hg (Nat.not_lt_zero g)
  | succ n ih =>
    have hstep : ((List.range (n + 1)).map (fun g => if p g then 2 ^ g else 0)).sum
        = 2 ^ n * (p n).toNat + ((List.range n).map (fun g => if p g then 2 ^ g else 0)).sum := by
      cases hp : p n <;> simp [List.range_succ, hp, Nat.add_comm]
    rw [hstep, Nat.testBit_two_pow_mul_add _ (sum_bits_lt p n)]
    by_cases hgn : g < n
    · rw [if_pos hgn, ih hgn]
    · obtain rfl : g = n := by omega
      cases p g <;> simp

theorem poisonBits_getLsbD (p : Nat → Bool) {g : Nat} (hg : g < 8) : (poisonBits p).getLsbD g = p g := by
  rw [poisonBits, BitVec.getLsbD_ofNat, testBit_sum_bits p hg, decide_eq_true hg, Bool.true_and]

/-! ### Active elements and flags -/

theorem PReg.active_iff (p : PReg) (w k : Nat) : p.active w k = true ↔ activeAt p w k := Iff.rfl

theorem PReg.someActive_iff (p : PReg) (w g : Nat) :
    p.someActive w g = true ↔ ∃ k, k < 256 / w ∧ k * w / 32 = g ∧ activeAt p w k := by
  simp [PReg.someActive, lanes, PReg.active_iff]

theorem PReg.someIdle_iff (p : PReg) (w g : Nat) :
    p.someIdle w g = true ↔ ∃ k, k < 256 / w ∧ k * w / 32 = g ∧ ¬ activeAt p w k := by
  simp [PReg.someIdle, lanes, ← PReg.active_iff]

/-- A flag of a fold over elements is raised by an element that `c` counts. -/
theorem Flg.foldl_or_eq_true {flag : Flg → Bool} (hor : ∀ a b, flag (a.or b) = (flag a || flag b)) (hnone : flag {} = false)
    (c : Nat → Bool) (op : Nat → Flg) (n : Nat) :
    flag ((List.range n).foldl (fun fl k => if c k then fl.or (op k) else fl) {}) = true
      ↔ ∃ k, k < n ∧ c k = true ∧ flag (op k) = true := by
  induction n with
  | zero => simp [hnone]
  | succ n ih =>
    rw [List.range_succ, List.foldl_append, List.foldl_cons, List.foldl_nil, Nat.exists_lt_succ_right]
    by_cases hc : c n = true
    · rw [if_pos hc, hor, Bool.or_eq_true, ih]; simp [hc]
    · rw [if_neg hc, ih]; simp [hc]

theorem flagsAre_foldl {n : Nat} {on : Nat → Prop} {c : Nat → Bool} (hc : ∀ k, k < n → (c k = true ↔ on k)) (op : Nat → Flg) :
    flagsAre n on op ((List.range n).foldl (fun fl k => if c k then fl.or (op k) else fl) {}) := by
  have hflag : ∀ flag : Flg → Bool, (∀ a b, flag (a.or b) = (flag a || flag b)) → flag {} = false →
      (flag ((List.range n).foldl (fun fl k => if c k then fl.or (op k) else fl) {}) = true
        ↔ ∃ k, k < n ∧ on k ∧ flag (op k) = true) := fun flag hor hnone =>
    (Flg.foldl_or_eq_true hor hnone c op n).trans
      (exists_congr fun k => and_congr_right fun hk => and_congr_left' (hc k hk))
  exact ⟨hflag Flg.nv (fun _ _ => rfl) rfl, hflag Flg.dz (fun _ _ => rfl) rfl, hflag Flg.ofl (fun _ _ => rfl) rfl,
    hflag Flg.uf (fun _ _ => rfl) rfl, hflag Flg.nx (fun _ _ => rfl) rfl⟩

/-- Elements that raise no flag leave none. -/
theorem flagsAre.eq_none {n : Nat} {on : Nat → Prop} {fl : Flg} (h : flagsAre n on (fun _ => {}) fl) : fl = {} := by
  obtain ⟨nv, dz, ofl, uf, nx⟩ := fl
  simpa [flagsAre] using h

/-! ### The law of `lanewise` -/

theorem granule_lt {w k : Nat} (hw : 0 < w) (hk : k < 256 / w) : k * w / 32 < 8 := by
  have hle : (k + 1) * w ≤ 256 := Nat.mul_le_of_le_div w (k + 1) 256 hk
  rw [Nat.succ_mul] at hle
  omega

section Lanewise

variable {w : Nat} (p : PReg) (zm : Bool) (old : VReg) (src : Nat → Bool) (op : Nat → Nat × Flg)

theorem lanewise_lane (hw : 0 < w) (hop : ∀ k, (op k).1 < 2 ^ (8 * w)) {k : Nat} (hk : k < 256 / w) :
    laneOf w (lanewise w p zm old src op).1.data k
      = if p.active w k then (op k).1 else if zm then 0 else laneOf w old.data k := by
  have hlt : ∀ k, (if p.active w k then (op k).1 else if zm then 0 else laneOf w old.data k) < 2 ^ (8 * w) := by
    intro k
    split_ifs
    · exact hop k
    · exact Nat.two_pow_pos _
    · exact laneOf_lt hw _ k
  have hfit : 8 * w * (256 / w) ≤ 2048 := by
    rw [Nat.mul_assoc]
    exact Nat.mul_le_mul_left 8 (Nat.mul_div_le 256 w)
  rw [lanewise, laneOf_packLanes hw] <;> simp [lanes, hlt, hfit, hk]

theorem lanewise_poison {g : Nat} (hg : g < 8) :
    (lanewise w p zm old src op).1.poison.getLsbD g
      = (bit p.poison g || (p.someActive w g && src g) || (!zm && p.someIdle w g && bit old.poison g)) :=
  poisonBits_getLsbD _ hg

theorem lanewise_flagsAre (hw : 0 < w) :
    flagsAre (256 / w) (fun k => activeAt p w k ∧ (lanewise w p zm old src op).1.poison.getLsbD (k * w / 32) = false)
      (fun k => (op k).2) (lanewise w p zm old src op).2 := by
  refine flagsAre_foldl (fun k hk => ?_) _
  rw [lanewise_poison p zm old src op (granule_lt hw hk), Bool.and_eq_true, Bool.not_eq_true', PReg.active_iff]

end Lanewise

/-- `lanewise` does what R144, R145 and R149 say of an element-wise operation whose results are elements. -/
theorem lanesAre_lanewise {w : Nat} (hw : 0 < w) (p : PReg) (zm : Bool) (old : VReg) {src : Nat → Bool} {poisoned : Nat → Prop}
    (hsrc : ∀ g, src g = true ↔ poisoned g) {op : Nat → Nat × Flg} (hop : ∀ k, (op k).1 < 2 ^ (8 * w)) :
    lanesAre w p zm old poisoned op (lanewise w p zm old src op).1 (lanewise w p zm old src op).2 := by
  refine ⟨fun k hk => ?elements, fun g hg => ?poison, lanewise_flagsAre p zm old src op hw⟩
  case elements =>
    rw [lanewise_lane p zm old src op hw hop hk]
    exact ⟨fun ha => if_pos ha, fun ha => if_neg ha⟩
  case poison =>
    rw [lanewise_poison p zm old src op hg, Bool.or_eq_true, Bool.or_eq_true, Bool.and_eq_true, Bool.and_eq_true, Bool.and_eq_true,
      PReg.someActive_iff, PReg.someIdle_iff, hsrc, Bool.not_eq_true', or_assoc]
    refine or_congr Iff.rfl (or_congr ⟨?_, ?_⟩ ⟨?_, ?_⟩)
    · rintro ⟨⟨k, hk, hg, ha⟩, hs⟩; exact ⟨k, hk, hg, ha, hs⟩
    · rintro ⟨k, hk, hg, ha, hs⟩; exact ⟨⟨k, hk, hg, ha⟩, hs⟩
    · rintro ⟨⟨hz, hidle⟩, ho⟩; exact ⟨hz, ho, hidle⟩
    · rintro ⟨hz, ho, hidle⟩; exact ⟨⟨hz, hidle⟩, ho⟩

/-! ### Vector instructions that fire -/

section Firing

variable {s : State} {t : ThreadId} {cond : BitVec 4} {i : Instr}

/-- The register and the flags of an element-wise operation. -/
def Thread.laneResult (th : Thread) (f : Body) (srcs : List Nat) (op : Nat → Nat → Nat → Nat × Flg) : VReg × Flg :=
  lanewise (etWidth f.et) (th.rp f.psel) f.zm (th.rv f.vd) (fun g => srcs.any (fun x => bit (th.rv x).poison g))
    (fun k => op (laneOf (etWidth f.et) (th.rv f.va).data k) (laneOf (etWidth f.et) (th.rv f.vb).data k)
      (laneOf (etWidth f.et) (th.rv f.vc).data k))

theorem Thread.lanesOp_eq (th : Thread) (f : Body) (srcs : List Nat) (op : Nat → Nat → Nat → Nat × Flg) :
    th.lanesOp f srcs op = ([.v f.vd (th.laneResult f srcs op).1], (th.laneResult f srcs op).2) := rfl

theorem vecStep_issueVec (work : Thread → List RegWrite × Flg) (h : Fires s t cond false)
    (hi : exec i s = .next (s.issueVec t.val cond true work)) : VecStep i s t (work (s.thr t.val)).1 (work (s.thr t.val)).2 :=
  ⟨_, hi, State.issueThr_fires (fun th => th.pendV (work th).1 (work th).2) h⟩

/-- An element-wise instruction that fires: its one register write and its flags are those of R144, R145 and R149. -/
theorem lanesOp_fires {f : BitVec 52} {srcs : List Nat} {op : Nat → Nat → Nat → Nat × Flg} (hw : 0 < etWidth (Body.et f))
    (h : Fires s t cond false) (hi : exec i s = .next (s.issueVec t.val cond true (fun th => th.lanesOp f srcs op)))
    {res : Nat → Nat × Flg} (hop : ∀ k, op (laneOf (etWidth (Body.et f)) ((s.thr t.val).rv (Body.va f)).data k)
      (laneOf (etWidth (Body.et f)) ((s.thr t.val).rv (Body.vb f)).data k)
      (laneOf (etWidth (Body.et f)) ((s.thr t.val).rv (Body.vc f)).data k) = res k)
    (hres : ∀ k, (res k).1 < 2 ^ (8 * etWidth (Body.et f))) :
    ∃ r fl, VecStep i s t [.v (Body.vd f) r] fl
      ∧ lanesAre (etWidth (Body.et f)) ((s.thr t.val).rp (Body.psel f)) (Body.zm f) ((s.thr t.val).rv (Body.vd f))
        (fun g => ∃ x ∈ srcs, ((s.thr t.val).rv x).poison.getLsbD g = true) res r fl := by
  obtain rfl := funext hop
  have hstep := vecStep_issueVec _ h hi
  rw [Thread.lanesOp_eq] at hstep
  exact ⟨_, _, hstep, lanesAre_lanewise hw _ _ _ (fun g => by simp [bit]) hres⟩

end Firing

/-! ### The instructions of `laneOps` -/

/-- What operation `n` of `laneOps` does to each element, by the model. -/
def laneModel (n et : Nat) (us sat : Bool) : Nat → Nat → Nat → Nat × Flg :=
  match n with
  | 0 => fun a b _ => laneAdd et us sat a b
  | 1 => fun a b _ => laneSub et us sat a b
  | 2 => fun a b _ => laneMul et us a b
  | 3 => laneFma et us false
  | 4 => laneFma et us true
  | 5 => fun a b _ => laneMin et us a b
  | 6 => fun a b _ => laneMax et us a b
  | 7 => fun a _ _ => laneAbs et us a
  | 8 => fun a b _ => (Nat.land a b, {})
  | 9 => fun a b _ => (Nat.lor a b, {})
  | 10 => fun a b _ => (Nat.xor a b, {})
  | 11 => fun a b _ => laneShl (etWidth et) a b
  | 12 => fun a b _ => laneShr (etWidth et) us a b
  | 13 => fun a _ _ => laneRcp et a
  | 14 => fun a _ _ => laneRsq et a
  | _ => fun a _ _ => laneExp2 et a

/-- R151: the shifts are of integers, and VRCP, VRSQ and VEXP2 of floating types. -/
def laneTypeOk (n : Nat) (f : Body) : Prop :=
  f.etOk = true ∧ (n = 11 ∨ n = 12 → etInt f.et = true) ∧ (13 ≤ n → etFp f.et = true)

section LaneOps

variable {n : Nat} {f : BitVec 52}

/-- The fields that operation `n` does not use are 0. -/
theorem laneLegal.zeroA (h : laneLegal n f) {vb vc fn : Bool} (hvb : vb = true ∨ n = 7 ∨ 13 ≤ n) (hvc : vc = true ∨ n ≠ 3 ∧ n ≠ 4)
    (hfn : fn = true ∨ 2 ≤ n) : Body.zeroA f true true vb vc fn false = true := by
  obtain ⟨hres, hrg, hc, hb, hf, -⟩ := h
  have hfn0 : 2 ≤ n → Body.fn f = 0 := by omega
  simp [Body.zeroA, hres, hrg, hvb.imp_right hb, hvc.imp_right hc, hfn.imp_right hfn0]

theorem laneLegal.satOk (h : laneLegal n f) : Body.satOk f = true := by
  obtain ⟨-, -, -, -, hf, -⟩ := h
  rcases hf with hf | ⟨-, hf, het⟩ <;> simp [Body.satOk, etInt, *]

theorem laneLegal.us_eq_false (h : laneLegal n f) (hn : 8 ≤ n ∧ n ≤ 11) : (!Body.us f) = true := by
  obtain ⟨-, -, -, -, -, hus⟩ := h
  rw [hus hn, Bool.not_false]

/-- Bit 0 of a legal FN says whether it is 1. -/
theorem laneLegal.sat_eq (h : laneLegal n f) : bit f 16 = decide (Body.fn f = 1) := by
  obtain ⟨-, -, -, -, hf, -⟩ := h
  have hbit : bit f 16 = decide (Body.fn f % 2 = 1) := by
    rw [bit, BitVec.getLsbD, Nat.testBit_eq_decide_div_mod_eq, Body.fn, fld, Nat.mod_mod_of_dvd _ (by decide)]
  rw [hbit]
  rcases hf with hf | ⟨-, hf, -⟩ <;> rw [hf]

variable {s : State} {t : Nat} {cond : BitVec 4} {legal fn : Bool}

theorem State.vec2_legal (op : Nat → Nat → Nat × Flg) (hl : legal = true) (het : Body.etOk f = true)
    (hz : Body.zeroA f true true true false fn false = true) :
    s.vec2 t cond f legal fn op
      = s.issueVec t cond true (fun th => th.lanesOp f [Body.va f, Body.vb f] (fun a b _ => op a b)) := by
  rw [State.vec2, hl, het, hz]
  rfl

theorem State.vec1_legal (op : Nat → Nat × Flg) (hl : legal = true) (het : Body.etOk f = true)
    (hz : Body.zeroA f true true false false false false = true) :
    s.vec1 t cond f legal op = s.issueVec t cond true (fun th => th.lanesOp f [Body.va f] (fun a _ _ => op a)) := by
  rw [State.vec1, hl, het, hz]
  rfl

theorem State.vec3_legal (neg : Bool) (het : Body.etOk f = true) (hz : Body.zeroA f true true true true false false = true) :
    s.vec3 t cond f neg
      = s.issueVec t cond true (fun th => th.lanesOp f [Body.va f, Body.vb f, Body.vc f] (laneFma (Body.et f) (Body.us f) neg)) := by
  rw [State.vec3, het, hz]
  rfl

end LaneOps

/-- Every legal instruction of `laneOps` issues its operation of `laneModel` on its sources. -/
theorem exec_laneOps (n : Fin 16) (t : ThreadId) (cond : BitVec 4) (f : BitVec 52) (s : State) (hl : laneLegal n.val f)
    (ht : laneTypeOk n.val f) :
    exec ((laneOps.getD n.val .vadd) t cond f) s = .next (s.issueVec t.val cond true
      (fun th => th.lanesOp f (laneSrcs n.val f) (laneModel n.val (Body.et f) (Body.us f) (bit f 16)))) := by
  obtain ⟨het, hshift, hfp⟩ := ht
  match n with
  | 0 | 1 => exact congrArg _ (State.vec2_legal _ hl.satOk het (hl.zeroA (by decide) (by decide) (by decide)))
  | 2 | 5 | 6 => exact congrArg _ (State.vec2_legal _ rfl het (hl.zeroA (by decide) (by decide) (by decide)))
  | 3 | 4 => exact congrArg _ (State.vec3_legal _ het (hl.zeroA (by decide) (by decide) (by decide)))
  | 7 => exact congrArg _ (State.vec1_legal _ rfl het (hl.zeroA (by decide) (by decide) (by decide)))
  | 8 | 9 | 10 =>
    exact congrArg _ (State.vec2_legal _ (hl.us_eq_false (by decide)) het (hl.zeroA (by decide) (by decide) (by decide)))
  | 11 =>
    exact congrArg _ (State.vec2_legal _ (Bool.and_eq_true_iff.mpr ⟨hshift (.inl rfl), hl.us_eq_false (by decide)⟩) het
      (hl.zeroA (by decide) (by decide) (by decide)))
  | 12 => exact congrArg _ (State.vec2_legal _ (hshift (.inr rfl)) het (hl.zeroA (by decide) (by decide) (by decide)))
  | 13 | 14 | 15 => exact congrArg _ (State.vec1_legal _ (hfp (by decide)) het (hl.zeroA (by decide) (by decide) (by decide)))
  | ⟨n + 16, hn⟩ => exact absurd hn (by omega)

/-! ### Integer elements -/

theorem laneInt_eq_toI (w : Nat) (us : Bool) (x : Nat) : laneInt w us x = toI w us x := by
  cases us
  · by_cases hx : 2 * x < 2 ^ (8 * w)
    · simp [laneInt, signed, toI, hx]
    · simp [laneInt, signed, toI, hx, Nat.not_lt.mp hx]
  · rfl

theorem wrapInt_eq_ofI (w : Nat) (v : Int) : wrapInt w v = ofI w v := by
  rw [wrapInt, ofI, Nat.cast_pow, Nat.cast_ofNat]

theorem ofI_lt (w : Nat) (v : Int) : ofI w v < 2 ^ (8 * w) := by
  have hpos : (0 : Int) < 2 ^ (8 * w) := by positivity
  have hlt := Int.emod_lt_of_pos v hpos
  rw [ofI, Int.toNat_lt (Int.emod_nonneg v hpos.ne')]
  exact_mod_cast hlt

/-- An element read as an integer and wrapped again is the element. -/
theorem ofI_toI {w : Nat} {us : Bool} {x : Nat} (hx : x < 2 ^ (8 * w)) : ofI w (toI w us x) = x := by
  have hmod : (x : Int) % 2 ^ (8 * w) = x := Int.emod_eq_of_lt (Int.natCast_nonneg x) (by exact_mod_cast hx)
  rw [ofI, toI]
  split_ifs
  · rw [hmod, Int.toNat_natCast]
  · rw [Int.sub_emod_right, hmod, Int.toNat_natCast]

theorem minInt_le_maxInt (w : Nat) (us : Bool) : minInt w us ≤ maxInt w us := by
  have hfull : 0 < 2 ^ (8 * w) := Nat.two_pow_pos _
  have hhalf : 0 < 2 ^ (8 * w - 1) := Nat.two_pow_pos _
  cases us
  · rw [minInt, maxInt, if_neg Bool.false_ne_true, if_neg Bool.false_ne_true]; omega
  · rw [minInt, maxInt, if_pos rfl, if_pos rfl]; omega

/-- The range that R156 saturates to, by its bounds. -/
theorem clampI_eq_max_min (w : Nat) (us : Bool) (v : Int) : clampI w us v = max (minInt w us) (min (maxInt w us) v) := by
  cases us <;> simp [clampI, minInt, maxInt]

theorem satInt_eq_clampI (w : Nat) (us : Bool) (v : Int) : satInt w us v = ofI w (clampI w us v) := by
  have hrange := minInt_le_maxInt w us
  have hclamp : (if v < minInt w us then minInt w us else if v > maxInt w us then maxInt w us else v) = clampI w us v := by
    rw [clampI_eq_max_min]
    split_ifs <;> omega
  rw [satInt, hclamp, wrapInt_eq_ofI]

theorem intLane_lt {n w : Nat} {us sat : Bool} {a b c : Nat} (ha : a < 2 ^ (8 * w)) (hb : b < 2 ^ (8 * w)) :
    intLane n w us sat a b c < 2 ^ (8 * w) := by
  match n with
  | 8 => exact Nat.and_lt_two_pow _ hb
  | 9 => exact Nat.or_lt_two_pow ha hb
  | 10 => exact Nat.xor_lt_two_pow ha hb
  | 11 => exact Nat.mod_lt _ (Nat.two_pow_pos _)
  | 0 | 1 | 2 | 3 | 4 | 5 | 6 | 7 | _ + 12 => exact ofI_lt _ _

section IntLanes

variable {et : Nat} (us sat neg : Bool) (a b c : Nat)

theorem laneAdd_int (h : etInt et = true) : laneAdd et us sat a b = (intLane 0 (etWidth et) us sat a b c, {}) := by
  cases sat <;> simp [laneAdd, h, intLane, laneInt_eq_toI, wrapInt_eq_ofI, satInt_eq_clampI]

theorem laneSub_int (h : etInt et = true) : laneSub et us sat a b = (intLane 1 (etWidth et) us sat a b c, {}) := by
  cases sat <;> simp [laneSub, h, intLane, laneInt_eq_toI, wrapInt_eq_ofI, satInt_eq_clampI]

theorem laneMul_int (h : etInt et = true) : laneMul et us a b = (intLane 2 (etWidth et) us sat a b c, {}) := by
  simp [laneMul, h, intLane, laneInt_eq_toI, wrapInt_eq_ofI]

theorem laneFma_int (h : etInt et = true) :
    laneFma et us neg a b c = (intLane (if neg then 4 else 3) (etWidth et) us sat a b c, {}) := by
  cases neg <;> simp [laneFma, h, intLane, laneInt_eq_toI, wrapInt_eq_ofI, add_comm]

variable {a b}

/-- The smaller integer is one of the two elements. -/
theorem laneMin_int (h : etInt et = true) (ha : a < 2 ^ (8 * etWidth et)) (hb : b < 2 ^ (8 * etWidth et)) :
    laneMin et us a b = (intLane 5 (etWidth et) us sat a b c, {}) := by
  rcases lt_or_ge (toI (etWidth et) us b) (toI (etWidth et) us a) with hlt | hge
  · simp [laneMin, h, intLane, laneInt_eq_toI, hlt, min_eq_right hlt.le, ofI_toI hb]
  · simp [laneMin, h, intLane, laneInt_eq_toI, hge.not_gt, min_eq_left hge, ofI_toI ha]

theorem laneMax_int (h : etInt et = true) (ha : a < 2 ^ (8 * etWidth et)) (hb : b < 2 ^ (8 * etWidth et)) :
    laneMax et us a b = (intLane 6 (etWidth et) us sat a b c, {}) := by
  rcases lt_or_ge (toI (etWidth et) us a) (toI (etWidth et) us b) with hlt | hge
  · simp [laneMax, h, intLane, laneInt_eq_toI, hlt, max_eq_right hlt.le, ofI_toI hb]
  · simp [laneMax, h, intLane, laneInt_eq_toI, hge.not_gt, max_eq_left hge, ofI_toI ha]

variable (a b)

theorem laneAbs_int (h : etInt et = true) : laneAbs et us a = (intLane 7 (etWidth et) us sat a b c, {}) := by
  simp [laneAbs, h, intLane, laneInt_eq_toI, wrapInt_eq_ofI]

theorem laneShr_int (w : Nat) : laneShr w us a b = (intLane 12 w us sat a b c, {}) := by
  simp [laneShr, intLane, laneInt_eq_toI, wrapInt_eq_ofI]

end IntLanes

/-- R151, R156: on integer types, and on every type for the bitwise operations, the model's operation is that of `intLane`, and it
raises no flag. -/
theorem laneModel_eq_intLane {n et : Nat} {us sat : Bool} {a b c : Nat} (hn : n ≤ 12) (het : et ≤ 3 ∨ 8 ≤ n ∧ n ≤ 10)
    (ha : a < 2 ^ (8 * etWidth et)) (hb : b < 2 ^ (8 * etWidth et)) :
    laneModel n et us sat a b c = (intLane n (etWidth et) us sat a b c, {}) := by
  have hint : ¬ (8 ≤ n ∧ n ≤ 10) → etInt et = true := fun hbit => decide_eq_true (het.resolve_right hbit)
  match n with
  | 0 => exact laneAdd_int us sat a b c (hint (by decide))
  | 1 => exact laneSub_int us sat a b c (hint (by decide))
  | 2 => exact laneMul_int us sat a b c (hint (by decide))
  | 3 => exact laneFma_int us sat false a b c (hint (by decide))
  | 4 => exact laneFma_int us sat true a b c (hint (by decide))
  | 5 => exact laneMin_int us sat c (hint (by decide)) ha hb
  | 6 => exact laneMax_int us sat c (hint (by decide)) ha hb
  | 7 => exact laneAbs_int us sat a b c (hint (by decide))
  | 8 | 9 | 10 | 11 => rfl
  | 12 => exact laneShr_int us sat a b c (etWidth et)
  | _ + 13 => omega

/-! ### The statement -/

/-- Settles O23: each of the operations issues its `laneModel` on the elements, which on integers is `intLane`; its results are elements
and raise no flag. -/
theorem vectorIntegers : Obligations.VectorIntegers := by
  unfold Obligations.VectorIntegers
  intro n t cond f s hfires hlegal htype
  have hn : n.val ≤ 12 := by omega
  have het : Body.et f ≤ 6 := by omega
  have htypeOk : laneTypeOk n.val f := by
    refine ⟨?_, fun hshift => decide_eq_true (by omega), fun hfp => absurd hn (by omega)⟩
    rcases htype with hint | ⟨hlo, hhi, -⟩
    · simp [Body.etOk, etInt, hint, show Body.et f ≠ 7 by omega]
    · simp [Body.etOk, hlegal.us_eq_false ⟨hlo, by omega⟩, show Body.et f ≠ 7 by omega]
  have hw := etWidth_pos (Body.et f)
  have hlane := fun r k => laneOf_lt hw ((s.thr t.val).rv r).data k
  dsimp only
  rw [← etWidth_eq het]
  obtain ⟨r, fl, hstep, hlanes⟩ := lanesOp_fires hw hfires
    (exec_laneOps (n.castLE (by decide)) t cond f s hlegal htypeOk)
    (fun k => laneModel_eq_intLane hn (htype.imp_right fun ⟨hlo, hhi, _⟩ => ⟨hlo, hhi⟩) (hlane _ k) (hlane _ k))
    (fun k => intLane_lt (hlane _ k) (hlane _ k))
  obtain ⟨-, -, hflags⟩ := id hlanes
  obtain rfl : fl = {} := hflags.eq_none
  rw [hlegal.sat_eq] at hlanes
  exact ⟨r, hstep, hlanes⟩

end Sys2Proof.Machine
end
